-- ==== Sys2Proof/Word.lean ====
section
/-! DEFINITION. The word types of the K9 and the names of its registers (spec 00_scope R2, 03_encodings R50). -/

namespace Sys2Proof

/-- A 64-bit register value or address. -/
abbrev Word := BitVec 64
/-- One byte of memory. -/
abbrev Byte := BitVec 8
/-- An instruction word (R39). -/
abbrev Code := BitVec 32
/-- x0-x31 (R50). -/
abbrev Reg := Fin 32
/-- v0-v31 (R50). -/
abbrev VReg := Fin 32
/-- acc0-acc3 (R50). -/
abbrev Acc := Fin 4

end Sys2Proof
end

