-- ==== Sys2Proof/Machine/Float.lean ====
section
/-! DEFINITION. Number formats by exact arithmetic (spec 04_number_formats R75-R91): a finite value is a sign and m * 2^e; every rounding
is one rounding of an exact value. -/

namespace Sys2Proof.Machine

/-- A dyadic number m * 2^e. -/
structure Dy where
  m : Int
  e : Int
  deriving DecidableEq, Repr

def Dy.add (a b : Dy) : Dy :=
  let e := min a.e b.e
  ⟨a.m * 2 ^ (a.e - e).toNat + b.m * 2 ^ (b.e - e).toNat, e⟩
def Dy.mul (a b : Dy) : Dy := ⟨a.m * b.m, a.e + b.e⟩
def Dy.neg (a : Dy) : Dy := ⟨-a.m, a.e⟩
/-- Is a ≤ b? -/
def Dy.le (a b : Dy) : Bool := decide ((Dy.add b (Dy.neg a)).m ≥ 0)

/-- A floating-point value: a NaN, an infinity, or a signed finite magnitude mag * 2^e. -/
inductive Fp
  | nan
  | inf (neg : Bool)
  | fin (neg : Bool) (mag : Nat) (e : Int)
  deriving DecidableEq, Repr

/-- The value of a code with eb exponent bits and fb fraction bits (R75); not for E4M3. -/
def unpack (eb fb : Nat) (x : Nat) : Fp :=
  let neg := decide (x / 2 ^ (eb + fb) % 2 = 1)
  let e := x / 2 ^ fb % 2 ^ eb
  let f := x % 2 ^ fb
  let bias : Int := 2 ^ (eb - 1) - 1
  if e = 2 ^ eb - 1 then (if f = 0 then .inf neg else .nan)
  else if e = 0 then .fin neg f (1 - bias - fb)
  else .fin neg (2 ^ fb + f) (e - bias - fb)

/-- The value of an E4M3 code (R75). -/
def unpackE4m3 (x : Nat) : Fp :=
  let neg := decide (x / 128 % 2 = 1)
  let e := x / 8 % 16
  let f := x % 8
  if e = 15 ∧ f = 7 then .nan
  else if e = 0 then .fin neg f (-9)
  else .fin neg (8 + f) ((e : Int) - 10)

/-- n / 2^sh rounded to nearest, ties to even. -/
def rneShift (n sh : Nat) : Nat :=
  let q := n / 2 ^ sh
  let r := n % 2 ^ sh
  if 2 * r > 2 ^ sh ∨ (2 * r = 2 ^ sh ∧ q % 2 = 1) then q + 1 else q

/-- n / d rounded to nearest, ties to even (d > 0). -/
def rneDiv (n d : Nat) : Nat :=
  let q := n / d
  let r := n % d
  if 2 * r > d ∨ (2 * r = d ∧ q % 2 = 1) then q + 1 else q

/-- The code, without sign, of mag * 2^e rounded to nearest even; subnormals kept, overflow to the all-ones exponent (R84, R86). -/
def packMag (eb fb : Nat) (mag : Nat) (e : Int) : Nat :=
  if mag = 0 then 0 else
  let bias : Int := 2 ^ (eb - 1) - 1
  let top := max ((mag.log2 : Int) + e) (1 - bias)
  let sh := top - fb - e
  let n := if sh ≤ 0 then mag * 2 ^ (-sh).toNat else rneShift mag sh.toNat
  let code := (top + bias - 1).toNat * 2 ^ fb + n
  min code ((2 ^ eb - 1) * 2 ^ fb)

/-- A signed code. -/
def packSigned (eb fb : Nat) (neg : Bool) (mag : Nat) (e : Int) : Nat :=
  (if neg then 2 ^ (eb + fb) else 0) + packMag eb fb mag e

/-- RNE32 of a dyadic number; zero gives +0 (R84). -/
def rne32 (d : Dy) : BitVec 32 := BitVec.ofNat 32 (packSigned 8 23 (decide (d.m < 0)) d.m.natAbs d.e)

/-- The FP32 value of a lane. -/
def f32 (x : BitVec 32) : Fp := unpack 8 23 x.toNat
def isNan32 (x : BitVec 32) : Bool := f32 x == .nan
/-- A NaN with its quiet bit set (R76). -/
def quiet32 (x : BitVec 32) : BitVec 32 := x ||| 0x00400000#32
def canonNan : BitVec 32 := 0x7FC00000#32
def inf32 (neg : Bool) : BitVec 32 := if neg then 0xFF800000#32 else 0x7F800000#32
/-- A finite value as a dyadic number. -/
def dyOf (neg : Bool) (mag : Nat) (e : Int) : Dy := ⟨if neg then -(mag : Int) else mag, e⟩

/-- ADD32 on values: generated NaNs canonical (R84). -/
def addFp (a b : Fp) : BitVec 32 :=
  match a, b with
  | .nan, _ => canonNan
  | _, .nan => canonNan
  | .inf s, .inf t => if s = t then inf32 s else canonNan
  | .inf s, _ => inf32 s
  | _, .inf t => inf32 t
  | .fin s m e, .fin t n f =>
    let d := Dy.add (dyOf s m e) (dyOf t n f)
    if d.m = 0 then (if s && t && decide (m = 0) && decide (n = 0) then 0x80000000#32 else 0#32) else rne32 d

/-- ADD32 (R84). -/
def add32 (a b : BitVec 32) : BitVec 32 := addFp (f32 a) (f32 b)

/-- The first NaN of two operands, quietened (R240). -/
def nan2 (a b : BitVec 32) : Option (BitVec 32) :=
  if isNan32 a then some (quiet32 a) else if isNan32 b then some (quiet32 b) else none

/-- Addition with NaN propagation (R177, R240). -/
def fadd (a b : BitVec 32) : BitVec 32 := (nan2 a b).getD (add32 a b)
/-- Subtraction (R258): a NaN operand keeps its sign. -/
def fsub (a b : BitVec 32) : BitVec 32 := (nan2 a b).getD (add32 a (b ^^^ 0x80000000#32))

/-- Exact product of two values; ∞ × 0 is NaN (R83). -/
def mulFp (a b : Fp) : Fp :=
  match a, b with
  | .nan, _ => .nan
  | _, .nan => .nan
  | .inf s, .inf t => .inf (xor s t)
  | .inf s, .fin t n _ => if n = 0 then .nan else .inf (xor s t)
  | .fin s m _, .inf t => if m = 0 then .nan else .inf (xor s t)
  | .fin s m e, .fin t n f => .fin (xor s t) (m * n) (e + f)

/-- A value rounded to FP32. -/
def roundFp (a : Fp) : BitVec 32 :=
  match a with
  | .nan => canonNan
  | .inf s => inf32 s
  | .fin s m e => BitVec.ofNat 32 (packSigned 8 23 s m e)

/-- Multiplication (R258). -/
def fmul (a b : BitVec 32) : BitVec 32 := (nan2 a b).getD (roundFp (mulFp (f32 a) (f32 b)))

/-- FMA32 (R263): one rounding. -/
def fma32 (x y z : BitVec 32) : BitVec 32 :=
  if isNan32 x then quiet32 x else if isNan32 y then quiet32 y else if isNan32 z then quiet32 z else addFp (mulFp (f32 x) (f32 y)) (f32 z)

/-- The order of FP32 values with -0 below +0: a sign-magnitude key; not for NaNs. -/
def key32 (x : BitVec 32) : Int := if x.msb then -((x &&& 0x7FFFFFFF#32).toNat : Int) - 1 else (x.toNat : Int)
/-- The larger, -0 below +0 (R258). -/
def fmax (a b : BitVec 32) : BitVec 32 := (nan2 a b).getD (if key32 b > key32 a then b else a)
/-- The smaller (R258). -/
def fmin (a b : BitVec 32) : BitVec 32 := (nan2 a b).getD (if key32 b < key32 a then b else a)

/-- Widening BF16 (R85). -/
def widenBf16 (h : BitVec 16) : BitVec 32 := h ++ 0#16
/-- Widening E5M2 (R85). -/
def widenE5m2 (b : BitVec 8) : BitVec 32 :=
  match unpack 5 2 b.toNat with
  | .nan => b.extractLsb' 7 1 ++ 0xFF#8 ++ b.extractLsb' 0 2 ++ 0#21
  | v => roundFp v
/-- Widening E4M3 (R85). -/
def widenE4m3 (b : BitVec 8) : BitVec 32 :=
  match unpackE4m3 b.toNat with
  | .nan => b.extractLsb' 7 1 ++ 0xFF#8 ++ 0b110#3 ++ 0#20
  | v => roundFp v
/-- An integer converted by RNE32 (R85). -/
def ofInt32 (n : Int) : BitVec 32 := rne32 ⟨n, 0⟩

/-- The nearest integer of a finite value, ties to even. -/
def rneInt (neg : Bool) (mag : Nat) (e : Int) : Int :=
  let n : Nat := if e ≥ 0 then mag * 2 ^ e.toNat else rneShift mag (-e).toNat
  if neg then -(n : Int) else n
def clampInt (lo hi n : Int) : Int := if n < lo then lo else if n > hi then hi else n

/-- CVT to an integer of the given range (R86). -/
def cvtInt (lo hi : Int) (x : BitVec 32) : Int :=
  match f32 x with
  | .nan => 0
  | .inf neg => if neg then lo else hi
  | .fin neg m e => clampInt lo hi (rneInt neg m e)

/-- CVT to BF16 (R86). -/
def cvtBf16 (x : BitVec 32) : BitVec 16 :=
  match f32 x with
  | .nan =>
    let f := x.extractLsb' 16 7
    x.extractLsb' 31 1 ++ 0xFF#8 ++ (if f = 0#7 then 0b1000000#7 else f)
  | .inf neg => if neg then 0xFF80#16 else 0x7F80#16
  | .fin neg m e => BitVec.ofNat 16 (packSigned 8 7 neg m e)

/-- CVT to E5M2 (R86). -/
def cvtE5m2 (x : BitVec 32) (sat : Bool) : BitVec 8 :=
  match f32 x with
  | .nan =>
    let f := x.extractLsb' 21 2
    x.extractLsb' 31 1 ++ 0x1F#5 ++ (if f = 0#2 then 0b10#2 else f)
  | .inf neg => if neg then 0xFC#8 else 0x7C#8
  | .fin neg m e =>
    let c := packMag 5 2 m e
    BitVec.ofNat 8 ((if neg then 128 else 0) + (if sat && decide (c = 124) then 123 else c))

/-- CVT to E4M3 (R86): codes above 448 clamp to 448. -/
def cvtE4m3 (x : BitVec 32) (sat : Bool) : BitVec 8 :=
  match f32 x with
  | .nan => if x.msb then 0xFF#8 else 0x7F#8
  | .inf neg => BitVec.ofNat 8 ((if neg then 128 else 0) + (if sat then 126 else 127))
  | .fin neg m e =>
    -- five exponent bits with E4M3's bias would be needed above 480; packing with fraction 3 and clamping gives the same codes
    let top := max ((m.log2 : Int) + e) (-6)
    let sh := top - 3 - e
    let n := if m = 0 then 0 else if sh ≤ 0 then m * 2 ^ (-sh).toNat else rneShift m sh.toNat
    let c := (top + 6).toNat * 8 + n
    BitVec.ofNat 8 ((if neg then 128 else 0) + (if m = 0 then 0 else min c 126))

/-- Element formats by their FMT number (R88): bits per element. -/
def fmtBits : Nat → Nat
  | 2 => 16
  | 3 | 4 | 5 => 8
  | 7 => 4
  | 8 => 128
  | _ => 32
/-- The lane an element becomes at a vector load (R89). -/
def widenElem (fmt : Nat) (v : BitVec 32) : BitVec 32 :=
  match fmt with
  | 2 => widenBf16 (v.extractLsb' 0 16)
  | 3 => widenE4m3 (v.extractLsb' 0 8)
  | 4 => widenE5m2 (v.extractLsb' 0 8)
  | 5 => (v.extractLsb' 0 8).signExtend 32
  | 7 => (v.extractLsb' 0 4).signExtend 32
  | _ => v
/-- The element a lane becomes at a vector store (R89). -/
def narrowElem (fmt : Nat) (sat : Bool) (x : BitVec 32) : BitVec 32 :=
  match fmt with
  | 2 => (cvtBf16 x).setWidth 32
  | 3 => (cvtE4m3 x sat).setWidth 32
  | 4 => (cvtE5m2 x sat).setWidth 32
  | 5 => (BitVec.ofInt 8 (clampInt (-128) 127 x.toInt)).setWidth 32
  | 7 => (BitVec.ofInt 4 (clampInt (-8) 7 x.toInt)).setWidth 32
  | _ => x
def isFloatFmt (f : Nat) : Bool := f == 1 || f == 2 || f == 3 || f == 4
def isIntFmt (f : Nat) : Bool := f == 5 || f == 6 || f == 7

/-- One element of a copy from format f to format g (R91); f ≠ g and neither is RAW or STATE. -/
def copyElem (f g : Nat) (sat : Bool) (v : BitVec 32) : BitVec 32 :=
  let w := widenElem f v
  if isFloatFmt f then
    if isFloatFmt g then narrowElem g sat w
    else
      match g with
      | 5 => (BitVec.ofInt 8 (cvtInt (-128) 127 w)).setWidth 32
      | 7 => (BitVec.ofInt 4 (cvtInt (-8) 7 w)).setWidth 32
      | _ => BitVec.ofInt 32 (cvtInt (-2147483648) 2147483647 w)
  else if isFloatFmt g then narrowElem g sat (ofInt32 w.toInt)
  else narrowElem g sat w

/-- floor(log2 |p|) of an exact nonzero product. -/
def expo (mag : Nat) (e : Int) : Int := (mag.log2 : Int) + e
/-- Truncation toward zero of m * 2^e (signed) to an integer multiple of 2^q. -/
def truncTo (neg : Bool) (mag : Nat) (e q : Int) : Int :=
  let n : Nat := if e ≥ q then mag * 2 ^ (e - q).toNat else mag / 2 ^ (q - e).toNat
  if neg then -(n : Int) else n

def fpIsInf (b : Bool) : Fp → Bool
  | .inf n => n == b
  | _ => false
def fpIsNan : Fp → Bool
  | .nan => true
  | _ => false
/-- The largest exponent of the nonzero products. -/
def maxExpo : List Fp → Option Int
  | [] => none
  | .fin _ m e :: ps =>
    if m = 0 then maxExpo ps
    else match maxExpo ps with
      | none => some (expo m e)
      | some x => some (max x (expo m e))
  | _ :: ps => maxExpo ps
def sumTrunc (q : Int) : List Fp → Int
  | [] => 0
  | .fin n m e :: ps => truncTo n m e q + sumTrunc q ps
  | _ :: ps => sumTrunc q ps
def allNegZero : List Fp → Bool
  | [] => true
  | .fin n m _ :: ps => n && m == 0 && allNegZero ps
  | _ :: _ => false

/-- STEP of a dot product (R84). -/
def dotStep (acc : BitVec 32) (ps : List Fp) : BitVec 32 :=
  let s : BitVec 32 :=
    if ps.any fpIsNan || (ps.any (fpIsInf false) && ps.any (fpIsInf true)) then canonNan
    else if ps.any (fpIsInf false) then inf32 false
    else if ps.any (fpIsInf true) then inf32 true
    else match maxExpo ps with
      | none => if allNegZero ps then 0x80000000#32 else 0#32
      | some e => rne32 ⟨sumTrunc (e - 40) ps, e - 40⟩
  if isNan32 acc || isNan32 s then canonNan else add32 acc s

/-- BF16R (R264): a dyadic number rounded once to BF16 and widened. -/
def bf16r (d : Dy) : BitVec 32 :=
  BitVec.ofNat 32 (packSigned 8 7 (decide (d.m < 0)) d.m.natAbs d.e * 65536)

/-- AMOFADD.S (R177). -/
def amoFadd (m r : BitVec 32) : BitVec 32 := fadd m r
/-- One half of AMOFADD.BH (R178). -/
def amoFaddHalf (m r : BitVec 16) : BitVec 16 :=
  if unpack 8 7 m.toNat = .nan then m ||| 0x40#16
  else if unpack 8 7 r.toNat = .nan then r ||| 0x40#16
  else match unpack 8 7 m.toNat, unpack 8 7 r.toNat with
    | .inf s, .inf t => if s = t then m else 0x7FC0#16
    | .inf _, _ => m
    | _, .inf _ => r
    | .fin s a e, .fin t b f =>
      let d := Dy.add (dyOf s a e) (dyOf t b f)
      if d.m = 0 then (if s && t && decide (a = 0) && decide (b = 0) then 0x8000#16 else 0#16)
      else BitVec.ofNat 16 (packSigned 8 7 (decide (d.m < 0)) d.m.natAbs d.e)
    | _, _ => 0x7FC0#16
/-- AMOFADD.BH (R178). -/
def amoFaddBh (m r : BitVec 32) : BitVec 32 :=
  amoFaddHalf (m.extractLsb' 16 16) (r.extractLsb' 16 16) ++ amoFaddHalf (m.extractLsb' 0 16) (r.extractLsb' 0 16)
/-- AMOFMAX.S (R179). -/
def amoFmax (m r : BitVec 32) : BitVec 32 := fmax m r

end Sys2Proof.Machine
end

