-- ==== Sys2Proof/Machine/Real.lean ====
section
/-! DEFINITION. Correctly rounded values of 2^x, log2, square roots, sine, cosine and angles, by enclosures between exact dyadic bounds
at rising precision (spec 11_law_unit R204, R205; 15 R264). Values that lie exactly on a tie are decided exactly first. If no listed
precision separates two candidates, the answer is the lower bound's rounding (notes/assumptions/20). -/

namespace Sys2Proof.Machine

/-- Bounds lo ≤ v ≤ hi of a real. -/
structure Iv where
  lo : Dy
  hi : Dy
  deriving DecidableEq, Repr

def Iv.exact (d : Dy) : Iv := ⟨d, d⟩
def Iv.add (a b : Iv) : Iv := ⟨Dy.add a.lo b.lo, Dy.add a.hi b.hi⟩
def Iv.neg (a : Iv) : Iv := ⟨Dy.neg a.hi, Dy.neg a.lo⟩
def dyMin (a b : Dy) : Dy := if Dy.le a b then a else b
def dyMax (a b : Dy) : Dy := if Dy.le a b then b else a
def Iv.mul (a b : Iv) : Iv :=
  let p := Dy.mul a.lo b.lo
  let q := Dy.mul a.lo b.hi
  let r := Dy.mul a.hi b.lo
  let t := Dy.mul a.hi b.hi
  ⟨dyMin (dyMin p q) (dyMin r t), dyMax (dyMax p q) (dyMax r t)⟩
/-- The square of a real. -/
def Iv.sq (a : Iv) : Iv :=
  let m := Iv.mul a a
  if a.lo.m < 0 ∧ a.hi.m > 0 then ⟨⟨0, 0⟩, m.hi⟩ else m
/-- v * 2^-p with an error of at most err units in the last place. -/
def ivOf (v : Int) (err : Nat) (p : Nat) : Iv := ⟨⟨v - err, -(p : Int)⟩, ⟨v + err, -(p : Int)⟩⟩
/-- An error bound, in units of the last place, above that of every series below. -/
def slack (p : Nat) : Nat := 16 * (p + 16)

/-- The first precision at which the two ends give one answer; else the last answer of the lower end. -/
def agree {α : Type} [DecidableEq α] (f : Nat → α × α) (last : α) : List Nat → α
  | [] => last
  | p :: ps =>
    let r := f p
    if r.1 = r.2 then r.1 else agree f r.1 ps
def precisions : List Nat := [128, 256, 512, 1024]

/-- Sum over k of z^(2k+1)/(2k+1), scaled by 2^p: 2 of it is ln((1+z)/(1-z)). -/
def atanhGo (p z2 : Nat) : Nat → Nat → Nat → Nat
  | 0, _, _ => 0
  | n + 1, k, t => t / (2 * k + 1) + atanhGo p z2 n (k + 1) (t * z2 / 2 ^ p)
/-- ln 2, scaled by 2^p. -/
def ln2 (p : Nat) : Nat :=
  let z := 2 ^ p / 3
  2 * atanhGo p (2 ^ p / 9) (p / 3 + 2) 0 z
/-- Sum of the exponential series, scaled by 2^p. -/
def expGo (p y : Nat) : Nat → Nat → Nat → Nat
  | 0, _, _ => 0
  | n + 1, k, t => t + expGo p y n (k + 1) (t * y / 2 ^ p / (k + 1))
/-- 2^(n / 2^k). -/
def exp2Iv (n : Int) (k p : Nat) : Iv :=
  let i := n / 2 ^ k
  let f := (n % 2 ^ k).toNat
  if f = 0 then Iv.exact ⟨1, i⟩ else
  let y := f * ln2 p / 2 ^ k
  let v := expGo p y (p + 2) 0 (2 ^ p)
  ⟨⟨(v : Int) - slack p, i - p⟩, ⟨(v : Int) + slack p, i - p⟩⟩

/-- log2 of a positive dyadic number. -/
def log2Iv (d : Dy) (p : Nat) : Iv :=
  let m := d.m.natAbs
  let l := m.log2
  let i : Int := (l : Int) + d.e
  -- mantissa in [1, 2)
  let x := m * 2 ^ p / 2 ^ l
  if m = 2 ^ l then Iv.exact ⟨i, 0⟩ else
  let z := (x - 2 ^ p) * 2 ^ p / (x + 2 ^ p)
  let ln := 2 * atanhGo p (z * z / 2 ^ p) (p / 3 + 2) 0 z
  let v : Int := i * 2 ^ p + (ln * 2 ^ p / ln2 p : Nat)
  ivOf v (slack p) p

/-- Sum over k of (-1)^k z^(2k+1)/(2k+1), scaled by 2^p: the arc tangent. -/
def atanGo (p z2 : Nat) : Nat → Nat → Nat → Int
  | 0, _, _ => 0
  | n + 1, k, t => (t / (2 * k + 1) : Nat) - atanGo p z2 n (k + 1) (t * z2 / 2 ^ p)
/-- pi, scaled by 2^p (Machin's formula). -/
def piFix (p : Nat) : Int :=
  16 * atanGo p (2 ^ p / 25) (p / 4 + 2) 0 (2 ^ p / 5) - 4 * atanGo p (2 ^ p / 57121) (p / 15 + 2) 0 (2 ^ p / 239)

/-- The alternating series of sine (k = 1) and cosine (k = 0), scaled by 2^p. -/
def trigGo (p y2 : Nat) : Nat → Nat → Nat → Int
  | 0, _, _ => 0
  | n + 1, k, t => (t : Int) - trigGo p y2 n (k + 2) (t * y2 / 2 ^ p / ((k + 1) * (k + 2)))
/-- Sine and cosine, scaled by 2^p, of an angle q/2^32 of a turn with q ≤ 2^29. -/
def sinCosFix (q p : Nat) : Int × Int :=
  let y := (2 * piFix p * q / 2 ^ 32).toNat
  let y2 := y * y / 2 ^ p
  (trigGo p y2 (p / 2 + 2) 1 y, trigGo p y2 (p / 2 + 2) 0 (2 ^ p))
/-- cos(2 pi phi / 2^32). -/
def cosIv (phi p : Nat) : Iv :=
  let a := phi % 2 ^ 32
  -- fold to [0, half turn], then to the octant
  let b := if a > 2 ^ 31 then 2 ^ 32 - a else a
  let neg := decide (b > 2 ^ 30)
  let c := if b > 2 ^ 30 then 2 ^ 31 - b else b
  let v := if c = 0 then ivOf (2 ^ p) 0 p
    else if c = 2 ^ 30 then ivOf 0 0 p
    else if c ≤ 2 ^ 29 then ivOf (sinCosFix c p).2 (slack p) p
    else ivOf (sinCosFix (2 ^ 30 - c) p).1 (slack p) p
  if neg then Iv.neg v else v
/-- sin(2 pi phi / 2^32). -/
def sinIv (phi p : Nat) : Iv := cosIv (phi + 3 * 2 ^ 30) p

/-- The arc tangent of t/2^p, 0 ≤ t ≤ 2^p, scaled by 2^p. -/
def atanFix (t p : Nat) : Int :=
  if 5 * t ≤ 2 * 2 ^ p then atanGo p (t * t / 2 ^ p) (p / 2 + 2) 0 t
  else
    let z := (2 ^ p - t) * 2 ^ p / (2 ^ p + t)
    piFix p / 4 - atanGo p (z * z / 2 ^ p) (p / 2 + 2) 0 z
/-- The angle of a nonzero point, in units of 2^32 to a turn, as bounds; 0 ≤ angle ≤ 2^32. -/
def argIv (re im : Dy) (p : Nat) : Iv :=
  let e := min re.e im.e
  let x := re.m * 2 ^ (re.e - e).toNat
  let y := im.m * 2 ^ (im.e - e).toNat
  let ax := x.natAbs
  let ay := y.natAbs
  -- angle to the nearer axis
  let small := min ax ay
  let big := max ax ay
  let t := atanFix (small * 2 ^ p / big) p
  -- in units, scaled by 2^p
  let u : Int := t * 2 ^ 31 * 2 ^ p / piFix p
  let err := slack p * 2 ^ 32
  let q : Int := if ay ≤ ax then u else 2 ^ 30 * 2 ^ p - u
  let r : Int := if x ≥ 0 then (if y ≥ 0 then q else 2 ^ 32 * 2 ^ p - q)
    else (if y ≥ 0 then 2 ^ 31 * 2 ^ p - q else 2 ^ 31 * 2 ^ p + q)
  if small = 0 then ivOf r 0 p else ivOf r err p

/-- RNE of a dyadic number times 2^k to an integer. -/
def rneScaled (d : Dy) (k : Nat) : Int :=
  let e := d.e + k
  rneInt (decide (d.m < 0)) d.m.natAbs e

/-- RNE32 of a real given by enclosures. -/
def rne32Of (f : Nat → Iv) : BitVec 32 :=
  agree (fun p => let v := f p; (rne32 v.lo, rne32 v.hi)) 0#32 precisions
/-- BF16R of a real given by enclosures. -/
def bf16rOf (f : Nat → Iv) : BitVec 32 :=
  agree (fun p => let v := f p; (bf16r v.lo, bf16r v.hi)) 0#32 precisions
/-- RNE to a grid of 2^-k of a real given by enclosures. -/
def gridOf (k : Nat) (f : Nat → Iv) : Int :=
  agree (fun p => let v := f p; (rneScaled v.lo k, rneScaled v.hi k)) 0 precisions

/-- The largest r with r * r ≤ n, by digits. -/
def isqrtGo (n : Nat) : Nat → Nat → Nat
  | 0, r => r
  | b + 1, r => let s := r + 2 ^ b; isqrtGo n b (if s * s ≤ n then s else r)
def isqrt (n : Nat) : Nat := isqrtGo n (n.log2 / 2 + 1) 0

-- special functions at BF16 precision (R264)

/-- VEXP2 of one lane. -/
def exp2Lane (x : BitVec 32) : BitVec 32 :=
  match f32 x with
  | .nan => quiet32 x
  | .inf neg => if neg then 0#32 else inf32 false
  | .fin neg m e =>
    if m = 0 then 0x3F800000#32
    else if expo m e > 10 then (if neg then 0#32 else inf32 false)
    else
      let n : Int := if neg then -(m : Int) else m
      if e ≥ 0 then bf16r ⟨1, n * 2 ^ e.toNat⟩
      else bf16rOf (fun p => exp2Iv n (-e).toNat p)
/-- VRCP of one lane. -/
def rcpLane (x : BitVec 32) : BitVec 32 :=
  match f32 x with
  | .nan => quiet32 x
  | .inf neg => if neg then 0x80000000#32 else 0#32
  | .fin neg m e =>
    if m = 0 then inf32 neg
    else
      -- 1/(m * 2^e): 40 quotient bits and a sticky bit
      let q := 2 ^ 80 / m
      let s : Nat := if 2 ^ 80 % m = 0 then 2 * q else 2 * q + 1
      bf16r ⟨if neg then -(s : Int) else (s : Int), -81 - e⟩
/-- VRSQ of one lane. -/
def rsqLane (x : BitVec 32) : BitVec 32 :=
  match f32 x with
  | .nan => quiet32 x
  | .inf neg => if neg then canonNan else 0#32
  | .fin neg m e =>
    if m = 0 then inf32 neg
    else if neg then canonNan
    else
      -- make the exponent even, then 1/sqrt(n) = sqrt(2^160 / n) / 2^80
      let n := if e % 2 = 0 then m else 2 * m
      let h := if e % 2 = 0 then e / 2 else (e - 1) / 2
      let q := 2 ^ 160 / n
      let r := isqrt q
      let s : Nat := if r * r = q ∧ 2 ^ 160 % n = 0 then 2 * r else 2 * r + 1
      bf16r ⟨s, -81 - h⟩
/-- VLOG2 of one lane. -/
def log2Lane (x : BitVec 32) : BitVec 32 :=
  match f32 x with
  | .nan => quiet32 x
  | .inf neg => if neg then canonNan else inf32 false
  | .fin neg m e =>
    if m = 0 then inf32 true
    else if neg then canonNan
    else bf16rOf (fun p => log2Iv ⟨m, e⟩ p)

end Sys2Proof.Machine
end

