-- ==== Sys2Proof/Config.lean ====
section
/-! DEFINITION. What an implementation fixes and the free values: opaque constants, so that no proof can see a value of one
(notes/assumptions/16, 17, 18, 19). -/

namespace Sys2Proof.Config

/-- A byte the spec leaves open (memory of a peer device, an attestation report, undefined bytes); applied to a fresh count. -/
opaque freeByte : Nat → BitVec 8
/-- A word the spec leaves open (undefined P registers after a Bead fault); applied to a fresh count. -/
opaque freeWord : Nat → BitVec 64
/-- The cycles MSTAT.CYC reports for an MMA (R257: times are not given); applied to a fresh count. -/
opaque mmaCycles : Nat → BitVec 16
/-- The bytes of an attestation report before its nonce, between it and LCS, and after LCS (R397 gives its contents, not their sizes). -/
opaque attestLength : Nat → Nat
/-- The bytes of ATTEST's nonce (R392, R397 name it, not its size). -/
opaque attestNonce : Nat
/-- A peer's verdict on an access: 0 it applies it, 1 its page is absent there, other values refuse it. By the peer-map entry, the offset, the
kind of access and the time (R395: a peer's tables are the peer's). -/
opaque peerVerdict : BitVec 64 → Nat → Nat → Nat → Nat
/-- Estimated power of a cluster at an operating point for its measured demand (R403): point, demand. -/
opaque pointPower : Nat → Nat → Nat

end Sys2Proof.Config
end

