-- ==== Sys2Proof/Syntax.lean ====
section
/-! DEFINITION. The instructions and steps of the K9: one constructor of `Instr` per row of spec/opcode_table.json. Operands are as
spec/03_encodings R49-R63 give them. A step without a word has operands that say which unit, queue entry or value it is about. -/

namespace Sys2Proof

/-- The loads (R43). -/
inductive LoadKind | lb | lh | lw | ld | lbu | lhu | lwu
  deriving DecidableEq, Repr
/-- The stores (R43). -/
inductive StoreKind | sb | sh | sw | sd
  deriving DecidableEq, Repr
/-- The immediate followers of EXT (R61). -/
inductive ImmKind | addi | slti | sltiu | xori | ori | andi | addiw
  deriving DecidableEq, Repr
/-- VFCMP's conditions (R58). -/
inductive FCond | eq | ne | lt | le
  deriving DecidableEq, Repr
/-- VICMP's conditions (R58). -/
inductive ICond | eq | ne | lt | le | ltu | leu
  deriving DecidableEq, Repr
/-- VCVT's kinds (R58). -/
inductive CvtKind | toi32 | fromi32 | tobf16 | frombf16 | toe4m3 | frome4m3 | toe5m2 | frome5m2
  deriving DecidableEq, Repr
/-- The six CSR instructions (R43). -/
inductive CsrOp | rw | rs | rc | rwi | rsi | rci
  deriving DecidableEq, Repr

/-- An instruction that may stand after AT or EXT (R61). -/
inductive Follower
  | load (k : LoadKind) (rd rs1 : Reg) (imm : BitVec 12)
  | store (k : StoreKind) (rs2 rs1 : Reg) (imm : BitVec 12)
  | opImm (k : ImmKind) (rd rs1 : Reg) (imm : BitVec 12)
  | jalr (rd rs1 : Reg) (imm : BitVec 12)
  | vld (vd : VReg) (rs1 : Reg) (imm : BitVec 12)
  | vst (vs : VReg) (rs1 : Reg) (imm : BitVec 12)
  deriving DecidableEq, Repr

/-- What follows the first AT or EXT of an instruction (R61-R63). -/
inductive Tail
  /-- a follower at once -/
  | one (f : Follower)
  /-- an AT, then a follower -/
  | viaAt (rs1 : Reg) (f : Follower)
  /-- an EXT, then a follower -/
  | viaExt (e : BitVec 20) (f : Follower)
  /-- a second word that R63 refuses -/
  | bad (w : Code)
  /-- an AT, then a third word that R63 refuses -/
  | badAt (rs1 : Reg) (w : Code)
  /-- an EXT, then a third word that R63 refuses -/
  | badExt (e : BitVec 20) (w : Code)
  deriving DecidableEq, Repr

/-- Who hands the dispatcher a record: a stalled LAUNCH, or a host launch queue (R340, R390). -/
inductive Submitter
  | unit (u : Nat)
  | host (part link : Nat)
  deriving DecidableEq, Repr

/-- Who asks firmware for a service: a mailbox of a function on a link, or a unit stalled in ECALL (R392). -/
inductive Requester
  | mailbox (part link : Nat)
  | unit (u : Nat)
  deriving DecidableEq, Repr

/-- The queues whose head an engine is working on: a transfer channel, a reduction engine, a stack law unit's SWREG queue. -/
inductive EngineQueue
  | chan (c ch : Nat)
  | red (g : Nat)
  | swreg (g : Nat)
  deriving DecidableEq, Repr

/-- A request that may meet a burst (R303): a unit's load, its journal entry, its stalled atomic or acquire, or an engine's. -/
inductive ReqId
  | load (u : Nat)
  | store (u j : Nat)
  | atomic (u : Nat)
  /-- an element of the head of an engine's queue -/
  | engine (e : EngineQueue)
  /-- a BGET's write from pseudo-channel pch of stack g -/
  | bank (g pch : Nat)
  deriving DecidableEq, Repr

/-- A register write that has no row of its own: by the unit in focus to local MMIO, or by a host through BAR0. -/
inductive RegWrite
  | mmio (addr : BitVec 32)
  | bar (part link offset : Nat)
  deriving DecidableEq, Repr

/-- One constructor per row of spec/opcode_table.json. -/
inductive Instr
  | lui (rd : Reg) (imm : BitVec 20)
  | auipc (rd : Reg) (imm : BitVec 20)
  | jal (rd : Reg) (imm : BitVec 20)
  | jalr (rd rs1 : Reg) (imm : BitVec 12)
  | beq (rs1 rs2 : Reg) (imm : BitVec 12)
  | bne (rs1 rs2 : Reg) (imm : BitVec 12)
  | blt (rs1 rs2 : Reg) (imm : BitVec 12)
  | bge (rs1 rs2 : Reg) (imm : BitVec 12)
  | bltu (rs1 rs2 : Reg) (imm : BitVec 12)
  | bgeu (rs1 rs2 : Reg) (imm : BitVec 12)
  | lb (rd rs1 : Reg) (imm : BitVec 12)
  | lh (rd rs1 : Reg) (imm : BitVec 12)
  | lw (rd rs1 : Reg) (imm : BitVec 12)
  | ld (rd rs1 : Reg) (imm : BitVec 12)
  | lbu (rd rs1 : Reg) (imm : BitVec 12)
  | lhu (rd rs1 : Reg) (imm : BitVec 12)
  | lwu (rd rs1 : Reg) (imm : BitVec 12)
  | sb (rs2 rs1 : Reg) (imm : BitVec 12)
  | sh (rs2 rs1 : Reg) (imm : BitVec 12)
  | sw (rs2 rs1 : Reg) (imm : BitVec 12)
  | sd (rs2 rs1 : Reg) (imm : BitVec 12)
  | addi (rd rs1 : Reg) (imm : BitVec 12)
  | slti (rd rs1 : Reg) (imm : BitVec 12)
  | sltiu (rd rs1 : Reg) (imm : BitVec 12)
  | xori (rd rs1 : Reg) (imm : BitVec 12)
  | ori (rd rs1 : Reg) (imm : BitVec 12)
  | andi (rd rs1 : Reg) (imm : BitVec 12)
  | slli (rd rs1 : Reg) (sh : BitVec 6)
  | srli (rd rs1 : Reg) (sh : BitVec 6)
  | srai (rd rs1 : Reg) (sh : BitVec 6)
  | add (rd rs1 rs2 : Reg)
  | sub (rd rs1 rs2 : Reg)
  | sll (rd rs1 rs2 : Reg)
  | slt (rd rs1 rs2 : Reg)
  | sltu (rd rs1 rs2 : Reg)
  | xor (rd rs1 rs2 : Reg)
  | srl (rd rs1 rs2 : Reg)
  | sra (rd rs1 rs2 : Reg)
  | or (rd rs1 rs2 : Reg)
  | and (rd rs1 rs2 : Reg)
  | addiw (rd rs1 : Reg) (imm : BitVec 12)
  | slliw (rd rs1 : Reg) (sh : BitVec 5)
  | srliw (rd rs1 : Reg) (sh : BitVec 5)
  | sraiw (rd rs1 : Reg) (sh : BitVec 5)
  | addw (rd rs1 rs2 : Reg)
  | subw (rd rs1 rs2 : Reg)
  | sllw (rd rs1 rs2 : Reg)
  | srlw (rd rs1 rs2 : Reg)
  | sraw (rd rs1 rs2 : Reg)
  | fence (pred succ : BitVec 4)
  | ecall
  | ebreak
  | mul (rd rs1 rs2 : Reg)
  | mulh (rd rs1 rs2 : Reg)
  | mulhsu (rd rs1 rs2 : Reg)
  | mulhu (rd rs1 rs2 : Reg)
  | div (rd rs1 rs2 : Reg)
  | divu (rd rs1 rs2 : Reg)
  | rem (rd rs1 rs2 : Reg)
  | remu (rd rs1 rs2 : Reg)
  | mulw (rd rs1 rs2 : Reg)
  | divw (rd rs1 rs2 : Reg)
  | divuw (rd rs1 rs2 : Reg)
  | remw (rd rs1 rs2 : Reg)
  | remuw (rd rs1 rs2 : Reg)
  | csrrw (rd rs1 : Reg) (csr : BitVec 12)
  | csrrs (rd rs1 : Reg) (csr : BitVec 12)
  | csrrc (rd rs1 : Reg) (csr : BitVec 12)
  | csrrwi (rd : Reg) (uimm : BitVec 5) (csr : BitVec 12)
  | csrrsi (rd : Reg) (uimm : BitVec 5) (csr : BitVec 12)
  | csrrci (rd : Reg) (uimm : BitVec 5) (csr : BitVec 12)
  | sh1add (rd rs1 rs2 : Reg)
  | sh2add (rd rs1 rs2 : Reg)
  | sh3add (rd rs1 rs2 : Reg)
  | addUw (rd rs1 rs2 : Reg)
  | sh1addUw (rd rs1 rs2 : Reg)
  | sh2addUw (rd rs1 rs2 : Reg)
  | sh3addUw (rd rs1 rs2 : Reg)
  | slliUw (rd rs1 : Reg) (sh : BitVec 6)
  /-- A fetched word that is not an instruction (R40). -/
  | illegalWord (w : Code)
  | fin
  | widf (rd : Reg) (k : Fin 6)
  | grow (rd rs1 : Reg)
  | launch (rd rs1 : Reg)
  | wfe (rs1 : Reg)
  | lpclr (n : Fin 2)
  | tret
  | kill (rd rs1 : Reg)
  | placew (rd rs1 rs2 : Reg)
  | qwaitF (q : Fin 16) (rs1 : Reg)
  | qwaitE (q : Fin 16) (rs1 : Reg)
  | qadvC (q : Fin 16) (rs1 : Reg)
  | qadvP (q : Fin 16) (rs1 : Reg)
  | qcnt (rd : Reg) (q : Fin 16)
  | qslot (rd : Reg) (q : Fin 16) (rs1 : Reg)
  | lpset (n : Fin 2) (rs1 : Reg) (imm : BitVec 12)
  | lpseti (n : Fin 2) (count : Fin 32) (imm : BitVec 12)
  /-- AT with what follows it (R59, R61, R63). -/
  | atPfx (rs1 : Reg) (tail : Tail)
  /-- EXT with what follows it (R59, R60, R63). -/
  | extPfx (e : BitVec 20) (tail : Tail)
  | send (rs1 rs2 : Reg)
  | sendR (rd rs1 rs2 : Reg)
  | sendnb (rd rs1 rs2 : Reg)
  | rcall (rd rs1 rs2 : Reg)
  | reply
  | rwait (rd rs1 : Reg)
  | rpoll (rd rs1 : Reg)
  | semwait (i : Fin 64) (rs1 : Reg)
  | semadd (i : Fin 64) (rs1 : Reg)
  | semset (i : Fin 64) (rs1 : Reg)
  | semrd (rd : Reg) (i : Fin 64)
  | bardecl (i : Fin 16) (rs1 : Reg)
  | barwait (i : Fin 16)
  | chkwait (i : Fin 8) (rs1 : Reg)
  | chktest (rd : Reg) (i : Fin 8) (rs1 : Reg)
  | ecmd (rd rs1 : Reg)
  | eseq (rd rs1 : Reg)
  | acqX (rd rs1 : Reg)
  | acqS (rd rs1 : Reg)
  | acqw (rd rs2 rs1 : Reg)
  | rel (rs1 : Reg)
  | relv (rs2 rs1 : Reg)
  | bind (rs1 rs2 : Reg)
  | unbind (rs1 rs2 : Reg)
  | fenceG
  | fenceB (rs1 : Reg)
  | fenceE
  | fenceJ
  | amoaddW (rd rs2 rs1 : Reg)
  | amoaddWP (rs2 rs1 : Reg)
  | amoaddD (rd rs2 rs1 : Reg)
  | amoaddDP (rs2 rs1 : Reg)
  | amoandW (rd rs2 rs1 : Reg)
  | amoandWP (rs2 rs1 : Reg)
  | amoandD (rd rs2 rs1 : Reg)
  | amoandDP (rs2 rs1 : Reg)
  | amoorW (rd rs2 rs1 : Reg)
  | amoorWP (rs2 rs1 : Reg)
  | amoorD (rd rs2 rs1 : Reg)
  | amoorDP (rs2 rs1 : Reg)
  | amoxorW (rd rs2 rs1 : Reg)
  | amoxorWP (rs2 rs1 : Reg)
  | amoxorD (rd rs2 rs1 : Reg)
  | amoxorDP (rs2 rs1 : Reg)
  | amominW (rd rs2 rs1 : Reg)
  | amominWP (rs2 rs1 : Reg)
  | amominD (rd rs2 rs1 : Reg)
  | amominDP (rs2 rs1 : Reg)
  | amomaxW (rd rs2 rs1 : Reg)
  | amomaxWP (rs2 rs1 : Reg)
  | amomaxD (rd rs2 rs1 : Reg)
  | amomaxDP (rs2 rs1 : Reg)
  | amominuW (rd rs2 rs1 : Reg)
  | amominuWP (rs2 rs1 : Reg)
  | amominuD (rd rs2 rs1 : Reg)
  | amominuDP (rs2 rs1 : Reg)
  | amomaxuW (rd rs2 rs1 : Reg)
  | amomaxuWP (rs2 rs1 : Reg)
  | amomaxuD (rd rs2 rs1 : Reg)
  | amomaxuDP (rs2 rs1 : Reg)
  | amoswapW (rd rs2 rs1 : Reg)
  | amoswapWP (rs2 rs1 : Reg)
  | amoswapD (rd rs2 rs1 : Reg)
  | amoswapDP (rs2 rs1 : Reg)
  | amocasW (rd rs2 rs3 rs1 : Reg)
  | amocasD (rd rs2 rs3 rs1 : Reg)
  | amofaddS (rd rs2 rs1 : Reg)
  | amofaddBh (rd rs2 rs1 : Reg)
  | amofmaxS (rd rs2 rs1 : Reg)
  | swldC (rd rs1 : Reg)
  | swldV (rd rs1 : Reg)
  | swst (rs2 rs1 : Reg)
  | swadd (rd rs2 rs1 : Reg)
  | swarm (rd rs2 rs1 : Reg)
  | swdis (rs1 : Reg)
  | swraw (rd rs2 rs1 : Reg)
  | bmode (rd rs2 rs1 : Reg)
  | bcast (rs2 rs1 : Reg)
  | bmv (rd rs2 rs1 : Reg)
  | bexpr (rd rs2 rs1 : Reg)
  | bget (rs2 rs1 : Reg)
  | bstat (rd rs1 : Reg)
  | mma (acc : Acc) (rs1 rs2 rs3 : Reg)
  | wld (n : Fin 32) (rs1 rs2 : Reg)
  | accz (acc : Acc)
  | accrd (vd : VReg) (acc : Acc) (rs1 : Reg)
  | accwr (acc : Acc) (vs : VReg) (rs1 : Reg)
  | accst (acc : Acc) (rs1 : Reg)
  | mstat (rd : Reg)
  | vfadd (vd va vb : VReg)
  | vfsub (vd va vb : VReg)
  | vfmul (vd va vb : VReg)
  | vfmax (vd va vb : VReg)
  | vfmin (vd va vb : VReg)
  | vfabs (vd va : VReg)
  | vfneg (vd va : VReg)
  | vfcmp (cond : FCond) (vd va vb : VReg)
  | viadd (vd va vb : VReg)
  | visub (vd va vb : VReg)
  | vimul (vd va vb : VReg)
  | vand (vd va vb : VReg)
  | vor (vd va vb : VReg)
  | vxor (vd va vb : VReg)
  | vsll (vd va vb : VReg)
  | vsrl (vd va vb : VReg)
  | vsra (vd va vb : VReg)
  | vimin (vd va vb : VReg)
  | vimax (vd va vb : VReg)
  | vicmp (cond : ICond) (vd va vb : VReg)
  | vexp2 (vd va : VReg)
  | vrcp (vd va : VReg)
  | vrsq (vd va : VReg)
  | vlog2 (vd va : VReg)
  | vcvt (kind : CvtKind) (vd va : VReg)
  | vfsum (vd va : VReg)
  | vfmaxr (vd va : VReg)
  | visum (vd va : VReg)
  | vperm (vd va vb : VReg)
  | vbcast (vd : VReg) (rs1 : Reg)
  | vmvx (rd : Reg) (va : VReg) (lane : Fin 32)
  | vmvv (vd va : VReg)
  | vslide (vd va : VReg) (amt : BitVec 5)
  | vlds (vd : VReg) (rs1 rs2 : Reg)
  | vsts (vs : VReg) (rs1 rs2 : Reg)
  | vldx (vd : VReg) (rs1 : Reg) (vb : VReg)
  | vld (vd : VReg) (rs1 : Reg) (imm : BitVec 12)
  | vst (vs : VReg) (rs1 : Reg) (imm : BitVec 12)
  | vfma (vd va vb vc : VReg)
  | vfms (vd va vb vc : VReg)
  | vsel (vd va vb vc : VReg)
  | vrec (vd va vb vc : VReg)
  -- the steps of the part that no program word encodes (spec 95_what_each_step_holds)
  /-- A CSR instruction naming bfmt b; src is rs1 or uimm. -/
  | bfmtWrite (f : CsrOp) (b : Fin 128) (rd src : Reg)
  /-- A CSR instruction naming tstatus. -/
  | tstatusWrite (f : CsrOp) (rd src : Reg)
  /-- A CSR instruction naming 0x800 + k. -/
  | loopCsrWrite (f : CsrOp) (k : Fin 6) (rd src : Reg)
  /-- A CSR instruction naming rcto (0) or rctl (1). -/
  | replyCsrWrite (f : CsrOp) (k : Fin 2) (rd src : Reg)
  /-- Unit u takes a pending asynchronous cause. -/
  | trapEntry (u : Nat)
  | dispatchRecord (src : Submitter)
  | residencyCheck (part lid : Nat)
  /-- A batch for logical cluster `cluster` of partition `part`. -/
  | batchGrant (part cluster : Nat)
  /-- The scheduler's choice for free core u. -/
  | stageSchedule (u : Nat)
  | stackCoreFiringStart (u : Nat)
  | phaseCommit (part lid : Nat)
  | launchComplete (part lid : Nat)
  | watchdogExpiry (u : Nat)
  /-- The head of unit u's send queue leaves. -/
  | messageDepart (u : Nat)
  /-- The k-th message in flight reaches its inbox. -/
  | messageAccept (k : Nat)
  /-- The k-th reply in flight reaches its slot. -/
  | replyArrival (k : Nat)
  | replyTimeout (u slot : Nat)
  | wfeTimeout (u : Nat)
  /-- Unit u's outstanding load is served; walk = true only starts a page walk for it. -/
  | homeLoad (u : Nat) (walk : Bool)
  /-- Journal entry j of unit u reaches its home. -/
  | homeStoreArrival (u j : Nat)
  | journalAck (u j : Nat)
  | journalRefusal (u j : Nat)
  /-- The k-th unblock token in flight reaches its home. -/
  | unblockToken (k : Nat)
  | timedStoreArrival (u j : Nat)
  | timedStoreAccept (u j : Nat)
  /-- The k-th entry of the visibility queues is written. -/
  | timedStoreVisible (k : Nat)
  | notBeforeLoad (u : Nat)
  | acquireRequest (u : Nat)
  /-- The object that the k-th waiting acquire names is scanned. -/
  | objectGrant (k : Nat)
  | acquireCancel (u : Nat)
  /-- The k-th release in flight without a journal entry is applied. -/
  | releaseApply (k : Nat)
  | atomicEngineGrant (c : Nat)
  | stackAtomicGrant (g : Nat)
  /-- Channel ch of physical cluster c moves some elements of its head. -/
  | copy (c ch : Nat)
  | copyt (c ch : Nat)
  | csrwalk (c ch : Nat)
  /-- Stack law unit g enters its head's registration, or evaluates the next words of it. -/
  | swregRegister (g : Nat)
  | swregUnregister (g : Nat)
  /-- The reduction engine of stack g works on some elements of its head. -/
  | reduce (g : Nat)
  | apertureStart (c part ch : Nat) (v : Word)
  | chunkComplete (c ch i : Nat)
  | engineOpComplete (e : EngineQueue)
  | engineOpFaulted (e : EngineQueue)
  | killDone (u : Nat)
  /-- Entry k of law unit l's Rooster is checked. -/
  | roosterDue (l k : Nat)
  | sweepVisit (l : Nat)
  | alarmPost (l : Nat)
  /-- The unit in focus stores v to bytes 0-7 of law entry i. -/
  | lawTableCommit (i : Fin 256) (v : Word)
  /-- The unit in focus stores v to bytes 24-31 of threshold entry i of its own law unit, or of a logical stack's. -/
  | thresholdCommit (stack : Option (Fin 8)) (i : Fin 256) (v : Word)
  | stepCounterWrite (j : Fin 4096) (v : Word)
  | handlerTableCommit (i : Fin 64) (v : Word)
  | bmodeGrant (g pch : Nat)
  | bmvBurst (g pch : Nat)
  | bexprPiece (g pch : Nat)
  | bankRetry (r : ReqId)
  /-- The k-th outstanding ticket of stack g is re-sent. -/
  | retryResend (g k : Nat)
  | burstTicketWindowEnd (g pch : Nat)
  | beadFault (g pch progress : Nat)
  /-- `drift` is how far the die's own oscillator carries it from its master until the next exchange. -/
  | clockExchange (die : Nat) (good : Bool) (drift : Int)
  | holdoverExpiry (die : Nat)
  | peerClockExchange (good : Bool) (offset : Int)
  | gangStop
  | coreEvict (u : Nat)
  | partitionResume
  | serviceSwitch (src : Requester)
  | serviceShoot (src : Requester)
  | servicePlace (src : Requester)
  | serviceRoot (src : Requester)
  | serviceFweight (src : Requester)
  | servicePeer (src : Requester)
  | serviceGrandmaster (src : Requester)
  | serviceDiscipline (src : Requester)
  | serviceHandover (src : Requester)
  | serviceAttest (src : Requester)
  | serviceRegion (src : Requester)
  /-- Master 2 is the management core; a host master claims through its own link. -/
  | ownClaim (master : Fin 3) (link : Fin 2)
  | hostQtailWrite (part link : Nat) (v : Word)
  | walkFill (die k : Nat)
  | faultRecordPost (part : Nat)
  | ringHeadWrite (part : Nat) (terminal : Bool) (v : Word)
  | fstatWrite (part : Nat) (v : Word)
  | detctlWrite (v : Word)
  | orderLogRecord (part lid kind unit : Nat) (choice : Word)
  /-- Measured demands in milliwatts, by core number, and 4096 + GS for a stack. -/
  | budgetTreePeriod (demand : List (Nat × Nat))
  | pwrctlWrite (v : Word)
  | divWrite (k : Fin 16) (v : Word)
  | voltageRampEnd (c : Nat)
  | frequencySwitch (c : Nat)
  | powerSwitchOpen (u : Nat)
  | powerSwitchClose (u : Nat)
  | linkLost (link : Nat)
  | flitRetry (hop : Nat)
  /-- Peak temperature of each die in the interval, in degrees C. -/
  | lifetimeCommit (peaks : List Nat)
  | reset (imageOk : Bool)
  | lifeCycleChange (st : Fin 4)
  | recoveryImage (imageOk : Bool)
  | registerWrite (w : RegWrite) (v : Word)
  | linkDown (link : Nat)
  | linkRetrain (link : Nat)
  | droopEvent (die : Fin 4)
  | orderlyPowerDown
  deriving DecidableEq, Repr

end Sys2Proof
end

