-- ==== Sys2Proof/Decode.lean ====
section
/-! DEFINITION. The decoder, total on any bytes, and the encoder, both written from spec/03_encodings R39-R64. A word that is no
instruction decodes to `illegalWord` (R40, tval 0); a prefix whose followers R63 refuses decodes to its refused tail. Only bytes that
end too soon are rejected, by name. -/

namespace Sys2Proof

-- the fields of a word (R43, R49)

def opOf (w : Code) : BitVec 7 := w.extractLsb' 0 7
def f3Of (w : Code) : BitVec 3 := w.extractLsb' 12 3
def f7Of (w : Code) : BitVec 7 := w.extractLsb' 25 7
def f6Of (w : Code) : BitVec 6 := w.extractLsb' 26 6
def fmtOf (w : Code) : BitVec 2 := w.extractLsb' 25 2
def fd (w : Code) : BitVec 5 := w.extractLsb' 7 5
def f1 (w : Code) : BitVec 5 := w.extractLsb' 15 5
def f2 (w : Code) : BitVec 5 := w.extractLsb' 20 5
def f3r (w : Code) : BitVec 5 := w.extractLsb' 27 5
def rdOf (w : Code) : Reg := (fd w).toFin
def rs1Of (w : Code) : Reg := (f1 w).toFin
def rs2Of (w : Code) : Reg := (f2 w).toFin
def rs3Of (w : Code) : Reg := (f3r w).toFin
def immI (w : Code) : BitVec 12 := w.extractLsb' 20 12
def immS (w : Code) : BitVec 12 := f7Of w ++ fd w
/-- Bits 12:1 of a branch's offset (RISC-V B format). -/
def immB (w : Code) : BitVec 12 := w.extractLsb' 31 1 ++ w.extractLsb' 7 1 ++ w.extractLsb' 25 6 ++ w.extractLsb' 8 4
def immU (w : Code) : BitVec 20 := w.extractLsb' 12 20
/-- Bits 20:1 of a jump's offset (RISC-V J format). -/
def immJ (w : Code) : BitVec 20 := w.extractLsb' 31 1 ++ w.extractLsb' 12 8 ++ w.extractLsb' 20 1 ++ w.extractLsb' 21 10
def sh6 (w : Code) : BitVec 6 := w.extractLsb' 20 6
/-- lp0 or lp1 in bit 7 (R52). -/
def lpN (w : Code) : Fin 2 := (w.extractLsb' 7 1).toFin
/-- A queue handle in bits 23:20 (R52). -/
def qN (w : Code) : Fin 16 := (w.extractLsb' 20 4).toFin
/-- An accumulator in the rd field (R50). -/
def accD (w : Code) : Acc := (w.extractLsb' 7 2).toFin
/-- An accumulator in the rs2 field (R50). -/
def accS (w : Code) : Acc := (w.extractLsb' 20 2).toFin
/-- VFCMP's condition (R58). -/
def fcondOf (b : BitVec 2) : FCond :=
  if b = 0#2 then .eq else if b = 1#2 then .ne else if b = 2#2 then .lt else .le
/-- VICMP's condition (R58). -/
def icondOf : Nat → ICond
  | 0 => .eq | 1 => .ne | 2 => .lt | 3 => .le | 4 => .ltu | _ => .leu
/-- VCVT's kind (R58). -/
def cvtOf : Nat → CvtKind
  | 0 => .toi32 | 1 => .fromi32 | 2 => .tobf16 | 3 => .frombf16 | 4 => .toe4m3 | 5 => .frome4m3 | 6 => .toe5m2 | _ => .frome5m2

-- the unprefixed words, by opcode, funct3 and funct7

def decodeLui (w : Code) : Option Instr := some (.lui (rdOf w) (immU w))

def decodeAuipc (w : Code) : Option Instr := some (.auipc (rdOf w) (immU w))

def decodeJal (w : Code) : Option Instr := some (.jal (rdOf w) (immJ w))

/-- Opcode 0x67 by funct3 (R43, R52-R57). -/
def decodeJalr (w : Code) : Option Instr :=
  match (f3Of w).toNat with
  | 0 => some (.jalr (rdOf w) (rs1Of w) (immI w))
  | _ => none

/-- Opcode 0x63 by funct3 (R43, R52-R57). -/
def decodeBranch (w : Code) : Option Instr :=
  match (f3Of w).toNat with
  | 0 => some (.beq (rs1Of w) (rs2Of w) (immB w))
  | 1 => some (.bne (rs1Of w) (rs2Of w) (immB w))
  | 4 => some (.blt (rs1Of w) (rs2Of w) (immB w))
  | 5 => some (.bge (rs1Of w) (rs2Of w) (immB w))
  | 6 => some (.bltu (rs1Of w) (rs2Of w) (immB w))
  | 7 => some (.bgeu (rs1Of w) (rs2Of w) (immB w))
  | _ => none

/-- Opcode 0x3 by funct3 (R43, R52-R57). -/
def decodeLoad (w : Code) : Option Instr :=
  match (f3Of w).toNat with
  | 0 => some (.lb (rdOf w) (rs1Of w) (immI w))
  | 1 => some (.lh (rdOf w) (rs1Of w) (immI w))
  | 2 => some (.lw (rdOf w) (rs1Of w) (immI w))
  | 3 => some (.ld (rdOf w) (rs1Of w) (immI w))
  | 4 => some (.lbu (rdOf w) (rs1Of w) (immI w))
  | 5 => some (.lhu (rdOf w) (rs1Of w) (immI w))
  | 6 => some (.lwu (rdOf w) (rs1Of w) (immI w))
  | _ => none

/-- Opcode 0x23 by funct3 (R43, R52-R57). -/
def decodeStore (w : Code) : Option Instr :=
  match (f3Of w).toNat with
  | 0 => some (.sb (rs2Of w) (rs1Of w) (immS w))
  | 1 => some (.sh (rs2Of w) (rs1Of w) (immS w))
  | 2 => some (.sw (rs2Of w) (rs1Of w) (immS w))
  | 3 => some (.sd (rs2Of w) (rs1Of w) (immS w))
  | _ => none

/-- Opcode 0x13 by funct3 (R43, R52-R57). -/
def decodeOpImm (w : Code) : Option Instr :=
  match (f3Of w).toNat with
  | 0 => some (.addi (rdOf w) (rs1Of w) (immI w))
  | 1 => if f6Of w = 0#6 then some (.slli (rdOf w) (rs1Of w) (sh6 w)) else none
  | 2 => some (.slti (rdOf w) (rs1Of w) (immI w))
  | 3 => some (.sltiu (rdOf w) (rs1Of w) (immI w))
  | 4 => some (.xori (rdOf w) (rs1Of w) (immI w))
  | 5 => if f6Of w = 0#6 then some (.srli (rdOf w) (rs1Of w) (sh6 w)) else if f6Of w = 16#6 then some (.srai (rdOf w) (rs1Of w) (sh6 w)) else none
  | 6 => some (.ori (rdOf w) (rs1Of w) (immI w))
  | 7 => some (.andi (rdOf w) (rs1Of w) (immI w))
  | _ => none

/-- Opcode 0x33, funct3 0 (R43, R52-R57). -/
def decodeOp0 (w : Code) : Option Instr :=
  match (f7Of w).toNat with
  | 0x0 => some (.add (rdOf w) (rs1Of w) (rs2Of w))
  | 0x20 => some (.sub (rdOf w) (rs1Of w) (rs2Of w))
  | 0x1 => some (.mul (rdOf w) (rs1Of w) (rs2Of w))
  | _ => none

/-- Opcode 0x33, funct3 1 (R43, R52-R57). -/
def decodeOp1 (w : Code) : Option Instr :=
  match (f7Of w).toNat with
  | 0x0 => some (.sll (rdOf w) (rs1Of w) (rs2Of w))
  | 0x1 => some (.mulh (rdOf w) (rs1Of w) (rs2Of w))
  | _ => none

/-- Opcode 0x33, funct3 2 (R43, R52-R57). -/
def decodeOp2 (w : Code) : Option Instr :=
  match (f7Of w).toNat with
  | 0x0 => some (.slt (rdOf w) (rs1Of w) (rs2Of w))
  | 0x1 => some (.mulhsu (rdOf w) (rs1Of w) (rs2Of w))
  | 0x10 => some (.sh1add (rdOf w) (rs1Of w) (rs2Of w))
  | _ => none

/-- Opcode 0x33, funct3 3 (R43, R52-R57). -/
def decodeOp3 (w : Code) : Option Instr :=
  match (f7Of w).toNat with
  | 0x0 => some (.sltu (rdOf w) (rs1Of w) (rs2Of w))
  | 0x1 => some (.mulhu (rdOf w) (rs1Of w) (rs2Of w))
  | _ => none

/-- Opcode 0x33, funct3 4 (R43, R52-R57). -/
def decodeOp4 (w : Code) : Option Instr :=
  match (f7Of w).toNat with
  | 0x0 => some (.xor (rdOf w) (rs1Of w) (rs2Of w))
  | 0x1 => some (.div (rdOf w) (rs1Of w) (rs2Of w))
  | 0x10 => some (.sh2add (rdOf w) (rs1Of w) (rs2Of w))
  | _ => none

/-- Opcode 0x33, funct3 5 (R43, R52-R57). -/
def decodeOp5 (w : Code) : Option Instr :=
  match (f7Of w).toNat with
  | 0x0 => some (.srl (rdOf w) (rs1Of w) (rs2Of w))
  | 0x20 => some (.sra (rdOf w) (rs1Of w) (rs2Of w))
  | 0x1 => some (.divu (rdOf w) (rs1Of w) (rs2Of w))
  | _ => none

/-- Opcode 0x33, funct3 6 (R43, R52-R57). -/
def decodeOp6 (w : Code) : Option Instr :=
  match (f7Of w).toNat with
  | 0x0 => some (.or (rdOf w) (rs1Of w) (rs2Of w))
  | 0x1 => some (.rem (rdOf w) (rs1Of w) (rs2Of w))
  | 0x10 => some (.sh3add (rdOf w) (rs1Of w) (rs2Of w))
  | _ => none

/-- Opcode 0x33, funct3 7 (R43, R52-R57). -/
def decodeOp7 (w : Code) : Option Instr :=
  match (f7Of w).toNat with
  | 0x0 => some (.and (rdOf w) (rs1Of w) (rs2Of w))
  | 0x1 => some (.remu (rdOf w) (rs1Of w) (rs2Of w))
  | _ => none

/-- Opcode 0x33 by funct3 (R43, R52-R57). -/
def decodeOp (w : Code) : Option Instr :=
  match (f3Of w).toNat with
  | 0 => decodeOp0 w
  | 1 => decodeOp1 w
  | 2 => decodeOp2 w
  | 3 => decodeOp3 w
  | 4 => decodeOp4 w
  | 5 => decodeOp5 w
  | 6 => decodeOp6 w
  | 7 => decodeOp7 w
  | _ => none

/-- Opcode 0x1b, funct3 1 (R43, R52-R57). -/
def decodeOpImm321 (w : Code) : Option Instr :=
  match (f7Of w).toNat with
  | 0x0 => some (.slliw (rdOf w) (rs1Of w) (f2 w))
  | _ => if f6Of w = 2#6 then some (.slliUw (rdOf w) (rs1Of w) (sh6 w)) else none

/-- Opcode 0x1b, funct3 5 (R43, R52-R57). -/
def decodeOpImm325 (w : Code) : Option Instr :=
  match (f7Of w).toNat with
  | 0x0 => some (.srliw (rdOf w) (rs1Of w) (f2 w))
  | 0x20 => some (.sraiw (rdOf w) (rs1Of w) (f2 w))
  | _ => none

/-- Opcode 0x1b by funct3 (R43, R52-R57). -/
def decodeOpImm32 (w : Code) : Option Instr :=
  match (f3Of w).toNat with
  | 0 => some (.addiw (rdOf w) (rs1Of w) (immI w))
  | 1 => decodeOpImm321 w
  | 5 => decodeOpImm325 w
  | _ => none

/-- Opcode 0x3b, funct3 0 (R43, R52-R57). -/
def decodeOp320 (w : Code) : Option Instr :=
  match (f7Of w).toNat with
  | 0x0 => some (.addw (rdOf w) (rs1Of w) (rs2Of w))
  | 0x20 => some (.subw (rdOf w) (rs1Of w) (rs2Of w))
  | 0x1 => some (.mulw (rdOf w) (rs1Of w) (rs2Of w))
  | 0x4 => some (.addUw (rdOf w) (rs1Of w) (rs2Of w))
  | _ => none

/-- Opcode 0x3b, funct3 1 (R43, R52-R57). -/
def decodeOp321 (w : Code) : Option Instr :=
  match (f7Of w).toNat with
  | 0x0 => some (.sllw (rdOf w) (rs1Of w) (rs2Of w))
  | _ => none

/-- Opcode 0x3b, funct3 2 (R43, R52-R57). -/
def decodeOp322 (w : Code) : Option Instr :=
  match (f7Of w).toNat with
  | 0x10 => some (.sh1addUw (rdOf w) (rs1Of w) (rs2Of w))
  | _ => none

/-- Opcode 0x3b, funct3 4 (R43, R52-R57). -/
def decodeOp324 (w : Code) : Option Instr :=
  match (f7Of w).toNat with
  | 0x1 => some (.divw (rdOf w) (rs1Of w) (rs2Of w))
  | 0x10 => some (.sh2addUw (rdOf w) (rs1Of w) (rs2Of w))
  | _ => none

/-- Opcode 0x3b, funct3 5 (R43, R52-R57). -/
def decodeOp325 (w : Code) : Option Instr :=
  match (f7Of w).toNat with
  | 0x0 => some (.srlw (rdOf w) (rs1Of w) (rs2Of w))
  | 0x20 => some (.sraw (rdOf w) (rs1Of w) (rs2Of w))
  | 0x1 => some (.divuw (rdOf w) (rs1Of w) (rs2Of w))
  | _ => none

/-- Opcode 0x3b, funct3 6 (R43, R52-R57). -/
def decodeOp326 (w : Code) : Option Instr :=
  match (f7Of w).toNat with
  | 0x1 => some (.remw (rdOf w) (rs1Of w) (rs2Of w))
  | 0x10 => some (.sh3addUw (rdOf w) (rs1Of w) (rs2Of w))
  | _ => none

/-- Opcode 0x3b, funct3 7 (R43, R52-R57). -/
def decodeOp327 (w : Code) : Option Instr :=
  match (f7Of w).toNat with
  | 0x1 => some (.remuw (rdOf w) (rs1Of w) (rs2Of w))
  | _ => none

/-- Opcode 0x3b by funct3 (R43, R52-R57). -/
def decodeOp32 (w : Code) : Option Instr :=
  match (f3Of w).toNat with
  | 0 => decodeOp320 w
  | 1 => decodeOp321 w
  | 2 => decodeOp322 w
  | 4 => decodeOp324 w
  | 5 => decodeOp325 w
  | 6 => decodeOp326 w
  | 7 => decodeOp327 w
  | _ => none

/-- Opcode 0xf by funct3 (R43, R52-R57). -/
def decodeFence (w : Code) : Option Instr :=
  match (f3Of w).toNat with
  | 0 => if w.extractLsb' 28 4 = 0#4 ∧ f1 w = 0#5 ∧ fd w = 0#5 then some (.fence (w.extractLsb' 24 4) (w.extractLsb' 20 4)) else none
  | _ => none

/-- Opcode 0x73 by funct3 (R43, R52-R57). -/
def decodeSystem (w : Code) : Option Instr :=
  match (f3Of w).toNat with
  | 0 => if w = 0x73#32 then some .ecall else if w = 0x100073#32 then some .ebreak else none
  | 1 => some (.csrrw (rdOf w) (rs1Of w) (immI w))
  | 2 => some (.csrrs (rdOf w) (rs1Of w) (immI w))
  | 3 => some (.csrrc (rdOf w) (rs1Of w) (immI w))
  | 5 => some (.csrrwi (rdOf w) (f1 w) (immI w))
  | 6 => some (.csrrsi (rdOf w) (f1 w) (immI w))
  | 7 => some (.csrrci (rdOf w) (f1 w) (immI w))
  | _ => none

/-- Opcode 0xb, funct3 0 (R43, R52-R57). -/
def decodeCustom00 (w : Code) : Option Instr :=
  match (f7Of w).toNat with
  | 0x0 => if fd w = 0#5 ∧ f1 w = 0#5 ∧ f2 w = 0#5 then some .fin else none
  | 0x1 => if f2 w = 0#5 ∧ (f1 w).toNat < 6 then some (.widf (rdOf w) (Fin.ofNat 6 (f1 w).toNat)) else none
  | 0x2 => if f2 w = 0#5 then some (.grow (rdOf w) (rs1Of w)) else none
  | 0x3 => if f2 w = 0#5 then some (.launch (rdOf w) (rs1Of w)) else none
  | 0x4 => if fd w = 0#5 ∧ f2 w = 0#5 then some (.wfe (rs1Of w)) else none
  | 0x5 => if f1 w = 0#5 ∧ f2 w = 0#5 ∧ w.extractLsb' 8 4 = 0#4 then some (.lpclr (lpN w)) else none
  | 0x8 => if fd w = 0#5 ∧ f1 w = 0#5 ∧ f2 w = 0#5 then some .tret else none
  | 0x9 => if f2 w = 0#5 then some (.kill (rdOf w) (rs1Of w)) else none
  | 0xa => some (.placew (rdOf w) (rs1Of w) (rs2Of w))
  | _ => none

/-- Opcode 0xb, funct3 1 (R43, R52-R57). -/
def decodeCustom01 (w : Code) : Option Instr :=
  match (f7Of w).toNat with
  | 0x0 => if fd w = 0#5 ∧ w.extractLsb' 24 1 = 0#1 then some (.qwaitF (qN w) (rs1Of w)) else none
  | 0x1 => if fd w = 0#5 ∧ w.extractLsb' 24 1 = 0#1 then some (.qwaitE (qN w) (rs1Of w)) else none
  | 0x2 => if fd w = 0#5 ∧ w.extractLsb' 24 1 = 0#1 then some (.qadvC (qN w) (rs1Of w)) else none
  | 0x3 => if fd w = 0#5 ∧ w.extractLsb' 24 1 = 0#1 then some (.qadvP (qN w) (rs1Of w)) else none
  | 0x4 => if f1 w = 0#5 ∧ w.extractLsb' 24 1 = 0#1 then some (.qcnt (rdOf w) (qN w)) else none
  | 0x5 => if w.extractLsb' 24 1 = 0#1 then some (.qslot (rdOf w) (qN w) (rs1Of w)) else none
  | _ => none

/-- Opcode 0xb, funct3 5 (R43, R52-R57). -/
def decodeCustom05 (w : Code) : Option Instr :=
  match (f7Of w).toNat with
  | 0x0 => if fd w = 0#5 then some (.send (rs1Of w) (rs2Of w)) else none
  | 0x1 => some (.sendR (rdOf w) (rs1Of w) (rs2Of w))
  | 0x2 => some (.sendnb (rdOf w) (rs1Of w) (rs2Of w))
  | 0x3 => some (.rcall (rdOf w) (rs1Of w) (rs2Of w))
  | 0x4 => if fd w = 0#5 ∧ f1 w = 0#5 ∧ f2 w = 0#5 then some .reply else none
  | 0x5 => if f2 w = 0#5 then some (.rwait (rdOf w) (rs1Of w)) else none
  | 0x6 => if f2 w = 0#5 then some (.rpoll (rdOf w) (rs1Of w)) else none
  | _ => none

/-- Opcode 0xb, funct3 7 (R43, R52-R57). -/
def decodeCustom07 (w : Code) : Option Instr :=
  match (f7Of w).toNat with
  | 0x0 => if f2 w = 0#5 then some (.ecmd (rdOf w) (rs1Of w)) else none
  | 0x1 => if f2 w = 0#5 then some (.eseq (rdOf w) (rs1Of w)) else none
  | _ => none

/-- Opcode 0xb by funct3 (R43, R52-R57). -/
def decodeCustom0 (w : Code) : Option Instr :=
  match (f3Of w).toNat with
  | 0 => decodeCustom00 w
  | 1 => decodeCustom01 w
  | 2 => if w.extractLsb' 8 4 = 0#4 then some (.lpset (lpN w) (rs1Of w) (immI w)) else none
  | 4 => if w.extractLsb' 8 4 = 0#4 then some (.lpseti (lpN w) (rs1Of w) (immI w)) else none
  | 5 => decodeCustom05 w
  | 6 => if fd w = 0#5 ∧ w.extractLsb' 26 6 = 0#6 then some (.semwait (Fin.ofNat 64 (w.extractLsb' 20 6).toNat) (rs1Of w)) else if fd w = 0#5 ∧ w.extractLsb' 26 6 = 1#6 then some (.semadd (Fin.ofNat 64 (w.extractLsb' 20 6).toNat) (rs1Of w)) else if fd w = 0#5 ∧ w.extractLsb' 26 6 = 2#6 then some (.semset (Fin.ofNat 64 (w.extractLsb' 20 6).toNat) (rs1Of w)) else if f1 w = 0#5 ∧ w.extractLsb' 26 6 = 3#6 then some (.semrd (rdOf w) (Fin.ofNat 64 (w.extractLsb' 20 6).toNat)) else if fd w = 0#5 ∧ w.extractLsb' 26 6 = 4#6 ∧ (w.extractLsb' 20 6).toNat < 16 then some (.bardecl (Fin.ofNat 16 (w.extractLsb' 20 6).toNat) (rs1Of w)) else if fd w = 0#5 ∧ f1 w = 0#5 ∧ w.extractLsb' 26 6 = 5#6 ∧ (w.extractLsb' 20 6).toNat < 16 then some (.barwait (Fin.ofNat 16 (w.extractLsb' 20 6).toNat)) else if fd w = 0#5 ∧ w.extractLsb' 26 6 = 6#6 ∧ (w.extractLsb' 20 6).toNat < 8 then some (.chkwait (Fin.ofNat 8 (w.extractLsb' 20 6).toNat) (rs1Of w)) else if w.extractLsb' 26 6 = 7#6 ∧ (w.extractLsb' 20 6).toNat < 8 then some (.chktest (rdOf w) (Fin.ofNat 8 (w.extractLsb' 20 6).toNat) (rs1Of w)) else none
  | 7 => decodeCustom07 w
  | _ => none

/-- Opcode 0x2b, funct3 0 (R43, R52-R57). -/
def decodeCustom10 (w : Code) : Option Instr :=
  match (f7Of w).toNat with
  | 0x0 => if f2 w = 0#5 then some (.acqX (rdOf w) (rs1Of w)) else none
  | 0x1 => if f2 w = 0#5 then some (.acqS (rdOf w) (rs1Of w)) else none
  | 0x2 => some (.acqw (rdOf w) (rs2Of w) (rs1Of w))
  | 0x3 => if fd w = 0#5 ∧ f2 w = 0#5 then some (.rel (rs1Of w)) else none
  | 0x4 => if fd w = 0#5 then some (.relv (rs2Of w) (rs1Of w)) else none
  | 0x5 => if fd w = 0#5 then some (.bind (rs1Of w) (rs2Of w)) else none
  | 0x6 => if fd w = 0#5 then some (.unbind (rs1Of w) (rs2Of w)) else none
  | _ => none

/-- Opcode 0x2b, funct3 1 (R43, R52-R57). -/
def decodeCustom11 (w : Code) : Option Instr :=
  match (f7Of w).toNat with
  | 0x0 => if fd w = 0#5 ∧ f1 w = 0#5 ∧ f2 w = 0#5 then some .fenceG else none
  | 0x1 => if fd w = 0#5 ∧ f2 w = 0#5 then some (.fenceB (rs1Of w)) else none
  | 0x2 => if fd w = 0#5 ∧ f1 w = 0#5 ∧ f2 w = 0#5 then some .fenceE else none
  | 0x3 => if fd w = 0#5 ∧ f1 w = 0#5 ∧ f2 w = 0#5 then some .fenceJ else none
  | _ => none

/-- Opcode 0x2b, funct3 2 (R43, R52-R57). -/
def decodeCustom12 (w : Code) : Option Instr :=
  match (f7Of w).toNat with
  | 0x0 => some (.amoaddW (rdOf w) (rs2Of w) (rs1Of w))
  | 0x4 => if fd w = 0#5 then some (.amoaddWP (rs2Of w) (rs1Of w)) else none
  | 0x8 => some (.amoandW (rdOf w) (rs2Of w) (rs1Of w))
  | 0xc => if fd w = 0#5 then some (.amoandWP (rs2Of w) (rs1Of w)) else none
  | 0x10 => some (.amoorW (rdOf w) (rs2Of w) (rs1Of w))
  | 0x14 => if fd w = 0#5 then some (.amoorWP (rs2Of w) (rs1Of w)) else none
  | 0x18 => some (.amoxorW (rdOf w) (rs2Of w) (rs1Of w))
  | 0x1c => if fd w = 0#5 then some (.amoxorWP (rs2Of w) (rs1Of w)) else none
  | 0x20 => some (.amominW (rdOf w) (rs2Of w) (rs1Of w))
  | 0x24 => if fd w = 0#5 then some (.amominWP (rs2Of w) (rs1Of w)) else none
  | 0x28 => some (.amomaxW (rdOf w) (rs2Of w) (rs1Of w))
  | 0x2c => if fd w = 0#5 then some (.amomaxWP (rs2Of w) (rs1Of w)) else none
  | 0x30 => some (.amominuW (rdOf w) (rs2Of w) (rs1Of w))
  | 0x34 => if fd w = 0#5 then some (.amominuWP (rs2Of w) (rs1Of w)) else none
  | 0x38 => some (.amomaxuW (rdOf w) (rs2Of w) (rs1Of w))
  | 0x3c => if fd w = 0#5 then some (.amomaxuWP (rs2Of w) (rs1Of w)) else none
  | 0x40 => some (.amoswapW (rdOf w) (rs2Of w) (rs1Of w))
  | 0x44 => if fd w = 0#5 then some (.amoswapWP (rs2Of w) (rs1Of w)) else none
  | _ => none

/-- Opcode 0x2b, funct3 3 (R43, R52-R57). -/
def decodeCustom13 (w : Code) : Option Instr :=
  match (f7Of w).toNat with
  | 0x0 => some (.amoaddD (rdOf w) (rs2Of w) (rs1Of w))
  | 0x4 => if fd w = 0#5 then some (.amoaddDP (rs2Of w) (rs1Of w)) else none
  | 0x8 => some (.amoandD (rdOf w) (rs2Of w) (rs1Of w))
  | 0xc => if fd w = 0#5 then some (.amoandDP (rs2Of w) (rs1Of w)) else none
  | 0x10 => some (.amoorD (rdOf w) (rs2Of w) (rs1Of w))
  | 0x14 => if fd w = 0#5 then some (.amoorDP (rs2Of w) (rs1Of w)) else none
  | 0x18 => some (.amoxorD (rdOf w) (rs2Of w) (rs1Of w))
  | 0x1c => if fd w = 0#5 then some (.amoxorDP (rs2Of w) (rs1Of w)) else none
  | 0x20 => some (.amominD (rdOf w) (rs2Of w) (rs1Of w))
  | 0x24 => if fd w = 0#5 then some (.amominDP (rs2Of w) (rs1Of w)) else none
  | 0x28 => some (.amomaxD (rdOf w) (rs2Of w) (rs1Of w))
  | 0x2c => if fd w = 0#5 then some (.amomaxDP (rs2Of w) (rs1Of w)) else none
  | 0x30 => some (.amominuD (rdOf w) (rs2Of w) (rs1Of w))
  | 0x34 => if fd w = 0#5 then some (.amominuDP (rs2Of w) (rs1Of w)) else none
  | 0x38 => some (.amomaxuD (rdOf w) (rs2Of w) (rs1Of w))
  | 0x3c => if fd w = 0#5 then some (.amomaxuDP (rs2Of w) (rs1Of w)) else none
  | 0x40 => some (.amoswapD (rdOf w) (rs2Of w) (rs1Of w))
  | 0x44 => if fd w = 0#5 then some (.amoswapDP (rs2Of w) (rs1Of w)) else none
  | _ => none

/-- Opcode 0x2b, funct3 5 (R43, R52-R57). -/
def decodeCustom15 (w : Code) : Option Instr :=
  match (f7Of w).toNat with
  | 0x0 => some (.amofaddS (rdOf w) (rs2Of w) (rs1Of w))
  | 0x1 => some (.amofaddBh (rdOf w) (rs2Of w) (rs1Of w))
  | 0x2 => some (.amofmaxS (rdOf w) (rs2Of w) (rs1Of w))
  | _ => none

/-- Opcode 0x2b, funct3 6 (R43, R52-R57). -/
def decodeCustom16 (w : Code) : Option Instr :=
  match (f7Of w).toNat with
  | 0x0 => if f2 w = 0#5 then some (.swldC (rdOf w) (rs1Of w)) else none
  | 0x1 => if f2 w = 0#5 then some (.swldV (rdOf w) (rs1Of w)) else none
  | 0x2 => if fd w = 0#5 then some (.swst (rs2Of w) (rs1Of w)) else none
  | 0x3 => some (.swadd (rdOf w) (rs2Of w) (rs1Of w))
  | 0x4 => some (.swarm (rdOf w) (rs2Of w) (rs1Of w))
  | 0x5 => if fd w = 0#5 ∧ f2 w = 0#5 then some (.swdis (rs1Of w)) else none
  | 0x6 => some (.swraw (rdOf w) (rs2Of w) (rs1Of w))
  | _ => none

/-- Opcode 0x2b, funct3 7 (R43, R52-R57). -/
def decodeCustom17 (w : Code) : Option Instr :=
  match (f7Of w).toNat with
  | 0x0 => some (.bmode (rdOf w) (rs2Of w) (rs1Of w))
  | 0x1 => if fd w = 0#5 then some (.bcast (rs2Of w) (rs1Of w)) else none
  | 0x2 => some (.bmv (rdOf w) (rs2Of w) (rs1Of w))
  | 0x3 => some (.bexpr (rdOf w) (rs2Of w) (rs1Of w))
  | 0x4 => if fd w = 0#5 then some (.bget (rs2Of w) (rs1Of w)) else none
  | 0x5 => if f2 w = 0#5 then some (.bstat (rdOf w) (rs1Of w)) else none
  | _ => none

/-- Opcode 0x2b by funct3 (R43, R52-R57). -/
def decodeCustom1 (w : Code) : Option Instr :=
  match (f3Of w).toNat with
  | 0 => decodeCustom10 w
  | 1 => decodeCustom11 w
  | 2 => decodeCustom12 w
  | 3 => decodeCustom13 w
  | 4 => if fmtOf w = 0#2 then some (.amocasW (rdOf w) (rs2Of w) (rs3Of w) (rs1Of w)) else if fmtOf w = 1#2 then some (.amocasD (rdOf w) (rs2Of w) (rs3Of w) (rs1Of w)) else none
  | 5 => decodeCustom15 w
  | 6 => decodeCustom16 w
  | 7 => decodeCustom17 w
  | _ => none

/-- Opcode 0x5b, funct3 1 (R43, R52-R57). -/
def decodeCustom21 (w : Code) : Option Instr :=
  match (f7Of w).toNat with
  | 0x0 => if fd w ≠ 0#5 then some (.wld (rdOf w) (rs1Of w) (rs2Of w)) else none
  | 0x1 => if f1 w = 0#5 ∧ f2 w = 0#5 ∧ w.extractLsb' 9 3 = 0#3 then some (.accz (accD w)) else none
  | 0x2 => if w.extractLsb' 22 3 = 0#3 then some (.accrd (rdOf w) (accS w) (rs1Of w)) else none
  | 0x3 => if w.extractLsb' 9 3 = 0#3 then some (.accwr (accD w) (rs2Of w) (rs1Of w)) else none
  | 0x4 => if fd w = 0#5 ∧ w.extractLsb' 22 3 = 0#3 then some (.accst (accS w) (rs1Of w)) else none
  | 0x5 => if f1 w = 0#5 ∧ f2 w = 0#5 then some (.mstat (rdOf w)) else none
  | _ => none

/-- Opcode 0x5b by funct3 (R43, R52-R57). -/
def decodeCustom2 (w : Code) : Option Instr :=
  match (f3Of w).toNat with
  | 0 => if fmtOf w = 0#2 ∧ w.extractLsb' 9 3 = 0#3 then some (.mma (accD w) (rs1Of w) (rs2Of w) (rs3Of w)) else none
  | 1 => decodeCustom21 w
  | _ => none

/-- Opcode 0x7b, funct3 0 (R43, R52-R57). -/
def decodeCustom30 (w : Code) : Option Instr :=
  match (f7Of w).toNat with
  | 0x0 => some (.vfadd (rdOf w) (rs1Of w) (rs2Of w))
  | 0x1 => some (.vfsub (rdOf w) (rs1Of w) (rs2Of w))
  | 0x2 => some (.vfmul (rdOf w) (rs1Of w) (rs2Of w))
  | 0x3 => some (.vfmax (rdOf w) (rs1Of w) (rs2Of w))
  | 0x4 => some (.vfmin (rdOf w) (rs1Of w) (rs2Of w))
  | 0x5 => if f2 w = 0#5 then some (.vfabs (rdOf w) (rs1Of w)) else none
  | 0x6 => if f2 w = 0#5 then some (.vfneg (rdOf w) (rs1Of w)) else none
  | _ => if w.extractLsb' 27 5 = 2#5 then some (.vfcmp (fcondOf (w.extractLsb' 25 2)) (rdOf w) (rs1Of w) (rs2Of w)) else none

/-- Opcode 0x7b, funct3 1 (R43, R52-R57). -/
def decodeCustom31 (w : Code) : Option Instr :=
  match (f7Of w).toNat with
  | 0x0 => some (.viadd (rdOf w) (rs1Of w) (rs2Of w))
  | 0x1 => some (.visub (rdOf w) (rs1Of w) (rs2Of w))
  | 0x2 => some (.vimul (rdOf w) (rs1Of w) (rs2Of w))
  | 0x3 => some (.vand (rdOf w) (rs1Of w) (rs2Of w))
  | 0x4 => some (.vor (rdOf w) (rs1Of w) (rs2Of w))
  | 0x5 => some (.vxor (rdOf w) (rs1Of w) (rs2Of w))
  | 0x6 => some (.vsll (rdOf w) (rs1Of w) (rs2Of w))
  | 0x7 => some (.vsrl (rdOf w) (rs1Of w) (rs2Of w))
  | 0x8 => some (.vsra (rdOf w) (rs1Of w) (rs2Of w))
  | 0x9 => some (.vimin (rdOf w) (rs1Of w) (rs2Of w))
  | 0xa => some (.vimax (rdOf w) (rs1Of w) (rs2Of w))
  | _ => if 0x10 ≤ (f7Of w).toNat ∧ (f7Of w).toNat < 0x16 then some (.vicmp (icondOf ((f7Of w).toNat - 0x10)) (rdOf w) (rs1Of w) (rs2Of w)) else none

/-- Opcode 0x7b, funct3 2 (R43, R52-R57). -/
def decodeCustom32 (w : Code) : Option Instr :=
  match (f7Of w).toNat with
  | 0x0 => if f2 w = 0#5 then some (.vexp2 (rdOf w) (rs1Of w)) else none
  | 0x1 => if f2 w = 0#5 then some (.vrcp (rdOf w) (rs1Of w)) else none
  | 0x2 => if f2 w = 0#5 then some (.vrsq (rdOf w) (rs1Of w)) else none
  | 0x3 => if f2 w = 0#5 then some (.vlog2 (rdOf w) (rs1Of w)) else none
  | 0x4 => if (f2 w).toNat < 8 then some (.vcvt (cvtOf (f2 w).toNat) (rdOf w) (rs1Of w)) else none
  | 0x8 => if f2 w = 0#5 then some (.vfsum (rdOf w) (rs1Of w)) else none
  | 0x9 => if f2 w = 0#5 then some (.vfmaxr (rdOf w) (rs1Of w)) else none
  | 0xa => if f2 w = 0#5 then some (.visum (rdOf w) (rs1Of w)) else none
  | 0x10 => some (.vperm (rdOf w) (rs1Of w) (rs2Of w))
  | 0x11 => if f2 w = 0#5 then some (.vbcast (rdOf w) (rs1Of w)) else none
  | 0x12 => some (.vmvx (rdOf w) (rs1Of w) (rs2Of w))
  | 0x13 => if f2 w = 0#5 then some (.vmvv (rdOf w) (rs1Of w)) else none
  | 0x14 => some (.vslide (rdOf w) (rs1Of w) (f2 w))
  | _ => none

/-- Opcode 0x7b, funct3 3 (R43, R52-R57). -/
def decodeCustom33 (w : Code) : Option Instr :=
  match (f7Of w).toNat with
  | 0x0 => some (.vlds (rdOf w) (rs1Of w) (rs2Of w))
  | 0x1 => some (.vsts (rdOf w) (rs1Of w) (rs2Of w))
  | 0x2 => some (.vldx (rdOf w) (rs1Of w) (rs2Of w))
  | _ => none

/-- Opcode 0x7b by funct3 (R43, R52-R57). -/
def decodeCustom3 (w : Code) : Option Instr :=
  match (f3Of w).toNat with
  | 0 => decodeCustom30 w
  | 1 => decodeCustom31 w
  | 2 => decodeCustom32 w
  | 3 => decodeCustom33 w
  | 4 => some (.vld (rdOf w) (rs1Of w) (immI w))
  | 5 => some (.vst (rs2Of w) (rs1Of w) (immS w))
  | 6 => if fmtOf w = 0#2 then some (.vfma (rdOf w) (rs1Of w) (rs2Of w) (rs3Of w)) else if fmtOf w = 1#2 then some (.vfms (rdOf w) (rs1Of w) (rs2Of w) (rs3Of w)) else if fmtOf w = 2#2 then some (.vsel (rdOf w) (rs1Of w) (rs2Of w) (rs3Of w)) else if fmtOf w = 3#2 then some (.vrec (rdOf w) (rs1Of w) (rs2Of w) (rs3Of w)) else none
  | _ => none

/-- An instruction of one word that is no AT or EXT: none for every word R40 calls no instruction. -/
def decodeOne (w : Code) : Option Instr :=
  match (opOf w).toNat with
  | 0x37 => decodeLui w
  | 0x17 => decodeAuipc w
  | 0x6f => decodeJal w
  | 0x67 => decodeJalr w
  | 0x63 => decodeBranch w
  | 0x3 => decodeLoad w
  | 0x23 => decodeStore w
  | 0x13 => decodeOpImm w
  | 0x33 => decodeOp w
  | 0x1b => decodeOpImm32 w
  | 0x3b => decodeOp32 w
  | 0xf => decodeFence w
  | 0x73 => decodeSystem w
  | 0xb => decodeCustom0 w
  | 0x2b => decodeCustom1 w
  | 0x5b => decodeCustom2 w
  | 0x7b => decodeCustom3 w
  | _ => none

-- prefixes and what follows them (R59-R63)

/-- The register of a legal AT word (R59). -/
def atOf (w : Code) : Option Reg :=
  if opOf w = 0x0B#7 ∧ f3Of w = 3#3 ∧ w.extractLsb' 7 2 = 0#2 ∧ w.extractLsb' 20 12 = 0#12 ∧ w.extractLsb' 9 3 = 0#3
  then some (rs1Of w) else none
/-- The value E of a legal EXT word (R59). -/
def extOf (w : Code) : Option (BitVec 20) :=
  if opOf w = 0x0B#7 ∧ f3Of w = 3#3 ∧ w.extractLsb' 7 2 = 1#2
  then some (w.extractLsb' 15 17 ++ w.extractLsb' 9 3) else none
/-- A legal prefix word (R63). -/
def isPfx (w : Code) : Bool := (atOf w).isSome || (extOf w).isSome

/-- The loads and stores, which AT and EXT accept (R61). -/
def memFollower (w : Code) : Option Follower :=
  match decodeOne w with
  | some (.lb rd rs1 imm) => some (.load .lb rd rs1 imm)
  | some (.lh rd rs1 imm) => some (.load .lh rd rs1 imm)
  | some (.lw rd rs1 imm) => some (.load .lw rd rs1 imm)
  | some (.ld rd rs1 imm) => some (.load .ld rd rs1 imm)
  | some (.lbu rd rs1 imm) => some (.load .lbu rd rs1 imm)
  | some (.lhu rd rs1 imm) => some (.load .lhu rd rs1 imm)
  | some (.lwu rd rs1 imm) => some (.load .lwu rd rs1 imm)
  | some (.sb rs2 rs1 imm) => some (.store .sb rs2 rs1 imm)
  | some (.sh rs2 rs1 imm) => some (.store .sh rs2 rs1 imm)
  | some (.sw rs2 rs1 imm) => some (.store .sw rs2 rs1 imm)
  | some (.sd rs2 rs1 imm) => some (.store .sd rs2 rs1 imm)
  | _ => none
/-- The followers EXT accepts (R61). -/
def extFollower (w : Code) : Option Follower :=
  match decodeOne w with
  | some (.addi rd rs1 imm) => some (.opImm .addi rd rs1 imm)
  | some (.slti rd rs1 imm) => some (.opImm .slti rd rs1 imm)
  | some (.sltiu rd rs1 imm) => some (.opImm .sltiu rd rs1 imm)
  | some (.xori rd rs1 imm) => some (.opImm .xori rd rs1 imm)
  | some (.ori rd rs1 imm) => some (.opImm .ori rd rs1 imm)
  | some (.andi rd rs1 imm) => some (.opImm .andi rd rs1 imm)
  | some (.addiw rd rs1 imm) => some (.opImm .addiw rd rs1 imm)
  | some (.jalr rd rs1 imm) => some (.jalr rd rs1 imm)
  | some (.vld vd rs1 imm) => some (.vld vd rs1 imm)
  | some (.vst vs rs1 imm) => some (.vst vs rs1 imm)
  | _ => memFollower w

/-- What follows an AT: w2, and w3 after an EXT (R61, R63). -/
def tailOfAt (w2 w3 : Code) : Tail :=
  if (atOf w2).isSome then .bad w2
  else match extOf w2 with
    | some e => match memFollower w3 with
      | some f => .viaExt e f
      | none => .badExt e w3
    | none => match memFollower w2 with
      | some f => .one f
      | none => .bad w2
/-- What follows an EXT: w2, and w3 after an AT (R61, R63). -/
def tailOfExt (w2 w3 : Code) : Tail :=
  if (extOf w2).isSome then .bad w2
  else match atOf w2 with
    | some r => match memFollower w3 with
      | some f => .viaAt r f
      | none => .badAt r w3
    | none => match extFollower w2 with
      | some f => .one f
      | none => .bad w2

/-- The instruction that starts with word w1; w2 and w3 are the words after it (R39, R62). -/
def decodeWords (w1 w2 w3 : Code) : Instr :=
  match atOf w1 with
  | some r => .atPfx r (tailOfAt w2 w3)
  | none => match extOf w1 with
    | some e => .extPfx e (tailOfExt w2 w3)
    | none => match decodeOne w1 with
      | some i => i
      | none => .illegalWord w1

/-- Does the instruction that starts with w1 have a second word? -/
def needs2 (w1 : Code) : Bool := isPfx w1
/-- Does the instruction that starts with w1 and w2 have a third word? -/
def needs3 (w1 w2 : Code) : Bool :=
  ((atOf w1).isSome && (extOf w2).isSome) || ((extOf w1).isSome && (atOf w2).isSome)

/-- Words of the tail of a prefix. -/
def tailLen : Tail → Nat
  | .one _ | .bad _ => 1
  | .viaAt _ _ | .viaExt _ _ | .badAt _ _ | .badExt _ _ => 2
/-- Words of an instruction (R62). -/
def wordsOf : Instr → Nat
  | .atPfx _ t => 1 + tailLen t
  | .extPfx _ t => 1 + tailLen t
  | _ => 1

/-- A word from its bytes, least significant first. -/
def wordOfBytes (b0 b1 b2 b3 : Byte) : Code := b3 ++ b2 ++ b1 ++ b0
/-- The bytes of a word, least significant first. -/
def bytesOfWord (w : Code) : List Byte :=
  [w.extractLsb' 0 8, w.extractLsb' 8 8, w.extractLsb' 16 8, w.extractLsb' 24 8]

/-- Why bytes hold no instruction: they end before its last word. -/
inductive DecodeError | truncated
  deriving DecidableEq, Repr

/-- The first word of some bytes and the bytes after it. -/
def takeWord : List Byte → Option (Code × List Byte)
  | b0 :: b1 :: b2 :: b3 :: bs => some (wordOfBytes b0 b1 b2 b3, bs)
  | _ => none

/-- The instruction at the front of some bytes, and the bytes after it. -/
def decode (bs : List Byte) : Except DecodeError (Instr × List Byte) :=
  match takeWord bs with
  | none => .error .truncated
  | some (w1, r1) =>
    if needs2 w1 then
      match takeWord r1 with
      | none => .error .truncated
      | some (w2, r2) =>
        if needs3 w1 w2 then
          match takeWord r2 with
          | none => .error .truncated
          | some (w3, r3) => .ok (decodeWords w1 w2 w3, r3)
        else .ok (decodeWords w1 w2 0, r2)
    else .ok (decodeWords w1 0 0, r1)

-- the encoder

/-- A word from its fields (R43, R49). -/
def enc (f7 : BitVec 7) (rs2 rs1 : BitVec 5) (f3 : BitVec 3) (rd : BitVec 5) (op : BitVec 7) : Code :=
  f7 ++ rs2 ++ rs1 ++ f3 ++ rd ++ op
/-- A U format word. -/
def encU (imm : BitVec 20) (rd : BitVec 5) (op : BitVec 7) : Code := imm ++ rd ++ op
def r5 (r : Fin 32) : BitVec 5 := BitVec.ofFin r
def hi7 (imm : BitVec 12) : BitVec 7 := imm.extractLsb' 5 7
def lo5 (imm : BitVec 12) : BitVec 5 := imm.extractLsb' 0 5
/-- Bits 31:25 of a B format word: offset bits 12 and 10:5; imm holds bits 12:1. -/
def bHi (imm : BitVec 12) : BitVec 7 := imm.extractLsb' 11 1 ++ imm.extractLsb' 4 6
/-- Bits 11:7 of a B format word: offset bits 4:1 and 11. -/
def bLo (imm : BitVec 12) : BitVec 5 := imm.extractLsb' 0 4 ++ imm.extractLsb' 10 1
/-- Bits 31:12 of a J format word: offset bits 20, 10:1, 11, 19:12; imm holds bits 20:1. -/
def jBits (imm : BitVec 20) : BitVec 20 :=
  imm.extractLsb' 19 1 ++ imm.extractLsb' 0 10 ++ imm.extractLsb' 10 1 ++ imm.extractLsb' 11 8
def fcondBits : FCond → BitVec 2
  | .eq => 0 | .ne => 1 | .lt => 2 | .le => 3
def icondNum : ICond → Nat
  | .eq => 0 | .ne => 1 | .lt => 2 | .le => 3 | .ltu => 4 | .leu => 5
def cvtNum : CvtKind → Nat
  | .toi32 => 0 | .fromi32 => 1 | .tobf16 => 2 | .frombf16 => 3 | .toe4m3 => 4 | .frome4m3 => 5 | .toe5m2 => 6 | .frome5m2 => 7

/-- The unprefixed instruction a follower is. -/
def plainOf : Follower → Instr
  | .load .lb rd rs1 imm => .lb rd rs1 imm
  | .load .lh rd rs1 imm => .lh rd rs1 imm
  | .load .lw rd rs1 imm => .lw rd rs1 imm
  | .load .ld rd rs1 imm => .ld rd rs1 imm
  | .load .lbu rd rs1 imm => .lbu rd rs1 imm
  | .load .lhu rd rs1 imm => .lhu rd rs1 imm
  | .load .lwu rd rs1 imm => .lwu rd rs1 imm
  | .store .sb rs2 rs1 imm => .sb rs2 rs1 imm
  | .store .sh rs2 rs1 imm => .sh rs2 rs1 imm
  | .store .sw rs2 rs1 imm => .sw rs2 rs1 imm
  | .store .sd rs2 rs1 imm => .sd rs2 rs1 imm
  | .opImm .addi rd rs1 imm => .addi rd rs1 imm
  | .opImm .slti rd rs1 imm => .slti rd rs1 imm
  | .opImm .sltiu rd rs1 imm => .sltiu rd rs1 imm
  | .opImm .xori rd rs1 imm => .xori rd rs1 imm
  | .opImm .ori rd rs1 imm => .ori rd rs1 imm
  | .opImm .andi rd rs1 imm => .andi rd rs1 imm
  | .opImm .addiw rd rs1 imm => .addiw rd rs1 imm
  | .jalr rd rs1 imm => .jalr rd rs1 imm
  | .vld vd rs1 imm => .vld vd rs1 imm
  | .vst vs rs1 imm => .vst vs rs1 imm

/-- The words of an unprefixed instruction; none for a step without a word. -/
def encodeOne : Instr → List Code
  | .lui rd imm => [encU imm (r5 rd) 0x37#7]
  | .auipc rd imm => [encU imm (r5 rd) 0x17#7]
  | .jal rd imm => [encU (jBits imm) (r5 rd) 0x6f#7]
  | .jalr rd rs1 imm => [enc (hi7 imm) (lo5 imm) (r5 rs1) 0#3 (r5 rd) 0x67#7]
  | .beq rs1 rs2 imm => [enc (bHi imm) (r5 rs2) (r5 rs1) 0#3 (bLo imm) 0x63#7]
  | .bne rs1 rs2 imm => [enc (bHi imm) (r5 rs2) (r5 rs1) 1#3 (bLo imm) 0x63#7]
  | .blt rs1 rs2 imm => [enc (bHi imm) (r5 rs2) (r5 rs1) 4#3 (bLo imm) 0x63#7]
  | .bge rs1 rs2 imm => [enc (bHi imm) (r5 rs2) (r5 rs1) 5#3 (bLo imm) 0x63#7]
  | .bltu rs1 rs2 imm => [enc (bHi imm) (r5 rs2) (r5 rs1) 6#3 (bLo imm) 0x63#7]
  | .bgeu rs1 rs2 imm => [enc (bHi imm) (r5 rs2) (r5 rs1) 7#3 (bLo imm) 0x63#7]
  | .lb rd rs1 imm => [enc (hi7 imm) (lo5 imm) (r5 rs1) 0#3 (r5 rd) 0x3#7]
  | .lh rd rs1 imm => [enc (hi7 imm) (lo5 imm) (r5 rs1) 1#3 (r5 rd) 0x3#7]
  | .lw rd rs1 imm => [enc (hi7 imm) (lo5 imm) (r5 rs1) 2#3 (r5 rd) 0x3#7]
  | .ld rd rs1 imm => [enc (hi7 imm) (lo5 imm) (r5 rs1) 3#3 (r5 rd) 0x3#7]
  | .lbu rd rs1 imm => [enc (hi7 imm) (lo5 imm) (r5 rs1) 4#3 (r5 rd) 0x3#7]
  | .lhu rd rs1 imm => [enc (hi7 imm) (lo5 imm) (r5 rs1) 5#3 (r5 rd) 0x3#7]
  | .lwu rd rs1 imm => [enc (hi7 imm) (lo5 imm) (r5 rs1) 6#3 (r5 rd) 0x3#7]
  | .sb rs2 rs1 imm => [enc (hi7 imm) (r5 rs2) (r5 rs1) 0#3 (lo5 imm) 0x23#7]
  | .sh rs2 rs1 imm => [enc (hi7 imm) (r5 rs2) (r5 rs1) 1#3 (lo5 imm) 0x23#7]
  | .sw rs2 rs1 imm => [enc (hi7 imm) (r5 rs2) (r5 rs1) 2#3 (lo5 imm) 0x23#7]
  | .sd rs2 rs1 imm => [enc (hi7 imm) (r5 rs2) (r5 rs1) 3#3 (lo5 imm) 0x23#7]
  | .addi rd rs1 imm => [enc (hi7 imm) (lo5 imm) (r5 rs1) 0#3 (r5 rd) 0x13#7]
  | .slti rd rs1 imm => [enc (hi7 imm) (lo5 imm) (r5 rs1) 2#3 (r5 rd) 0x13#7]
  | .sltiu rd rs1 imm => [enc (hi7 imm) (lo5 imm) (r5 rs1) 3#3 (r5 rd) 0x13#7]
  | .xori rd rs1 imm => [enc (hi7 imm) (lo5 imm) (r5 rs1) 4#3 (r5 rd) 0x13#7]
  | .ori rd rs1 imm => [enc (hi7 imm) (lo5 imm) (r5 rs1) 6#3 (r5 rd) 0x13#7]
  | .andi rd rs1 imm => [enc (hi7 imm) (lo5 imm) (r5 rs1) 7#3 (r5 rd) 0x13#7]
  | .slli rd rs1 sh => [enc (0#6 ++ sh.extractLsb' 5 1) (sh.extractLsb' 0 5) (r5 rs1) 1#3 (r5 rd) 0x13#7]
  | .srli rd rs1 sh => [enc (0#6 ++ sh.extractLsb' 5 1) (sh.extractLsb' 0 5) (r5 rs1) 5#3 (r5 rd) 0x13#7]
  | .srai rd rs1 sh => [enc (16#6 ++ sh.extractLsb' 5 1) (sh.extractLsb' 0 5) (r5 rs1) 5#3 (r5 rd) 0x13#7]
  | .add rd rs1 rs2 => [enc 0#7 (r5 rs2) (r5 rs1) 0#3 (r5 rd) 0x33#7]
  | .sub rd rs1 rs2 => [enc 32#7 (r5 rs2) (r5 rs1) 0#3 (r5 rd) 0x33#7]
  | .sll rd rs1 rs2 => [enc 0#7 (r5 rs2) (r5 rs1) 1#3 (r5 rd) 0x33#7]
  | .slt rd rs1 rs2 => [enc 0#7 (r5 rs2) (r5 rs1) 2#3 (r5 rd) 0x33#7]
  | .sltu rd rs1 rs2 => [enc 0#7 (r5 rs2) (r5 rs1) 3#3 (r5 rd) 0x33#7]
  | .xor rd rs1 rs2 => [enc 0#7 (r5 rs2) (r5 rs1) 4#3 (r5 rd) 0x33#7]
  | .srl rd rs1 rs2 => [enc 0#7 (r5 rs2) (r5 rs1) 5#3 (r5 rd) 0x33#7]
  | .sra rd rs1 rs2 => [enc 32#7 (r5 rs2) (r5 rs1) 5#3 (r5 rd) 0x33#7]
  | .or rd rs1 rs2 => [enc 0#7 (r5 rs2) (r5 rs1) 6#3 (r5 rd) 0x33#7]
  | .and rd rs1 rs2 => [enc 0#7 (r5 rs2) (r5 rs1) 7#3 (r5 rd) 0x33#7]
  | .addiw rd rs1 imm => [enc (hi7 imm) (lo5 imm) (r5 rs1) 0#3 (r5 rd) 0x1b#7]
  | .slliw rd rs1 sh => [enc 0#7 sh (r5 rs1) 1#3 (r5 rd) 0x1b#7]
  | .srliw rd rs1 sh => [enc 0#7 sh (r5 rs1) 5#3 (r5 rd) 0x1b#7]
  | .sraiw rd rs1 sh => [enc 32#7 sh (r5 rs1) 5#3 (r5 rd) 0x1b#7]
  | .addw rd rs1 rs2 => [enc 0#7 (r5 rs2) (r5 rs1) 0#3 (r5 rd) 0x3b#7]
  | .subw rd rs1 rs2 => [enc 32#7 (r5 rs2) (r5 rs1) 0#3 (r5 rd) 0x3b#7]
  | .sllw rd rs1 rs2 => [enc 0#7 (r5 rs2) (r5 rs1) 1#3 (r5 rd) 0x3b#7]
  | .srlw rd rs1 rs2 => [enc 0#7 (r5 rs2) (r5 rs1) 5#3 (r5 rd) 0x3b#7]
  | .sraw rd rs1 rs2 => [enc 32#7 (r5 rs2) (r5 rs1) 5#3 (r5 rd) 0x3b#7]
  | .fence p s => [enc (0#4 ++ p.extractLsb' 1 3) (p.extractLsb' 0 1 ++ s) 0#5 0#3 0#5 0xf#7]
  | .ecall => [enc 0#7 0#5 0#5 0#3 0#5 0x73#7]
  | .ebreak => [enc 0#7 1#5 0#5 0#3 0#5 0x73#7]
  | .mul rd rs1 rs2 => [enc 1#7 (r5 rs2) (r5 rs1) 0#3 (r5 rd) 0x33#7]
  | .mulh rd rs1 rs2 => [enc 1#7 (r5 rs2) (r5 rs1) 1#3 (r5 rd) 0x33#7]
  | .mulhsu rd rs1 rs2 => [enc 1#7 (r5 rs2) (r5 rs1) 2#3 (r5 rd) 0x33#7]
  | .mulhu rd rs1 rs2 => [enc 1#7 (r5 rs2) (r5 rs1) 3#3 (r5 rd) 0x33#7]
  | .div rd rs1 rs2 => [enc 1#7 (r5 rs2) (r5 rs1) 4#3 (r5 rd) 0x33#7]
  | .divu rd rs1 rs2 => [enc 1#7 (r5 rs2) (r5 rs1) 5#3 (r5 rd) 0x33#7]
  | .rem rd rs1 rs2 => [enc 1#7 (r5 rs2) (r5 rs1) 6#3 (r5 rd) 0x33#7]
  | .remu rd rs1 rs2 => [enc 1#7 (r5 rs2) (r5 rs1) 7#3 (r5 rd) 0x33#7]
  | .mulw rd rs1 rs2 => [enc 1#7 (r5 rs2) (r5 rs1) 0#3 (r5 rd) 0x3b#7]
  | .divw rd rs1 rs2 => [enc 1#7 (r5 rs2) (r5 rs1) 4#3 (r5 rd) 0x3b#7]
  | .divuw rd rs1 rs2 => [enc 1#7 (r5 rs2) (r5 rs1) 5#3 (r5 rd) 0x3b#7]
  | .remw rd rs1 rs2 => [enc 1#7 (r5 rs2) (r5 rs1) 6#3 (r5 rd) 0x3b#7]
  | .remuw rd rs1 rs2 => [enc 1#7 (r5 rs2) (r5 rs1) 7#3 (r5 rd) 0x3b#7]
  | .csrrw rd rs1 csr => [enc (hi7 csr) (lo5 csr) (r5 rs1) 1#3 (r5 rd) 0x73#7]
  | .csrrs rd rs1 csr => [enc (hi7 csr) (lo5 csr) (r5 rs1) 2#3 (r5 rd) 0x73#7]
  | .csrrc rd rs1 csr => [enc (hi7 csr) (lo5 csr) (r5 rs1) 3#3 (r5 rd) 0x73#7]
  | .csrrwi rd uimm csr => [enc (hi7 csr) (lo5 csr) uimm 5#3 (r5 rd) 0x73#7]
  | .csrrsi rd uimm csr => [enc (hi7 csr) (lo5 csr) uimm 6#3 (r5 rd) 0x73#7]
  | .csrrci rd uimm csr => [enc (hi7 csr) (lo5 csr) uimm 7#3 (r5 rd) 0x73#7]
  | .sh1add rd rs1 rs2 => [enc 16#7 (r5 rs2) (r5 rs1) 2#3 (r5 rd) 0x33#7]
  | .sh2add rd rs1 rs2 => [enc 16#7 (r5 rs2) (r5 rs1) 4#3 (r5 rd) 0x33#7]
  | .sh3add rd rs1 rs2 => [enc 16#7 (r5 rs2) (r5 rs1) 6#3 (r5 rd) 0x33#7]
  | .addUw rd rs1 rs2 => [enc 4#7 (r5 rs2) (r5 rs1) 0#3 (r5 rd) 0x3b#7]
  | .sh1addUw rd rs1 rs2 => [enc 16#7 (r5 rs2) (r5 rs1) 2#3 (r5 rd) 0x3b#7]
  | .sh2addUw rd rs1 rs2 => [enc 16#7 (r5 rs2) (r5 rs1) 4#3 (r5 rd) 0x3b#7]
  | .sh3addUw rd rs1 rs2 => [enc 16#7 (r5 rs2) (r5 rs1) 6#3 (r5 rd) 0x3b#7]
  | .slliUw rd rs1 sh => [enc (2#6 ++ sh.extractLsb' 5 1) (sh.extractLsb' 0 5) (r5 rs1) 1#3 (r5 rd) 0x1b#7]
  | .fin => [enc 0#7 0#5 0#5 0#3 0#5 0xb#7]
  | .widf rd k => [enc 1#7 0#5 (BitVec.ofNat 5 k.val) 0#3 (r5 rd) 0xb#7]
  | .grow rd rs1 => [enc 2#7 0#5 (r5 rs1) 0#3 (r5 rd) 0xb#7]
  | .launch rd rs1 => [enc 3#7 0#5 (r5 rs1) 0#3 (r5 rd) 0xb#7]
  | .wfe rs1 => [enc 4#7 0#5 (r5 rs1) 0#3 0#5 0xb#7]
  | .lpclr n => [enc 5#7 0#5 0#5 0#3 (0#4 ++ BitVec.ofNat 1 n.val) 0xb#7]
  | .tret => [enc 8#7 0#5 0#5 0#3 0#5 0xb#7]
  | .kill rd rs1 => [enc 9#7 0#5 (r5 rs1) 0#3 (r5 rd) 0xb#7]
  | .placew rd rs1 rs2 => [enc 10#7 (r5 rs2) (r5 rs1) 0#3 (r5 rd) 0xb#7]
  | .qwaitF q rs1 => [enc 0#7 (0#1 ++ BitVec.ofNat 4 q.val) (r5 rs1) 1#3 0#5 0xb#7]
  | .qwaitE q rs1 => [enc 1#7 (0#1 ++ BitVec.ofNat 4 q.val) (r5 rs1) 1#3 0#5 0xb#7]
  | .qadvC q rs1 => [enc 2#7 (0#1 ++ BitVec.ofNat 4 q.val) (r5 rs1) 1#3 0#5 0xb#7]
  | .qadvP q rs1 => [enc 3#7 (0#1 ++ BitVec.ofNat 4 q.val) (r5 rs1) 1#3 0#5 0xb#7]
  | .qcnt rd q => [enc 4#7 (0#1 ++ BitVec.ofNat 4 q.val) 0#5 1#3 (r5 rd) 0xb#7]
  | .qslot rd q rs1 => [enc 5#7 (0#1 ++ BitVec.ofNat 4 q.val) (r5 rs1) 1#3 (r5 rd) 0xb#7]
  | .lpset n rs1 imm => [enc (hi7 imm) (lo5 imm) (r5 rs1) 2#3 (0#4 ++ BitVec.ofNat 1 n.val) 0xb#7]
  | .lpseti n rs1 imm => [enc (hi7 imm) (lo5 imm) (r5 rs1) 4#3 (0#4 ++ BitVec.ofNat 1 n.val) 0xb#7]
  | .send rs1 rs2 => [enc 0#7 (r5 rs2) (r5 rs1) 5#3 0#5 0xb#7]
  | .sendR rd rs1 rs2 => [enc 1#7 (r5 rs2) (r5 rs1) 5#3 (r5 rd) 0xb#7]
  | .sendnb rd rs1 rs2 => [enc 2#7 (r5 rs2) (r5 rs1) 5#3 (r5 rd) 0xb#7]
  | .rcall rd rs1 rs2 => [enc 3#7 (r5 rs2) (r5 rs1) 5#3 (r5 rd) 0xb#7]
  | .reply => [enc 4#7 0#5 0#5 5#3 0#5 0xb#7]
  | .rwait rd rs1 => [enc 5#7 0#5 (r5 rs1) 5#3 (r5 rd) 0xb#7]
  | .rpoll rd rs1 => [enc 6#7 0#5 (r5 rs1) 5#3 (r5 rd) 0xb#7]
  | .semwait i rs1 => [enc ((0#6 ++ (BitVec.ofNat 6 i.val).extractLsb' 5 1)) ((BitVec.ofNat 6 i.val).extractLsb' 0 5) (r5 rs1) 6#3 0#5 0xb#7]
  | .semadd i rs1 => [enc ((1#6 ++ (BitVec.ofNat 6 i.val).extractLsb' 5 1)) ((BitVec.ofNat 6 i.val).extractLsb' 0 5) (r5 rs1) 6#3 0#5 0xb#7]
  | .semset i rs1 => [enc ((2#6 ++ (BitVec.ofNat 6 i.val).extractLsb' 5 1)) ((BitVec.ofNat 6 i.val).extractLsb' 0 5) (r5 rs1) 6#3 0#5 0xb#7]
  | .semrd rd i => [enc ((3#6 ++ (BitVec.ofNat 6 i.val).extractLsb' 5 1)) ((BitVec.ofNat 6 i.val).extractLsb' 0 5) 0#5 6#3 (r5 rd) 0xb#7]
  | .bardecl i rs1 => [enc ((4#6 ++ (BitVec.ofNat 6 i.val).extractLsb' 5 1)) ((BitVec.ofNat 6 i.val).extractLsb' 0 5) (r5 rs1) 6#3 0#5 0xb#7]
  | .barwait i => [enc ((5#6 ++ (BitVec.ofNat 6 i.val).extractLsb' 5 1)) ((BitVec.ofNat 6 i.val).extractLsb' 0 5) 0#5 6#3 0#5 0xb#7]
  | .chkwait i rs1 => [enc ((6#6 ++ (BitVec.ofNat 6 i.val).extractLsb' 5 1)) ((BitVec.ofNat 6 i.val).extractLsb' 0 5) (r5 rs1) 6#3 0#5 0xb#7]
  | .chktest rd i rs1 => [enc ((7#6 ++ (BitVec.ofNat 6 i.val).extractLsb' 5 1)) ((BitVec.ofNat 6 i.val).extractLsb' 0 5) (r5 rs1) 6#3 (r5 rd) 0xb#7]
  | .ecmd rd rs1 => [enc 0#7 0#5 (r5 rs1) 7#3 (r5 rd) 0xb#7]
  | .eseq rd rs1 => [enc 1#7 0#5 (r5 rs1) 7#3 (r5 rd) 0xb#7]
  | .acqX rd rs1 => [enc 0#7 0#5 (r5 rs1) 0#3 (r5 rd) 0x2b#7]
  | .acqS rd rs1 => [enc 1#7 0#5 (r5 rs1) 0#3 (r5 rd) 0x2b#7]
  | .acqw rd rs2 rs1 => [enc 2#7 (r5 rs2) (r5 rs1) 0#3 (r5 rd) 0x2b#7]
  | .rel rs1 => [enc 3#7 0#5 (r5 rs1) 0#3 0#5 0x2b#7]
  | .relv rs2 rs1 => [enc 4#7 (r5 rs2) (r5 rs1) 0#3 0#5 0x2b#7]
  | .bind rs1 rs2 => [enc 5#7 (r5 rs2) (r5 rs1) 0#3 0#5 0x2b#7]
  | .unbind rs1 rs2 => [enc 6#7 (r5 rs2) (r5 rs1) 0#3 0#5 0x2b#7]
  | .fenceG => [enc 0#7 0#5 0#5 1#3 0#5 0x2b#7]
  | .fenceB rs1 => [enc 1#7 0#5 (r5 rs1) 1#3 0#5 0x2b#7]
  | .fenceE => [enc 2#7 0#5 0#5 1#3 0#5 0x2b#7]
  | .fenceJ => [enc 3#7 0#5 0#5 1#3 0#5 0x2b#7]
  | .amoaddW rd rs2 rs1 => [enc 0#7 (r5 rs2) (r5 rs1) 2#3 (r5 rd) 0x2b#7]
  | .amoaddWP rs2 rs1 => [enc 4#7 (r5 rs2) (r5 rs1) 2#3 0#5 0x2b#7]
  | .amoaddD rd rs2 rs1 => [enc 0#7 (r5 rs2) (r5 rs1) 3#3 (r5 rd) 0x2b#7]
  | .amoaddDP rs2 rs1 => [enc 4#7 (r5 rs2) (r5 rs1) 3#3 0#5 0x2b#7]
  | .amoandW rd rs2 rs1 => [enc 8#7 (r5 rs2) (r5 rs1) 2#3 (r5 rd) 0x2b#7]
  | .amoandWP rs2 rs1 => [enc 12#7 (r5 rs2) (r5 rs1) 2#3 0#5 0x2b#7]
  | .amoandD rd rs2 rs1 => [enc 8#7 (r5 rs2) (r5 rs1) 3#3 (r5 rd) 0x2b#7]
  | .amoandDP rs2 rs1 => [enc 12#7 (r5 rs2) (r5 rs1) 3#3 0#5 0x2b#7]
  | .amoorW rd rs2 rs1 => [enc 16#7 (r5 rs2) (r5 rs1) 2#3 (r5 rd) 0x2b#7]
  | .amoorWP rs2 rs1 => [enc 20#7 (r5 rs2) (r5 rs1) 2#3 0#5 0x2b#7]
  | .amoorD rd rs2 rs1 => [enc 16#7 (r5 rs2) (r5 rs1) 3#3 (r5 rd) 0x2b#7]
  | .amoorDP rs2 rs1 => [enc 20#7 (r5 rs2) (r5 rs1) 3#3 0#5 0x2b#7]
  | .amoxorW rd rs2 rs1 => [enc 24#7 (r5 rs2) (r5 rs1) 2#3 (r5 rd) 0x2b#7]
  | .amoxorWP rs2 rs1 => [enc 28#7 (r5 rs2) (r5 rs1) 2#3 0#5 0x2b#7]
  | .amoxorD rd rs2 rs1 => [enc 24#7 (r5 rs2) (r5 rs1) 3#3 (r5 rd) 0x2b#7]
  | .amoxorDP rs2 rs1 => [enc 28#7 (r5 rs2) (r5 rs1) 3#3 0#5 0x2b#7]
  | .amominW rd rs2 rs1 => [enc 32#7 (r5 rs2) (r5 rs1) 2#3 (r5 rd) 0x2b#7]
  | .amominWP rs2 rs1 => [enc 36#7 (r5 rs2) (r5 rs1) 2#3 0#5 0x2b#7]
  | .amominD rd rs2 rs1 => [enc 32#7 (r5 rs2) (r5 rs1) 3#3 (r5 rd) 0x2b#7]
  | .amominDP rs2 rs1 => [enc 36#7 (r5 rs2) (r5 rs1) 3#3 0#5 0x2b#7]
  | .amomaxW rd rs2 rs1 => [enc 40#7 (r5 rs2) (r5 rs1) 2#3 (r5 rd) 0x2b#7]
  | .amomaxWP rs2 rs1 => [enc 44#7 (r5 rs2) (r5 rs1) 2#3 0#5 0x2b#7]
  | .amomaxD rd rs2 rs1 => [enc 40#7 (r5 rs2) (r5 rs1) 3#3 (r5 rd) 0x2b#7]
  | .amomaxDP rs2 rs1 => [enc 44#7 (r5 rs2) (r5 rs1) 3#3 0#5 0x2b#7]
  | .amominuW rd rs2 rs1 => [enc 48#7 (r5 rs2) (r5 rs1) 2#3 (r5 rd) 0x2b#7]
  | .amominuWP rs2 rs1 => [enc 52#7 (r5 rs2) (r5 rs1) 2#3 0#5 0x2b#7]
  | .amominuD rd rs2 rs1 => [enc 48#7 (r5 rs2) (r5 rs1) 3#3 (r5 rd) 0x2b#7]
  | .amominuDP rs2 rs1 => [enc 52#7 (r5 rs2) (r5 rs1) 3#3 0#5 0x2b#7]
  | .amomaxuW rd rs2 rs1 => [enc 56#7 (r5 rs2) (r5 rs1) 2#3 (r5 rd) 0x2b#7]
  | .amomaxuWP rs2 rs1 => [enc 60#7 (r5 rs2) (r5 rs1) 2#3 0#5 0x2b#7]
  | .amomaxuD rd rs2 rs1 => [enc 56#7 (r5 rs2) (r5 rs1) 3#3 (r5 rd) 0x2b#7]
  | .amomaxuDP rs2 rs1 => [enc 60#7 (r5 rs2) (r5 rs1) 3#3 0#5 0x2b#7]
  | .amoswapW rd rs2 rs1 => [enc 64#7 (r5 rs2) (r5 rs1) 2#3 (r5 rd) 0x2b#7]
  | .amoswapWP rs2 rs1 => [enc 68#7 (r5 rs2) (r5 rs1) 2#3 0#5 0x2b#7]
  | .amoswapD rd rs2 rs1 => [enc 64#7 (r5 rs2) (r5 rs1) 3#3 (r5 rd) 0x2b#7]
  | .amoswapDP rs2 rs1 => [enc 68#7 (r5 rs2) (r5 rs1) 3#3 0#5 0x2b#7]
  | .amocasW rd rs2 rs3 rs1 => [enc (r5 rs3 ++ 0#2) (r5 rs2) (r5 rs1) 4#3 (r5 rd) 0x2b#7]
  | .amocasD rd rs2 rs3 rs1 => [enc (r5 rs3 ++ 1#2) (r5 rs2) (r5 rs1) 4#3 (r5 rd) 0x2b#7]
  | .amofaddS rd rs2 rs1 => [enc 0#7 (r5 rs2) (r5 rs1) 5#3 (r5 rd) 0x2b#7]
  | .amofaddBh rd rs2 rs1 => [enc 1#7 (r5 rs2) (r5 rs1) 5#3 (r5 rd) 0x2b#7]
  | .amofmaxS rd rs2 rs1 => [enc 2#7 (r5 rs2) (r5 rs1) 5#3 (r5 rd) 0x2b#7]
  | .swldC rd rs1 => [enc 0#7 0#5 (r5 rs1) 6#3 (r5 rd) 0x2b#7]
  | .swldV rd rs1 => [enc 1#7 0#5 (r5 rs1) 6#3 (r5 rd) 0x2b#7]
  | .swst rs2 rs1 => [enc 2#7 (r5 rs2) (r5 rs1) 6#3 0#5 0x2b#7]
  | .swadd rd rs2 rs1 => [enc 3#7 (r5 rs2) (r5 rs1) 6#3 (r5 rd) 0x2b#7]
  | .swarm rd rs2 rs1 => [enc 4#7 (r5 rs2) (r5 rs1) 6#3 (r5 rd) 0x2b#7]
  | .swdis rs1 => [enc 5#7 0#5 (r5 rs1) 6#3 0#5 0x2b#7]
  | .swraw rd rs2 rs1 => [enc 6#7 (r5 rs2) (r5 rs1) 6#3 (r5 rd) 0x2b#7]
  | .bmode rd rs2 rs1 => [enc 0#7 (r5 rs2) (r5 rs1) 7#3 (r5 rd) 0x2b#7]
  | .bcast rs2 rs1 => [enc 1#7 (r5 rs2) (r5 rs1) 7#3 0#5 0x2b#7]
  | .bmv rd rs2 rs1 => [enc 2#7 (r5 rs2) (r5 rs1) 7#3 (r5 rd) 0x2b#7]
  | .bexpr rd rs2 rs1 => [enc 3#7 (r5 rs2) (r5 rs1) 7#3 (r5 rd) 0x2b#7]
  | .bget rs2 rs1 => [enc 4#7 (r5 rs2) (r5 rs1) 7#3 0#5 0x2b#7]
  | .bstat rd rs1 => [enc 5#7 0#5 (r5 rs1) 7#3 (r5 rd) 0x2b#7]
  | .mma acc rs1 rs2 rs3 => [enc (r5 rs3 ++ 0#2) (r5 rs2) (r5 rs1) 0#3 (BitVec.ofNat 5 acc.val) 0x5b#7]
  | .wld n rs1 rs2 => [enc 0#7 (r5 rs2) (r5 rs1) 1#3 (r5 n) 0x5b#7]
  | .accz acc => [enc 1#7 0#5 0#5 1#3 (BitVec.ofNat 5 acc.val) 0x5b#7]
  | .accrd vd acc rs1 => [enc 2#7 (BitVec.ofNat 5 acc.val) (r5 rs1) 1#3 (r5 vd) 0x5b#7]
  | .accwr acc vs rs1 => [enc 3#7 (r5 vs) (r5 rs1) 1#3 (BitVec.ofNat 5 acc.val) 0x5b#7]
  | .accst acc rs1 => [enc 4#7 (BitVec.ofNat 5 acc.val) (r5 rs1) 1#3 0#5 0x5b#7]
  | .mstat rd => [enc 5#7 0#5 0#5 1#3 (r5 rd) 0x5b#7]
  | .vfadd vd va vb => [enc 0#7 (r5 vb) (r5 va) 0#3 (r5 vd) 0x7b#7]
  | .vfsub vd va vb => [enc 1#7 (r5 vb) (r5 va) 0#3 (r5 vd) 0x7b#7]
  | .vfmul vd va vb => [enc 2#7 (r5 vb) (r5 va) 0#3 (r5 vd) 0x7b#7]
  | .vfmax vd va vb => [enc 3#7 (r5 vb) (r5 va) 0#3 (r5 vd) 0x7b#7]
  | .vfmin vd va vb => [enc 4#7 (r5 vb) (r5 va) 0#3 (r5 vd) 0x7b#7]
  | .vfabs vd va => [enc 5#7 0#5 (r5 va) 0#3 (r5 vd) 0x7b#7]
  | .vfneg vd va => [enc 6#7 0#5 (r5 va) 0#3 (r5 vd) 0x7b#7]
  | .vfcmp cond vd va vb => [enc (2#5 ++ fcondBits cond) (r5 vb) (r5 va) 0#3 (r5 vd) 0x7b#7]
  | .viadd vd va vb => [enc 0#7 (r5 vb) (r5 va) 1#3 (r5 vd) 0x7b#7]
  | .visub vd va vb => [enc 1#7 (r5 vb) (r5 va) 1#3 (r5 vd) 0x7b#7]
  | .vimul vd va vb => [enc 2#7 (r5 vb) (r5 va) 1#3 (r5 vd) 0x7b#7]
  | .vand vd va vb => [enc 3#7 (r5 vb) (r5 va) 1#3 (r5 vd) 0x7b#7]
  | .vor vd va vb => [enc 4#7 (r5 vb) (r5 va) 1#3 (r5 vd) 0x7b#7]
  | .vxor vd va vb => [enc 5#7 (r5 vb) (r5 va) 1#3 (r5 vd) 0x7b#7]
  | .vsll vd va vb => [enc 6#7 (r5 vb) (r5 va) 1#3 (r5 vd) 0x7b#7]
  | .vsrl vd va vb => [enc 7#7 (r5 vb) (r5 va) 1#3 (r5 vd) 0x7b#7]
  | .vsra vd va vb => [enc 8#7 (r5 vb) (r5 va) 1#3 (r5 vd) 0x7b#7]
  | .vimin vd va vb => [enc 9#7 (r5 vb) (r5 va) 1#3 (r5 vd) 0x7b#7]
  | .vimax vd va vb => [enc 10#7 (r5 vb) (r5 va) 1#3 (r5 vd) 0x7b#7]
  | .vicmp cond vd va vb => [enc (BitVec.ofNat 7 (0x10 + icondNum cond)) (r5 vb) (r5 va) 1#3 (r5 vd) 0x7b#7]
  | .vexp2 vd va => [enc 0#7 0#5 (r5 va) 2#3 (r5 vd) 0x7b#7]
  | .vrcp vd va => [enc 1#7 0#5 (r5 va) 2#3 (r5 vd) 0x7b#7]
  | .vrsq vd va => [enc 2#7 0#5 (r5 va) 2#3 (r5 vd) 0x7b#7]
  | .vlog2 vd va => [enc 3#7 0#5 (r5 va) 2#3 (r5 vd) 0x7b#7]
  | .vcvt kind vd va => [enc 4#7 (BitVec.ofNat 5 (cvtNum kind)) (r5 va) 2#3 (r5 vd) 0x7b#7]
  | .vfsum vd va => [enc 8#7 0#5 (r5 va) 2#3 (r5 vd) 0x7b#7]
  | .vfmaxr vd va => [enc 9#7 0#5 (r5 va) 2#3 (r5 vd) 0x7b#7]
  | .visum vd va => [enc 10#7 0#5 (r5 va) 2#3 (r5 vd) 0x7b#7]
  | .vperm vd va vb => [enc 16#7 (r5 vb) (r5 va) 2#3 (r5 vd) 0x7b#7]
  | .vbcast vd rs1 => [enc 17#7 0#5 (r5 rs1) 2#3 (r5 vd) 0x7b#7]
  | .vmvx rd va lane => [enc 18#7 (r5 lane) (r5 va) 2#3 (r5 rd) 0x7b#7]
  | .vmvv vd va => [enc 19#7 0#5 (r5 va) 2#3 (r5 vd) 0x7b#7]
  | .vslide vd va amt => [enc 20#7 amt (r5 va) 2#3 (r5 vd) 0x7b#7]
  | .vlds vd rs1 rs2 => [enc 0#7 (r5 rs2) (r5 rs1) 3#3 (r5 vd) 0x7b#7]
  | .vsts vs rs1 rs2 => [enc 1#7 (r5 rs2) (r5 rs1) 3#3 (r5 vs) 0x7b#7]
  | .vldx vd rs1 vb => [enc 2#7 (r5 vb) (r5 rs1) 3#3 (r5 vd) 0x7b#7]
  | .vld vd rs1 imm => [enc (hi7 imm) (lo5 imm) (r5 rs1) 4#3 (r5 vd) 0x7b#7]
  | .vst vs rs1 imm => [enc (hi7 imm) (r5 vs) (r5 rs1) 5#3 (lo5 imm) 0x7b#7]
  | .vfma vd va vb vc => [enc (r5 vc ++ 0#2) (r5 vb) (r5 va) 6#3 (r5 vd) 0x7b#7]
  | .vfms vd va vb vc => [enc (r5 vc ++ 1#2) (r5 vb) (r5 va) 6#3 (r5 vd) 0x7b#7]
  | .vsel vd va vb vc => [enc (r5 vc ++ 2#2) (r5 vb) (r5 va) 6#3 (r5 vd) 0x7b#7]
  | .vrec vd va vb vc => [enc (r5 vc ++ 3#2) (r5 vb) (r5 va) 6#3 (r5 vd) 0x7b#7]
  | .illegalWord w => [w]
  | _ => []

/-- An AT word (R59). -/
def encAt (r : Reg) : Code := enc 0#7 0#5 (r5 r) 3#3 0#5 0x0B#7
/-- An EXT word (R59). -/
def encExt (e : BitVec 20) : Code := e.extractLsb' 3 17 ++ 3#3 ++ e.extractLsb' 0 3 ++ 1#2 ++ 0x0B#7
/-- The words of a follower. -/
def encFollower (f : Follower) : List Code := encodeOne (plainOf f)
/-- The words of a tail. -/
def encTail : Tail → List Code
  | .one f => encFollower f
  | .viaAt r f => encAt r :: encFollower f
  | .viaExt e f => encExt e :: encFollower f
  | .bad w => [w]
  | .badAt r w => [encAt r, w]
  | .badExt e w => [encExt e, w]

/-- The words of an instruction, none for a step without a word. -/
def encode : Instr → List Code
  | .atPfx r t => encAt r :: encTail t
  | .extPfx e t => encExt e :: encTail t
  | i => encodeOne i

/-- The bytes of an instruction, as memory holds them. -/
def encodeBytes (i : Instr) : List Byte := (encode i).flatMap bytesOfWord
/-- The first word of an instruction, for tinst (R106). -/
def firstWord (i : Instr) : Code := (encode i).headD 0

/-- What the decoder reads from the bits w of an instruction, numbered from the least significant bit of its first word; the bits above
nbits are zero. -/
def decodeTableWord (nbits w : Nat) : Option Instr :=
  let v := w % 2 ^ nbits
  let bs := bytesOfWord (BitVec.ofNat 32 v) ++ bytesOfWord (BitVec.ofNat 32 (v / 2 ^ 32)) ++ bytesOfWord (BitVec.ofNat 32 (v / 2 ^ 64))
  match decode bs with
  | .ok (i, _) => some i
  | .error _ => none

end Sys2Proof
end

