-- ==== Sys2Proof/Machine/SMap.lean ====
section
/-! DEFINITION. Sparse data by number: a list of (key, value) pairs in one canonical form. Keys rise strictly, and no entry equals what
an unlisted key reads as. `d` says what an unlisted key reads as; it is never stored. -/

namespace Sys2Proof.Machine

/-- Sparse data by number. -/
abbrev SMap (α : Type) := List (Nat × α)

/-- The value at key `k`. -/
def look {α : Type} (d : Nat → α) : SMap α → Nat → α
  | [], k => d k
  | (j, v) :: m, k => if j = k then v else look d m k

/-- `m` with no entry at key `k`. -/
def without {α : Type} (m : SMap α) (k : Nat) : SMap α :=
  match m with
  | [] => []
  | (j, w) :: m => if j = k then without m k else (j, w) :: without m k

/-- `m` with the value at key `k` set to `v`, in canonical form; whatever the list's form, the value is read back and no other changes. -/
def put {α : Type} [DecidableEq α] (d : Nat → α) : SMap α → Nat → α → SMap α
  | [], k, v => if v = d k then [] else [(k, v)]
  | (j, w) :: m, k, v =>
    if k < j then (if v = d k then (j, w) :: without m k else (k, v) :: (j, w) :: m)
    else if k = j then (if v = d k then without m k else (k, v) :: m)
    else (j, w) :: put d m k v

/-- The canonical form: keys above `lo` rise strictly and no entry holds the value of an unlisted key. -/
def canonFrom {α : Type} [DecidableEq α] (d : Nat → α) : Nat → SMap α → Bool
  | _, [] => true
  | lo, (j, v) :: m => decide (lo ≤ j) && decide (v ≠ d j) && canonFrom d (j + 1) m

/-- The canonical form of a whole map. -/
def canon {α : Type} [DecidableEq α] (d : Nat → α) (m : SMap α) : Bool := canonFrom d 0 m

end Sys2Proof.Machine
end

