-- ==== Sys2Proof/Machine/State.lean ====
section
/-! DEFINITION. The state of one K9 package as plain data, and the state after reset. INVENTORY.md lists every piece with its rule and
its reset value. Units are numbered physically: cores 0-2047 as die*512 + row*16 + column, stack cores 2048 + 32*GS + i, the management
core 2304. Law units: a core's own number, and 4096 + GS. -/

namespace Sys2Proof.Machine

/-- Privilege levels (R98). -/
inductive Priv | u | s | m
  deriving DecidableEq, Repr

/-- What a unit is doing: no firing; a firing runs; its context is frozen (R105, R106); stopped by a switch (R359). -/
inductive Run
  | idle
  | running
  | frozen (cause : Nat)
  | stopped (wasRunning : Bool)
  deriving DecidableEq, Repr

/-- One hardware loop (R95, R101). -/
structure Loop where
  start : Word := 0
  last : Word := 0
  count : Word := 0
  deriving DecidableEq, Repr

/-- A bound queue handle (R99, R118): which queue of the launch, its direction, its rate, the index at its cursor, slots advanced. -/
structure Handle where
  out : Bool
  rate : Nat
  cursor : Nat
  adv : Nat := 0
  deriving DecidableEq, Repr

/-- The supervisor CSRs (R95, R108). PEND is bit 2 of tstatus. -/
structure TrapRegs where
  tstatus : Word := 0
  tvec : Word := 0
  tpc : Word := 0
  tcause : Word := 0
  tval : Word := 0
  tjidx : Word := 0
  tinst : Word := 0
  tscratch : Word := 0
  deriving DecidableEq, Repr

/-- An asynchronous cause that waits to be taken (R105). -/
structure Async where
  code : Nat
  tval : Word
  jidx : Nat := 0
  sub : Nat := 0
  deriving DecidableEq, Repr

/-- State of a journal entry as R104 names it. -/
inductive JState | free | issued | refused
  deriving DecidableEq, Repr
/-- What a journal entry carries (R104). -/
inductive JKind
  | store
  | amo (op : Nat)
  | rel
  | relv
  deriving DecidableEq, Repr
/-- Where an ISSUED entry's request or answer is: on its way to the home, in the home's visibility queue or an engine, or an
acknowledgement or refusal on its way back. -/
inductive JStage
  | toHome
  | atHome
  | ack
  | refusal (sub : Nat)
  deriving DecidableEq, Repr
/-- A journal entry (R104, R159). -/
structure JEntry where
  st : JState := .free
  stage : JStage := .toHome
  kind : JKind := .store
  addr : Word := 0
  data : Word := 0
  time : Word := 0
  size : Nat := 0
  node : Nat := 0
  sub : Nat := 0
  timed : Bool := false
  accepted : Bool := false
  /-- ACCEPT is on its way back -/
  accepting : Bool := false
  /-- the re-sent entry carries the mark that lifts the home's blocking -/
  mark : Bool := false
  /-- issue order; order of its last sending -/
  ord : Nat := 0
  sent : Nat := 0
  /-- firing, partition and launch of the instruction that took the entry -/
  fid : Nat := 0
  part : Nat := 0
  lid : Nat := 0
  /-- the engine whose queue holds an ISSUED atomic or release (R174) -/
  engine : Nat := 0
  deriving DecidableEq, Repr

/-- State of a reply slot (R103). -/
inductive SlotState | free | waiting | ready
  deriving DecidableEq, Repr
/-- A reply slot (R103). -/
structure Slot where
  st : SlotState := .free
  gen : BitVec 8 := 0
  deadline : Nat := 0
  status : Nat := 0
  pay : List Word := []
  deriving DecidableEq, Repr

/-- A message (R14, R15) with the envelope's target address (R16). -/
structure Msg where
  kind : Nat
  onode : Nat
  ounit : Nat
  slot : Nat := 0
  gen : Nat := 0
  lid : Nat
  part : Nat
  hpc : Word
  pay : List Word
  target : Word := 0
  deriving DecidableEq, Repr
/-- A message's logical destination (R129, R135). -/
inductive Dest
  | core (lcid : Nat)
  | stackCore (node i : Nat)
  deriving DecidableEq, Repr
/-- A message in a send queue; its stores are those of issue order below `ord` (R131). -/
structure OutMsg where
  msg : Msg
  dest : Dest
  node : Nat
  ord : Nat
  fid : Nat
  deriving DecidableEq, Repr
/-- A message on REQ, with its sender and the receiving unit. -/
structure Flight where
  src : Nat
  dst : Nat
  dest : Dest
  msg : Msg
  /-- the firing that sent it -/
  fid : Nat := 0
  deriving DecidableEq, Repr
/-- A reply on RSP, on its way to unit `dst` (R137, R138). -/
structure ReplyMsg where
  dst : Nat
  /-- the unit that sent it -/
  src : Nat := 2304
  part : Nat
  node : Nat
  ounit : Nat
  slot : Nat
  gen : Nat
  status : Nat
  pay : List Word
  deriving DecidableEq, Repr
/-- Whom a firing owes a reply (R136). -/
structure ReplyTo where
  part : Nat
  node : Nat
  ounit : Nat
  slot : Nat
  gen : Nat
  deriving DecidableEq, Repr

/-- The acquiring forms (R166). -/
inductive AcqForm | x | s | w
  deriving DecidableEq, Repr
/-- What a request to an atomic engine does (R174): an atomic (R175-R179), an acquire with its threshold (R166), or a release with the
value of RELV (R169). -/
inductive AOp
  | add | and | or | xor | min | max | minu | maxu | swap | cas | faddS | faddBh | fmaxS
  | acquire (form : AcqForm) (thr : Nat)
  | release (value : Option (BitVec 48))
  deriving DecidableEq, Repr
/-- A request on its way to, or at, an engine (R174): its sender, its address, whether it is 8 bytes, its operands; `posted` names the
journal entry of a posted form to a global address, `ord` is the issue order of one without an entry. -/
structure AReq where
  src : Nat
  part : Nat
  lid : Nat
  addr : Word
  wide : Bool
  op : AOp
  b : Word
  c : Word := 0
  returning : Bool
  posted : Option Nat := none
  fid : Nat := 0
  ord : Nat := 0
  deriving DecidableEq, Repr
/-- An acquire waiting at its object's engine (R167): `loc` is the byte of `mem` where the object's word starts, `name` its
global-equivalent address at its home. -/
structure Waiter where
  src : Nat
  form : AcqForm
  loc : Nat
  addr : Word
  part : Nat
  thr : Nat
  lid : Nat := 0
  name : Word := 0
  deriving DecidableEq, Repr
/-- A release on its way without a journal entry (R169). -/
structure Release where
  src : Nat
  part : Nat
  lid : Nat
  addr : Word
  value : Option (BitVec 48)
  fid : Nat := 0
  ord : Nat := 0
  deriving DecidableEq, Repr

/-- What a stalled instruction waits for at a home, and the answer (R110, R150). -/
inductive Wait
  | none
  | load (addr : Word) (size : Nat) (time : Option Word)
  | acquire (form : AcqForm) (addr : Word) (thr : Nat)
  | parked (addr : Word)
  | atomic (r : AReq)
  | event (until_ : Word)
  | record (addr : Word) (bytes : List Byte)
  | service
  | killing (scope : Bool)
  | bmode (g pch : Nat)
  | sleep (until_ : Word)
  /-- the access of an instruction that tries again at each step, while its home's link is down -/
  | retry (addr : Word)
  | law (addr : Word)
  | value (v : Word)
  | refusal (cause sub : Nat) (tval : Word)
  deriving DecidableEq, Repr

/-- One line of a global read cache (R151). -/
structure Line where
  part : Nat
  addr : Word
  bytes : List Byte
  deriving DecidableEq, Repr

/-- A region bound to an object (R170, R171): object and region as global-equivalent addresses. -/
structure Binding where
  obj : Word
  base : Word
  log2 : Nat
  lid : Nat
  deriving DecidableEq, Repr

/-- The firing a unit runs (R99, R136, R347): `fid` numbers firings, `ran` counts its ticks for the watchdog, `inWd` is set while the
WATCHDOG trap's handler runs. -/
structure Firing where
  wid : Word := 0
  lid : Nat := 0
  stage : Word := 0
  fid : Nat := 0
  owed : Option ReplyTo := none
  replied : Bool := false
  wdog : Nat := 0
  since : Nat := 0
  wdFired : Bool := false
  inWd : Bool := false
  phase : Nat := 0
  /-- its first instruction has begun (R347) -/
  begun : Bool := false
  deriving DecidableEq, Repr

/-- The tensor engine's registers (R238) and MSTAT (R257). v is keyed 32*r + lane, acc is keyed 1024*n + 32*row + column. -/
structure Tensor where
  v : SMap (BitVec 32) := []
  acc : SMap (BitVec 32) := []
  cyc : BitVec 16 := 0
  mmas : BitVec 16 := 0
  nan : BitVec 4 := 0
  inf : BitVec 4 := 0
  deriving DecidableEq, Repr

/-- What the tensor instruction at pc has done ahead of its retirement, element by element (R246): bytes of the own scratchpad that it has
read, with what they held, and bytes that it has written. -/
structure Tile where
  seen : SMap (Option Byte) := []
  put : List Nat := []
  deriving DecidableEq, Repr

/-- The engine counters of a core (R274) and its completion objects (R286). -/
structure EngineSide where
  issued : Nat := 0
  finished : Nat := 0
  /-- operations above `finished` that are done -/
  early : List Nat := []
  efault : Bool := false
  bars : SMap Word := []
  cbms : SMap Word := []
  /-- barriers whose last BARDECL named some bytes (R288) -/
  declared : List Nat := []
  deriving DecidableEq, Repr

/-- One unit (R94, R95, R323). -/
structure Unit where
  pc : Word := 0
  x : Vector Word 32 := Vector.replicate 32 0
  priv : Priv := .u
  run : Run := .idle
  part : Nat := 0
  lp0 : Loop := {}
  lp1 : Loop := {}
  handles : SMap (Option Handle) := []
  t : TrapRegs := {}
  rcto : Word := 4000000
  rctl : Word := 0
  fduty : Nat := 16
  bfmt : SMap Word := []
  late : BitVec 16 := 0
  slots : SMap Slot := []
  inbox : List Msg := []
  sendq : List OutMsg := []
  latch : Bool := false
  journal : SMap JEntry := []
  jord : Nat := 0
  cache : List Line := []
  firing : Firing := {}
  wait : Wait := .none
  asyncs : List Async := []
  eng : EngineSide := {}
  ten : Tensor := {}
  tile : Tile := {}
  turn : Nat := 0
  div : BitVec 4 := 1
  powered : Bool := true
  idleSince : Nat := 0
  /-- when the scheduler chose a firing for it while its switch was open (R401) -/
  closing : Option Nat := none
  /-- the partition start whose tvec firmware last wrote here, named as in `Part.boot` (R95) -/
  boot : Option Nat := none
  deriving DecidableEq, Repr

/-- An entry of a Rooster (R209): the word (partition, global-equivalent address), threshold index, GEN, due time as a tick or as a
step of a counter, and for the k-th crossing of a phase threshold (R208) the distance, rate and unit of the arming. Times are integers, since a word's last re-base may lie before unit 0 (R200). -/
structure Rooster where
  part : Nat
  addr : Word
  idx : Nat
  gen : BitVec 2
  due : Int
  ctr : Option Nat := none
  k : Nat := 1
  dist : Nat := 0
  rate : Nat := 0
  armed : Int := 0
  /-- due when it was restored, so that its post carries LATE (R365) -/
  late : Bool := false
  deriving DecidableEq, Repr
/-- The launch and the phase in which a word was last armed (R351): the word as a Rooster entry names it. -/
structure Arming where
  part : Nat
  addr : Word
  lid : Nat
  phase : Nat
  deriving DecidableEq, Repr
/-- A post waiting in a law unit (R211, R212). -/
structure Post where
  dest : Nat
  msg : Msg
  deriving DecidableEq, Repr
/-- A swap-out record (R230). -/
structure SwapRec where
  part : Nat
  base : Word
  len : Nat
  deriving DecidableEq, Repr
/-- A law unit (R206, R209, R212, R230). thr is keyed 4*(256*partition + i) + doubleword; stg holds staged doublewords likewise. -/
structure LawUnit where
  thr : SMap Word := []
  stg : SMap Word := []
  rooster : List Rooster := []
  posts : List Post := []
  swaps : List SwapRec := []
  arms : List Arming := []
  sweep : Nat := 0
  deriving DecidableEq, Repr

/-- A COPY formed at validation (R276-R278). `sfmt` and `dfmt` are the formats of global endpoints; `sbanks` and `dbanks` are the
format registers sampled of the banks that a scratchpad endpoint touches, from its first bank on (R91). -/
structure CopyOp where
  src : Word
  dst : Word
  count : Nat
  sfmt : Nat := 0
  dfmt : Nat := 0
  sbanks : List Word := []
  dbanks : List Word := []
  dsat : Bool := false
  cbase : Nat := 0
  deriving DecidableEq, Repr
/-- A CSRWALK formed at validation (R283), with the format of a global VALS and the format registers sampled as in `CopyOp`. -/
structure WalkOp where
  rowptr : Word
  colidx : Word
  vals : Word
  didx : Word
  dval : Word
  dptr : Word
  row0 : Nat
  nrows : Nat
  maxe : Nat
  vfmt : Nat := 0
  sbanks : List Word := []
  dbanks : List Word := []
  /-- COLIDX and VALS are window addresses, whose grants are checked as they are read -/
  cwin : Bool := false
  vwin : Bool := false
  /-- the first and last row pointer, once read (R284) -/
  rows : Option (Nat × Nat) := none
  deriving DecidableEq, Repr
/-- What an engine operation does. -/
inductive EKind
  | copy (c : CopyOp)
  | copyt (c : CopyOp)
  | csrwalk (w : WalkOp)
  | swreg (base : Word) (nwords : Nat) (register : Bool)
  | reduce (len fmt : Nat) (srcs : List Word) (dst obj : Word) (value : Nat)
  deriving DecidableEq, Repr
/-- Why an engine operation fails: cause, subcode, first failing address and the elements written before (R287). -/
structure EFail where
  cause : Nat
  sub : Nat
  addr : Word
  progress : Nat
  deriving DecidableEq, Repr
/-- An engine operation (R65, R274, R279). `src` is the issuing core; none for an aperture copy (R282). -/
structure EOp where
  src : Option Nat
  unit : Nat
  part : Nat
  lid : Nat
  fid : Nat
  seq : Nat
  kind : EKind
  cmpl : Nat := 0
  cidx : Nat := 0
  ccore : Nat := 0
  /-- elements done, as disjoint ranges (first, number) -/
  done : List (Nat × Nat) := []
  /-- a registration has passed its table check (R285) -/
  entered : Bool := false
  /-- chunks signalled -/
  told : List Nat := []
  fail : Option EFail := none
  deriving DecidableEq, Repr
/-- An entry of a range-lock table (R289): a span of global-equivalent addresses; `dst` locks reads too; `cuts` are the offsets and
lengths of the chunks that have left it. -/
structure Lock where
  part : Nat
  base : Nat
  len : Nat
  dst : Bool
  owner : Option Nat
  seq : Nat
  cuts : List (Nat × Nat) := []
  deriving DecidableEq, Repr

/-- A ticket of a retried request (R303, R364): `num` is the first number it took, which orders the requests of its source, `turn` the
number that it holds its turn by, `pch` the pseudo-channel, or the core of a cluster. -/
structure Ticket where
  num : Nat
  turn : Nat
  pch : Nat
  src : Nat
  req : ReqId
  sent : Nat
  /-- re-sent and waiting its turn -/
  back : Bool := false
  /-- its window has ended: it is served as a new arrival -/
  clear : Bool := false
  deriving DecidableEq, Repr
/-- A WID in a cluster's backlog and the source stages that have taken it (R341). -/
structure Pending where
  part : Nat
  lid : Nat
  wid : Nat
  taken : List Nat := []
  batch : Nat := 0
  deriving DecidableEq, Repr
/-- When a stage last became ready (R346). -/
structure ReadySince where
  part : Nat
  lid : Nat
  stage : Nat
  since : Nat
  deriving DecidableEq, Repr
/-- A cluster's power state (R400, R405, R406): point running, point whose voltage stands or is being reached, the ramp's end. -/
structure Power where
  auto : Bool := true
  opreq : BitVec 3 := 7
  opcur : BitVec 3 := 7
  /-- point a frequency switch is due to reach -/
  goal : Option (BitVec 3) := none
  /-- point whose voltage the running ramp reaches, and its end -/
  ramp : Option (BitVec 3 × Nat) := none
  volt : BitVec 3 := 7
  pend : Option (BitVec 3) := none
  defer : BitVec 32 := 0
  /-- end of the running relock window (R405) -/
  relock : Nat := 0
  deriving DecidableEq, Repr
/-- One physical cluster. sems by N; frec by 4*N + doubleword; templ by 8*t + doubleword. -/
structure Cluster where
  sems : SMap Word := []
  frec : SMap Word := []
  templ : SMap Word := []
  locks : List Lock := []
  chans : SMap (List EOp) := []
  aePos : Nat := 0
  aeReqs : List AReq := []
  waiters : List Waiter := []
  backlog : List Pending := []
  batches : Nat := 0
  ready : List ReadySince := []
  /-- by 4*partition + level: last grant time (R344) -/
  lastGrant : SMap Nat := []
  /-- by 4*partition + level: the launch that last started a source firing under order 4 of R346 -/
  lastSource : SMap Nat := []
  nextTicket : Nat := 0
  tickets : List Ticket := []
  pwr : Power := {}
  deriving DecidableEq, Repr

/-- The physical home of a global address. -/
inductive Home
  | stack (g : Nat)
  | cluster (pc lc : Nat)
  | host (n : Nat)
  | peer (n : Nat)
  deriving DecidableEq, Repr
/-- Where an access is served: the home and node that hold it, its offset there, and the leaf (0 for a cluster or a peer). -/
structure Site where
  home : Home
  node : Nat
  off : Nat
  leaf : Word
  z : Nat
  /-- its line must not be cached (R376) -/
  noFill : Bool := false
  deriving DecidableEq, Repr

/-- A bank command accepted by a pseudo-channel (R305). -/
inductive BankKind
  | bcast (full : Bool) (xoff : Nat) (bytes : List Byte)
  | bmv (matrix dplane : Word) (ebase : Int) (xmode seed : Bool) (afmt wfmt nrows xoff : Nat) (sem : Option Nat)
  | bexpr (addr : Word) (count : Nat) (handler : List Word) (replySlot : Option (Nat × Nat)) (sem : Option Nat) (next : Nat) (total : BitVec 32)
  | bget (dst : Word)
  deriving DecidableEq, Repr
structure BankCmd where
  src : Nat
  part : Nat
  lid : Nat
  fid : Nat
  kind : BankKind
  /-- part of its hold, so that BSTAT and BMODE exit count it -/
  held : Bool := true
  /-- the leaves found before acceptance, by 4 KiB page from the first one of the matrix or range, and of the delta plane (R305, R316) -/
  frames : List Site := []
  dframes : List Site := []
  /-- arrival order among bank commands -/
  ord : Nat := 0
  deriving DecidableEq, Repr
/-- A pseudo-channel (R300-R303). x is keyed 1024*bead + byte, p is keyed 64*bead + row. `burst` is the start of the running burst and the
number of its command, `lastBurst` the end of the last one, `window` says that its ticket window still holds. -/
structure Pch where
  allbank : Bool := false
  holder : Option (Nat × Nat) := none
  /-- launch and firing that entered the hold (R301) -/
  hold : Nat × Nat := (0, 0)
  retries : BitVec 16 := 0
  fault : Bool := false
  x : SMap Byte := []
  p : SMap (BitVec 32) := []
  cmds : List BankCmd := []
  burst : Option (Nat × Nat) := none
  lastBurst : Nat := 0
  window : Bool := false
  deriving DecidableEq, Repr
/-- A registration of SWREG (R285). -/
structure SwReg where
  part : Nat
  base : Word
  nwords : Nat
  deriving DecidableEq, Repr
/-- One physical stack with its base die. -/
structure Stack where
  cap : Nat := 0
  aePos : Nat := 0
  aeReqs : List AReq := []
  waiters : List Waiter := []
  redq : List EOp := []
  swq : List EOp := []
  regs : List SwReg := []
  pch : SMap Pch := []
  /-- units that wait to enter ALLBANK, in arrival order: pseudo-channel, partition, unit -/
  entering : List (Nat × Nat × Nat) := []
  nextTicket : Nat := 0
  tickets : List Ticket := []
  deriving DecidableEq, Repr

/-- A cached leaf (R377). -/
structure TcEntry where
  part : Nat
  node : Nat
  base : Nat
  size : Nat
  leaf : Word
  deriving DecidableEq, Repr
/-- A page walk and the generation it recorded when it started (R379); one that waits for a free walker has none (R377). -/
structure Walk where
  part : Nat
  node : Nat
  offset : Nat
  gen : Option Nat
  found : Option (Nat × Nat × Word)
  deriving DecidableEq, Repr
/-- One die: 0-3 compute, 4 + GS base. Its atime read `skew` beyond the device count at `slewFrom`, and slews towards `goal` beyond it
(R29, R30). -/
structure Die where
  clk : Nat := 0
  offset : Int := 0
  missed : Nat := 0
  bell : Bool := false
  peerLock : Bool := false
  lastGood : Nat := 0
  goodRun : Nat := 0
  skew : Int := 0
  goal : Int := 0
  slewFrom : Nat := 0
  /-- the time of its last exchange with its master, and of the Bellwether's with the grandmaster -/
  lastTry : Nat := 0
  peerTry : Nat := 0
  peerMissed : Nat := 0
  /-- it has been SETTLED since reset (R31) -/
  locked : Bool := false
  tc : List TcEntry := []
  walks : List Walk := []
  gens : SMap Nat := []
  absent : List (Nat × Nat × Nat) := []
  deriving DecidableEq, Repr

/-- A stage of a record (R339). -/
structure StageRec where
  entry : Word
  src : Bool
  deriving DecidableEq, Repr
/-- A queue of a record (R339). -/
structure QueueRec where
  core : Nat
  depth : Nat
  slot8 : Nat
  base : Nat
  pstage : Nat
  cstage : Nat
  prate : Nat
  crate : Nat
  deriving DecidableEq, Repr
/-- A range of a record (R339). -/
structure RangeRec where
  addr : Word
  w : Bool
  len : Nat
  deriving DecidableEq, Repr
/-- An accepted launch record (R337-R339). -/
structure Record where
  prio : Nat
  groups : Nat
  widths : List Nat
  args : Word
  cmpl : Word
  wdog : Nat
  stktop : Word
  weight : Nat
  batch : Nat
  phased : Bool
  flock : List Nat
  stages : List StageRec
  queues : List QueueRec
  ranges : List RangeRec
  deriving DecidableEq, Repr
/-- One queue's indices in one cluster (R118). -/
structure QState where
  granted : Nat := 0
  consumed : Nat := 0
  pub : List Nat := []
  rel : List Nat := []
  oldest : Nat := 0
  deriving DecidableEq, Repr
/-- What a launch is doing. -/
inductive LaunchSt
  | residency
  | running
  | killed
  | ended (value : Nat)
  | completing (value : Nat)
  /-- its release on CMPL has been sent -/
  | releasing
  deriving DecidableEq, Repr
/-- An active launch (R340-R348, R350-R352). qs is keyed 16*(logical cluster) + N; seqs is the next SEQ of a unit's order-log records,
by 2^16*(kind of unit) + unit. -/
structure Launch where
  lid : Nat
  record : Record
  groups : Nat
  next : Nat := 0
  st : LaunchSt := .residency
  qs : SMap QState := []
  detctl : Word := 0
  phase : Nat := 0
  lastCluster : Option Nat := none
  started : Bool := false
  digest : Word := 0
  digestCommit : Word := 0
  seqs : SMap Nat := []
  /-- grants of each requester and messages of each sender at each unit (R354), by 2^40*kind + 2^20*unit + requester -/
  counts : SMap Nat := []
  /-- units that no longer force logged choices (R355), numbered as in `seqs` -/
  unforced : List Nat := []
  /-- pages for whose refused permission a residency request stands (R343) -/
  asked : List Word := []
  /-- when it last began to wait for a grant (R344) -/
  waitFrom : Nat := 0
  deriving DecidableEq, Repr

/-- A fault record (R384). -/
structure FaultRec where
  cause : Nat
  sub : Nat := 0
  kind : Nat
  lid : Nat := 0
  unit : Nat
  addr : Word := 0
  val : Word := 0
  time : Nat := 0
  late : Bool := false
  double : Bool := false
  msg : Option Msg := none
  held : Bool := false
  /-- the HELDMAP bit of an engine: its logical cluster, or 128 + its logical stack (R385) -/
  place : Option Nat := none
  /-- the unit whose context the record freezes while it is held (R386) -/
  src : Option Nat := none
  deriving DecidableEq, Repr
/-- A fault ring (R385). -/
structure Ring where
  base : Word := 0
  size : Word := 0
  tail : Word := 0
  head : Word := 0
  waiting : List FaultRec := []
  deriving DecidableEq, Repr
/-- A host launch queue (R390). -/
structure HostQ where
  qbase : Word := 0
  qsize : Word := 0
  qtail : Word := 0
  qhead : Word := 0
  deriving DecidableEq, Repr
/-- A service mailbox (R392): eight doublewords and whether doubleword 7 has been written. -/
structure Mailbox where
  dw : SMap Word := []
  asked : Bool := false
  /-- when it was written (R393) -/
  arrived : Nat := 0
  deriving DecidableEq, Repr

/-- One partition. laws by 4*i + doubleword (lawStg: staged); handlers likewise; regions by 64*(physical cluster) + 2*i + doubleword. -/
structure Part where
  nodes : SMap (BitVec 32) := []
  cores : SMap Word := []
  present : SMap (BitVec 16) := []
  stripes : SMap Word := []
  regions : SMap Word := []
  suspended : Bool := false
  laws : SMap Word := []
  lawStg : SMap Word := []
  ctrs : SMap Word := []
  handlers : SMap Word := []
  handlerStg : SMap Word := []
  bindings : List Binding := []
  roots : SMap Word := []
  launches : List Launch := []
  lastLid : Nat := 0
  detctl : Word := 0
  logHead : Word := 0
  logTail : Word := 0
  digests : SMap Word := []
  peers : SMap Word := []
  /-- when its last switch in started its cores (R364, R365) -/
  resumed : Nat := 0
  /-- where the free values begin that firmware wrote to its cores' tvec at its start; none while it has not started since reset (R95) -/
  boot : Option Nat := none
  retry : Ring := {}
  terminal : Ring := {}
  fstat : Word := 0
  weight : Nat := 1
  /-- by level: the launch whose turn it is and the grants left of it (R344) -/
  turnOf : SMap (Nat × Nat) := []
  hostq0 : HostQ := {}
  hostq1 : HostQ := {}
  turnq : Bool := false
  mail0 : Mailbox := {}
  mail1 : Mailbox := {}
  deriving DecidableEq, Repr

/-- An entry of a visibility queue (R158): port p is core p's scratchpad port, 4096 + d is die d's network interface. -/
structure Vis where
  port : Nat
  src : Nat
  j : Nat
  part : Nat
  lid : Nat
  addr : Word
  data : Word
  size : Nat
  time : Word
  arrived : Nat
  /-- where a global one was translated to on its arrival -/
  site : Option Site := none
  deriving DecidableEq, Repr
/-- An unblock token on REQ (R104): the home it goes to, as `blocked` names it, and when it was sent among the unit's requests. -/
structure Token where
  src : Nat
  key : Nat
  part : Nat
  sent : Nat
  deriving DecidableEq, Repr
/-- A source whose requests a home refuses as BLOCKED (R104), from issue order `ord` on. -/
structure Blocked where
  part : Nat
  key : Nat
  src : Nat
  ord : Nat
  deriving DecidableEq, Repr
/-- A shoot-down that firmware has sent and that has not finished (R380): who asked for it, the address of its descriptor, its partition,
node, first offset and length. -/
structure Shoot where
  src : Requester
  desc : Word
  part : Nat
  node : Nat
  base : Nat
  bytes : Nat
  deriving DecidableEq, Repr
/-- A switch that firmware has accepted (R357-R365): its stop and start times, the units still to evict as 16*cluster + core, its save
areas, its partitions, where its record lies, and when its gang had stopped. -/
structure Switch where
  t : Nat
  tin : Nat
  evict : List Nat
  ctxOut : Word
  ctxIn : Word
  noin : Bool
  inP : Nat
  outP : Nat
  place : Nat
  stopped : Option Nat := none
  deriving DecidableEq, Repr
/-- An evicted unit: 16*cluster + core, the core it left, and what its save area holds in a layout that the spec does not give (R361,
R362); its posted atomics and releases without an entry that no engine had applied wait with it. -/
structure SavedUnit where
  name : Nat
  was : Nat
  unit : Unit
  rooster : List Rooster
  swaps : List SwapRec
  arms : List Arming := []
  vis : List Vis
  reqs : List AReq := []
  rels : List Release := []
  deriving DecidableEq, Repr
/-- A cluster whose cores were all evicted, the physical cluster it left, and what its transfer channels and its scheduler held of the
partition. -/
structure SavedCluster where
  name : Nat
  was : Nat := 0
  sems : SMap Word
  frec : SMap Word
  templ : SMap Word
  chans : SMap (List EOp) := []
  locks : List Lock := []
  backlog : List Pending := []
  ready : List ReadySince := []
  grants : SMap Nat := []
  sources : SMap Nat := []
  deriving DecidableEq, Repr
/-- What the last switch out of a partition left (R361, R365): when it stopped and what it evicted. -/
structure Saved where
  part : Nat
  since : Nat
  units : List SavedUnit := []
  clusters : List SavedCluster := []
  deriving DecidableEq, Repr
/-- What stands in the pens (R360). -/
structure Pens where
  flights : List Flight := []
  replies : List ReplyMsg := []
  deriving DecidableEq, Repr

/-- Ownership, life cycle, links and lifetime records (R393-R398, R409). life is the running count, nv the committed copy, each by
offset. A link's value is the time at which it lost training. -/
structure Device where
  own : Option Nat := none
  handover : Option Nat := none
  /-- when the claim arrived that made a master the owner of a device without one (R393) -/
  claimed : Option Nat := none
  lcs : Nat := 1
  recovery : Bool := false
  grandmaster : Bool := false
  discipline : Option Nat := none
  links : SMap (Option Nat) := []
  life : SMap Nat := []
  nv : SMap Nat := []
  lastCommit : Nat := 0
  lastTree : Nat := 0
  /-- the partition that the fault reporter has served last (R387) -/
  served : Nat := 15
  deriving DecidableEq, Repr

/-- A physical error that comes about (R105, R247, R290, R407; log 64). Places: 0 scratchpad, 1 weight buffer, 2 stack DRAM. -/
inductive PhysError
  /-- an error that its access corrects -/
  | corrected (place : Nat)
  /-- entry k of a die's translation cache fails its parity -/
  | parity (die k : Nat)
  /-- a unit's context has read an uncorrectable word -/
  | uncorrectable (u place : Nat)
  /-- the tensor engine's port of a core fails -/
  | internal (u : Nat)
  /-- the running operation of an engine has read an uncorrectable word -/
  | engine (e : EngineQueue) (place : Nat) (addr : Word)
  /-- power fails abruptly and comes back; whether the image verifies then, and the compute die that is the Bellwether (R410) -/
  | powerLoss (imageOk : Bool) (bell : Nat)
  deriving DecidableEq, Repr

/-- What moves next (the model's own; log 14): a step without a word comes about with what it chooses, a physical error, a line leaves a unit's read cache
(R151), unit u's WLD is abandoned after n elements (R245), its tensor instruction reads or writes one element ahead (R246), a unit runs an instruction, or time passes. -/
inductive Action
  | event (i : Instr) (choice : List Nat := [])
  | error (e : PhysError)
  | evict (u : Nat) (addr : Word)
  | abandon (u n : Nat)
  | element (u a : Nat) (write : Bool)
  | run (u : Nat)
  | pass (ticks : Nat)
  deriving DecidableEq, Repr

/-- The place table after reset: the identity map over the units that passed test (R21, R24). DESIGN CHOICE (log 9): every stack, cluster
and core passed, both host entries are valid, and no peer or stripe entry is. -/
def node0 (k : Nat) : BitVec 32 :=
  if k < 8 then 0x90000000#32 + BitVec.ofNat 32 k
  else if 0x10 ≤ k ∧ k ≤ 0x8F then 0x80000000#32 + BitVec.ofNat 32 (k - 0x10)
  else if k = 0x90 ∨ k = 0x91 then 0xA0000000#32 + BitVec.ofNat 32 (k - 0x90)
  else 0#32
/-- The core map of every cluster after reset. -/
def cores0 (_ : Nat) : Word := 0xFEDCBA9876543210#64
/-- The present mask of every cluster after reset. -/
def present0 (_ : Nat) : BitVec 16 := 0xFFFF#16
/-- The region tables after reset (R23): entry 0 grants the whole cluster window. -/
def regions0 (k : Nat) : Word :=
  if k % 64 = 0 then 0x8000000300800000#64 else if k % 64 = 1 then 0x1000000#64 else 0#64

/-- A unit after reset: the management core (2304) runs M mode. -/
def unit0 (u : Nat) : Unit := if u = 2304 then { priv := .m } else {}
/-- A die after reset: CD0 is the Bellwether (R30). -/
def die0 (d : Nat) : Die := if d = 0 then { bell := true } else {}

/-- The last record that a unit wrote to the order log for a launch (R353). -/
structure Logged where
  part : Nat
  lid : Nat
  kind : Nat
  unit : Nat
  seq : Nat
  choice : Word
  deriving DecidableEq, Repr

/-- The whole machine. `cur` is unit `focus`; `others` holds the other units. -/
structure State where
  cur : Unit
  focus : Nat
  others : SMap Unit
  mem : List Host.Cell
  now : Nat
  pace : Nat
  agenda : List Action
  choice : List Nat
  free : Nat
  fids : Nat
  laws : SMap LawUnit
  clusters : SMap Cluster
  stks : SMap Stack
  dies : SMap Die
  parts : SMap Part
  flights : List Flight
  replies : List ReplyMsg
  releases : List Release
  vis : List Vis
  tokens : List Token
  blocked : List Blocked
  shoots : List Shoot
  switches : List Switch
  saved : List Saved
  pens : Pens
  dev : Device
  logged : List Logged
  deriving DecidableEq, Repr

/-- The machine right after reset (R398 and the reset columns; INVENTORY.md, '## State'). -/
def State.reset : State where
  cur := unit0 0
  focus := 0
  others := []
  mem := []
  now := 0
  pace := 1
  agenda := []
  choice := []
  free := 0
  fids := 0
  laws := []
  clusters := []
  stks := []
  dies := []
  parts := []
  flights := []
  replies := []
  releases := []
  vis := []
  tokens := []
  blocked := []
  shoots := []
  switches := []
  saved := []
  pens := {}
  dev := {}
  logged := []

/-- Why a run stops without a next state. -/
inductive Fault
  /-- Raised by taking a synchronous trap in M mode: the spec gives trap entry from U and S only (R106). Safe: the model stops where
  the spec gives no effect. -/
  | firmwareTrap (cause : Nat)
  /-- Raised by a step that names a unit, die, cluster or stack the K9 does not have (R10). Safe: no such step exists. -/
  | noSuchPlace (n : Nat)
  deriving DecidableEq, Repr

/-- Why the model gives an instruction no meaning. -/
inductive Refusal
  /-- Raised by the arm of an instruction that has no meaning yet. Safe: nothing is proved of it. -/
  | notModelled (mnemonic : String)
  deriving DecidableEq, Repr

/-- The outcome of one step. -/
abbrev Out := Host.Outcome State Fault Refusal

end Sys2Proof.Machine
end

