-- ==== Sys2Proof/Machine/Places.lean ====
section
/-! DEFINITION. Where things are: the units and their dies, logical places through the place tables (spec 01_device R17-R25), address
classes (R22), region tables (R23), and reading and writing the pieces of the state. -/

namespace Sys2Proof.Machine

-- units (R10, R323)

def isCore (u : Nat) : Bool := decide (u < 2048)
def isSc (u : Nat) : Bool := decide (2048 ≤ u) && decide (u < 2304)
/-- A core, a stack core or the management core; higher numbers name other requesters. -/
def isUnit (u : Nat) : Bool := decide (u ≤ 2304)
/-- The die of a unit: 0-3 compute dies, 4 + GS base dies. -/
def dieOf (u : Nat) : Nat := if u < 2048 then u / 512 else if u < 2304 then 4 + (u - 2048) / 32 else 0
/-- The physical cluster of a core. -/
def clusterOf (u : Nat) : Nat := u / 16
/-- The die of a physical cluster. -/
def dieOfCluster (c : Nat) : Nat := c / 32
/-- The stack of a stack core. -/
def stackOf (u : Nat) : Nat := (u - 2048) / 32
/-- The die of a law unit: a core's, or 4096 + GS. -/
def dieOfLaw (l : Nat) : Nat := if l < 4096 then l / 512 else 4 + (l - 4096)

-- reading and writing the pieces

def State.getUnit (s : State) (u : Nat) : Unit := if u = s.focus then s.cur else look unit0 s.others u
def State.setUnit (s : State) (u : Nat) (x : Unit) : State :=
  if u = s.focus then { s with cur := x } else { s with others := put unit0 s.others u x }
/-- Unit u comes into focus. -/
def State.refocus (s : State) (u : Nat) : State :=
  if u = s.focus then s
  else { s with cur := look unit0 s.others u, focus := u,
                others := put unit0 (put unit0 s.others s.focus s.cur) u (unit0 u) }
def cluster0 (_ : Nat) : Cluster := {}
def stack0 (_ : Nat) : Stack := {}
def pch0 (_ : Nat) : Pch := {}
def part0 (_ : Nat) : Part := {}
def law0 (_ : Nat) : LawUnit := {}
def word0 (_ : Nat) : Word := 0
def nat0 (_ : Nat) : Nat := 0
def byte0 (_ : Nat) : Byte := 0
def lane0 (_ : Nat) : BitVec 32 := 0
def slot0 (_ : Nat) : Slot := {}
def jentry0 (_ : Nat) : JEntry := {}
def q0 (_ : Nat) : QState := {}
def handle0 (_ : Nat) : Option Handle := none
def link0 (_ : Nat) : Option Nat := none
def chan0 (_ : Nat) : List EOp := []
def turn0 (_ : Nat) : Nat × Nat := (0, 0)
def State.getCluster (s : State) (c : Nat) : Cluster := look cluster0 s.clusters c
def State.setCluster (s : State) (c : Nat) (x : Cluster) : State := { s with clusters := put cluster0 s.clusters c x }
def State.getStack (s : State) (g : Nat) : Stack := look stack0 s.stks g
def State.setStack (s : State) (g : Nat) (x : Stack) : State := { s with stks := put stack0 s.stks g x }
def State.getPch (s : State) (g p : Nat) : Pch := look pch0 (s.getStack g).pch p
def State.setPch (s : State) (g p : Nat) (x : Pch) : State :=
  s.setStack g { s.getStack g with pch := put pch0 (s.getStack g).pch p x }
def State.getDie (s : State) (d : Nat) : Die := look die0 s.dies d
def State.setDie (s : State) (d : Nat) (x : Die) : State := { s with dies := put die0 s.dies d x }
def State.getPart (s : State) (p : Nat) : Part := look part0 s.parts p
def State.setPart (s : State) (p : Nat) (x : Part) : State := { s with parts := put part0 s.parts p x }
def State.getLaw (s : State) (l : Nat) : LawUnit := look law0 s.laws l
def State.setLaw (s : State) (l : Nat) (x : LawUnit) : State := { s with laws := put law0 s.laws l x }
/-- The active launch of a partition with a given launch id. -/
def findLaunch (ls : List Launch) (lid : Nat) : Option Launch := ls.find? (fun l => l.lid == lid)
def State.getLaunch (s : State) (p lid : Nat) : Option Launch := findLaunch (s.getPart p).launches lid
def replaceLaunch (ls : List Launch) (l : Launch) : List Launch := ls.map (fun x => if x.lid = l.lid then l else x)
def State.setLaunch (s : State) (p : Nat) (l : Launch) : State :=
  s.setPart p { s.getPart p with launches := replaceLaunch (s.getPart p).launches l }

-- x registers: x0 reads 0 and discards writes (R44, R50)

def getX (x : Vector Word 32) (r : Reg) : Word := if r = 0 then 0 else x.get r
def setX (x : Vector Word 32) (r : Reg) (v : Word) : Vector Word 32 := if r = 0 then x else x.set r.val v r.isLt
def State.x (s : State) (r : Reg) : Word := getX s.cur.x r
def State.setReg (s : State) (r : Reg) (v : Word) : State := { s with cur := { s.cur with x := setX s.cur.x r v } }

-- architected time (R27, R30)

/-- What a die's atime reads beyond the device count: it slews from `skew` to `goal` by at most 1 tick in 1,024 (R29). -/
def skewAt (x : Die) (now : Nat) : Int :=
  let n : Int := ((now - x.slewFrom) / 1024 : Nat)
  if x.skew ≤ x.goal then min x.goal (x.skew + n) else max x.goal (x.skew - n)
/-- atime of a die. -/
def State.atimeOf (s : State) (d : Nat) : Word := BitVec.ofInt 64 ((s.now : Int) + skewAt (s.getDie d) s.now)
/-- The clock state of a die (R31): a HOLDOVER ends 2^22 ticks after the last good exchange. -/
def State.clkState (s : State) (d : Nat) : Nat :=
  let x := s.getDie d
  if x.clk = 2 ∧ x.lastGood + 2 ^ 22 ≤ s.now then 0 else x.clk
/-- Partition p is suspended: from the T of a switch that names it as OUT until a switch has resumed it (R20, R359). T is read on CD0's
clock (log 57). -/
def State.suspended (s : State) (p : Nat) : Bool :=
  (s.getPart p).suspended || s.switches.any (fun w => w.outP == p && decide (w.t ≤ (s.atimeOf 0).toNat))
/-- What the agenda's entry chooses k-th for the step that comes about, d where it does not say (the model's own; log 14). -/
def State.decided (s : State) (k d : Nat) : Nat := s.choice.getD k d
/-- atime of the unit in focus. -/
def State.atime (s : State) : Word := s.atimeOf (dieOf s.focus)

-- place tables (R17-R19)

def State.node (s : State) (p n : Nat) : BitVec 32 := look node0 (s.getPart p).nodes n
def nodeValid (e : BitVec 32) : Bool := e.msb
def nodeKind (e : BitVec 32) : Nat := (e.extractLsb' 28 3).toNat
def nodeTarget (e : BitVec 32) : Nat := (e.extractLsb' 0 16).toNat
/-- The physical cluster of logical cluster c of partition p. -/
def State.physCluster (s : State) (p c : Nat) : Option Nat :=
  let e := s.node p (0x10 + c)
  if c < 128 ∧ nodeValid e then some (nodeTarget e % 128) else none
def State.coreMap (s : State) (p c : Nat) : Word := look cores0 (s.getPart p).cores c
def State.presentMask (s : State) (p c : Nat) : BitVec 16 := look present0 (s.getPart p).present c
/-- The core behind logical core k of logical cluster c of partition p (R19). -/
def State.physCore (s : State) (p c k : Nat) : Option Nat :=
  match s.physCluster p c with
  | none => none
  | some pc => if (s.presentMask p c).getLsbD k then some (pc * 16 + ((s.coreMap p c).toNat / 16 ^ k) % 16) else none
/-- The GS number of logical stack n of partition p. -/
def State.physStack (s : State) (p n : Nat) : Option Nat :=
  let e := s.node p n
  if n < 8 ∧ nodeValid e then some (nodeTarget e % 8) else none
/-- The lowest k below n that satisfies f. -/
def firstBelow (f : Nat → Bool) : Nat → Nat → Option Nat
  | 0, _ => none
  | n + 1, k => if f k then some k else firstBelow f n (k + 1)
/-- The logical cluster of partition p that physical cluster pc backs (the lowest). -/
def State.logCluster (s : State) (p pc : Nat) : Option Nat := firstBelow (fun c => s.physCluster p c == some pc) 128 0
/-- The logical core number of column col in logical cluster c. -/
def State.logCore (s : State) (p c col : Nat) : Option Nat :=
  firstBelow (fun k => (s.presentMask p c).getLsbD k && ((s.coreMap p c).toNat / 16 ^ k) % 16 == col) 16 0
/-- The lowest logical stack node of partition p that maps to stack g (R15). -/
def State.logStack (s : State) (p g : Nat) : Option Nat := firstBelow (fun n => s.physStack p n == some g) 8 0
/-- cid of a unit serving partition p (R95, R323): cluster 11:4, core 3:0; a stack core's index. -/
def State.cidOf (s : State) (p u : Nat) : Nat :=
  if u < 2048 then
    match s.logCluster p (u / 16) with
    | none => 0
    | some c => c * 16 + (s.logCore p c (u % 16)).getD 0
  else if u < 2304 then (u - 2048) % 32 else 0
/-- ORIGIN_NODE of a unit serving partition p (R15). -/
def State.originNode (s : State) (p u : Nat) : Nat :=
  if u < 2048 then 0x10 + (s.logCluster p (u / 16)).getD 0
  else if u < 2304 then (s.logStack p (stackOf u)).getD 0 else 0
/-- A stripe-set entry: its logical stacks (R25, R148). -/
def State.stripe (s : State) (p i : Nat) : List Nat :=
  let w := (look word0 (s.getPart p).stripes i).toNat
  (List.range (w % 16)).map (fun j => (w / 2 ^ (8 + 3 * j)) % 8)

/-- The home of offset off at node n of partition p; none is PLACE-MISS (R17, R24, R25). DESIGN CHOICE (log 68): a stripe set whose
selected member stack has no valid node entry has none either, so that the access names the stripe node. -/
def State.home (s : State) (p n off : Nat) : Option Home :=
  let e := s.node p n
  if !nodeValid e then none
  else if n < 8 then some (.stack (nodeTarget e % 8))
  else if 0x10 ≤ n ∧ n ≤ 0x8F then some (.cluster (nodeTarget e % 128) (n - 0x10))
  else if n = 0x90 ∨ n = 0x91 then some (.host (nodeTarget e % 2))
  else if 0xA0 ≤ n ∧ n ≤ 0xBF then some (.peer (nodeTarget e % 16))
  else if 0xF0 ≤ n ∧ n ≤ 0xFF then
    let l := s.stripe p (nodeTarget e % 16)
    if l.length = 0 then none
    else (s.physStack p (l.getD (off / 4096 % l.length) 0)).map Home.stack
  else none
/-- The die whose network interface serves a home (R368). DESIGN CHOICE (log 34): a peer's is CD0, so that a timed store to a peer meets
this package's clock and visibility queue. -/
def homeDie : Home → Nat
  | .stack g => 4 + g
  | .cluster pc _ => pc / 32
  | .host n => if n = 0 then 0 else 3
  | .peer _ => 0

-- address classes (R22, R109)

/-- What an address names for a unit. -/
inductive Place
  | own (a : Nat)
  | window (c a : Nat)
  | mmio (a : Nat)
  | nowhere
  | global (node off : Nat)
  deriving DecidableEq, Repr
def classify (sc : Bool) (addr : Word) : Place :=
  let a := addr.toNat
  if a / 2 ^ 56 = 1 then .global (a / 2 ^ 48 % 256) (a % 2 ^ 48)
  else if sc then (if a < 0x10000 then .own a else .nowhere)
  else if a < 0x80000 then .own a
  else if a < 0x800000 then .nowhere
  else if a < 0x1000000 then .window ((a - 0x800000) / 0x80000) (a % 0x80000)
  else if a < 0x2000000 then .mmio a
  else .nowhere
/-- The global form of an offset at a node. -/
def globalAddr (node off : Nat) : Word := BitVec.ofNat 64 (2 ^ 56 + node * 2 ^ 48 + off)

-- region tables (R23)

/-- One entry grants the permission on byte a (a local address). -/
def regionGrants (d0 d1 : Word) (needR needW : Bool) (a : Nat) : Bool :=
  d0.msb && (!needR || d0.getLsbD 32) && (!needW || d0.getLsbD 33) &&
  decide ((d0.extractLsb' 0 25).toNat ≤ a) && decide (a < (d1.extractLsb' 0 26).toNat)
/-- Does the region table of logical cluster c, held in the protection unit of the cluster behind it, grant one byte? Grants of one
permission may come from different entries. -/
def State.granted (s : State) (p c a : Nat) (needR needW : Bool) : Bool :=
  let t := (s.getPart p).regions
  let pc := (s.physCluster p c).getD c
  let dw := fun i d => look regions0 t (64 * pc + 2 * i + d)
  (!needR || (List.range 32).any (fun i => regionGrants (dw i 0) (dw i 1) true false a)) &&
  (!needW || (List.range 32).any (fun i => regionGrants (dw i 0) (dw i 1) false true a))
/-- Every byte of a range is granted; ranges of entries are multiples of 64, so one byte of each 64 decides. -/
def State.grantedRange (s : State) (p c a n : Nat) (needR needW : Bool) : Bool :=
  (List.range ((a + n + 63) / 64 - a / 64)).all (fun i => s.granted p c (a / 64 * 64 + 64 * i) needR needW)

-- memory: keys of the flat memory (notes/assumptions/6), byte order little-endian (R2)

def scratchKey (core a : Nat) : Nat := core * 2 ^ 19 + a
def weightKey (core o : Nat) : Nat := 2 ^ 30 + core * 2 ^ 18 + o
def sramKey (i a : Nat) : Nat := 2 ^ 31 + i * 2 ^ 16 + a
def stackKey (g phys : Nat) : Nat := 2 ^ 40 + g * 2 ^ 37 + phys
def hostKey (n a : Nat) : Nat := 2 ^ 60 + n * 2 ^ 48 + a
/-- The stack-physical address of an offset in a bank (R373). -/
def bankPhys (pch bank off : Nat) : Nat := off / 256 * 2 ^ 19 + bank * 2 ^ 15 + pch * 2 ^ 8 + off % 256

/-- What a byte holds. -/
def State.byte (s : State) (k : Nat) : Byte := look byte0 s.mem k
def State.setByte (s : State) (k : Nat) (b : Byte) : State := { s with mem := put byte0 s.mem k b }
/-- Memory is in canonical form. -/
def Memory.wf (m : List Host.Cell) : Bool := canon byte0 m
/-- n bytes from k on, least significant first, as a number. -/
def readNat (m : List Host.Cell) (k : Nat) : Nat → Nat
  | 0 => 0
  | n + 1 => (look byte0 m k).toNat + 256 * readNat m (k + 1) n
/-- Memory with the n low bytes of v written from k on. -/
def writeNat (m : List Host.Cell) (k v : Nat) : Nat → List Host.Cell
  | 0 => m
  | n + 1 => writeNat (put byte0 m k (BitVec.ofNat 8 v)) (k + 1) (v / 256) n
def State.read (s : State) (k n : Nat) : Word := BitVec.ofNat 64 (readNat s.mem k n)
def State.write (s : State) (k n : Nat) (v : Word) : State := { s with mem := writeNat s.mem k v.toNat n }
/-- n bytes at the places a map gives. -/
def State.readBytes (s : State) (f : Nat → Nat) (n : Nat) : List Byte := (List.range n).map (fun i => s.byte (f i))
def writeList (m : List Host.Cell) (f : Nat → Nat) (i : Nat) : List Byte → List Host.Cell
  | [] => m
  | b :: bs => writeList (put byte0 m (f i) b) f (i + 1) bs
def State.writeBytes (s : State) (f : Nat → Nat) (bs : List Byte) : State := { s with mem := writeList s.mem f 0 bs }
/-- A number from bytes, least significant first. -/
def natOfBytes : List Byte → Nat
  | [] => 0
  | b :: bs => b.toNat + 256 * natOfBytes bs
def bytesOfNat : Nat → Nat → List Byte
  | 0, _ => []
  | n + 1, v => BitVec.ofNat 8 v :: bytesOfNat n (v / 256)

/-- A fresh count for a free value. -/
def State.fresh (s : State) (n : Nat) : Nat × State := (s.free, { s with free := s.free + n })
/-- n free bytes (notes/assumptions/16). -/
def State.freeBytes (s : State) (n : Nat) : List Byte × State :=
  ((List.range n).map (fun i => Config.freeByte (s.free + i)), { s with free := s.free + n })

-- bank formats (R88, R90)

def State.bfmt (s : State) (u b : Nat) : Word := look word0 (s.getUnit u).bfmt b
def fmtOfReg (w : Word) : Nat := (w.extractLsb' 0 4).toNat
def satOfReg (w : Word) : Bool := w.getLsbD 4
/-- The bank of a core that holds byte a of its scratchpad has format STATE. -/
def State.isState (s : State) (u a : Nat) : Bool := fmtOfReg (s.bfmt u (a / 4096)) == 8

/-- A trap or a stop of unit u is due (R168, R245, R306). -/
def State.breaks (s : State) (u : Nat) : Bool :=
  let x := s.getUnit u
  (x.priv == .u && x.asyncs != []) || s.suspended x.part

-- who may write (R393, R394, R397, R398)

def LCS_RETIRED : Nat := 3
/-- A write through a link counts only when that link's host owns the device. -/
def State.ownerLink (s : State) (link : Nat) : Bool := s.dev.own == some link && !s.dev.recovery && s.dev.lcs != LCS_RETIRED
/-- A host owns the device. -/
def State.hostOwned (s : State) : Bool := s.ownerLink 0 || s.ownerLink 1
/-- The link behind whose host memory a partition's rings lie: the owner's (log 50). -/
def State.ringLink (s : State) : Nat := if s.dev.own = some 1 then 1 else 0

end Sys2Proof.Machine
end

