-- ==== Sys2Proof/Machine/Ops.lean ====
section
/-! DEFINITION. What every instruction shares: retiring with the hardware loops (R102), taking a trap and freezing (R105, R106, R109),
ending a firing (R100), replies (R137, R138), fault records (R383-R386), guards of privilege and of the remote subset (R40, R41). -/

namespace Sys2Proof.Machine

-- retiring (R101, R102, R62)

/-- One loop's test after an instruction of n words whose last word is at `last`; the new count, and the address it returns to. A loop whose
end is any word of the instruction takes its end (R62). -/
def loopTest (l : Loop) (n : Nat) (last : Word) (target : Option Word) : Word × Option Word :=
  if l.count = 0 then (0, none)
  else match target with
    | some t => (if l.start.toNat ≤ t.toNat ∧ t.toNat ≤ l.last.toNat then l.count else 0, none)
    | none =>
      if (List.range n).any (fun i => l.last == last - BitVec.ofNat 64 (4 * i)) then
        (if l.count.toNat > 1 then (l.count - 1, some l.start) else (0, none))
      else (l.count, none)
/-- Bits 1:0 of the program counter are always 0 (R39). -/
def alignPc (w : Word) : Word := w &&& 0xFFFFFFFFFFFFFFFC#64
/-- The unit after an instruction of n words whose last word is at `last` retires; `next` is the pc without loops (R102: U mode only). -/
def afterInstr (u : Unit) (n : Nat) (last : Word) (target : Option Word) (next : Word) : Unit :=
  if u.priv = .u then
    let r1 := loopTest u.lp1 n last target
    match r1.2 with
    | some b => { u with lp1 := { u.lp1 with count := r1.1 }, pc := alignPc b, wait := .none, tile := {} }
    | none =>
      let r0 := loopTest u.lp0 n last target
      { u with lp1 := { u.lp1 with count := r1.1 }, lp0 := { u.lp0 with count := r0.1 }, pc := (r0.2.map alignPc).getD next, wait := .none,
               tile := {} }
  else { u with pc := next, wait := .none, tile := {} }
/-- The instruction of n words at pc retires without redirecting pc. -/
def State.retireN (s : State) (n : Nat) : State :=
  let last := s.cur.pc + BitVec.ofNat 64 (4 * (n - 1))
  { s with cur := afterInstr s.cur n last none (last + 4) }
/-- A one-word instruction retires. -/
def State.retire (s : State) : State := s.retireN 1
/-- A control transfer of n words retires at its target. -/
def State.jump (s : State) (n : Nat) (t : Word) : State :=
  let last := s.cur.pc + BitVec.ofNat 64 (4 * (n - 1))
  { s with cur := afterInstr s.cur n last (some t) t }
/-- Writes a register and retires. -/
def State.done (s : State) (n : Nat) (rd : Reg) (v : Word) : State := (s.setReg rd v).retireN n
/-- The instruction stalls: it has not retired and asks for w (R110). -/
def State.stall (s : State) (w : Wait) : State := { s with cur := { s.cur with wait := w } }

-- fault records (R383-R386)

/-- A lifetime count rises, saturating (R409). -/
def State.countLife (s : State) (off n : Nat) : State :=
  { s with dev := { s.dev with life := put nat0 s.dev.life off (min (look nat0 s.dev.life off + n) (2 ^ 64 - 1)) } }
/-- A trap or record with a cause is counted (R409). -/
def State.countCause (s : State) (c : Nat) : State := if c < 64 then s.countLife (0x400 + 8 * c) 1 else s
/-- The UNIT field of a record. -/
def State.unitField (s : State) (p u : Nat) : Nat :=
  if isSc u then 0x8000 + 32 * (s.logStack p (stackOf u)).getD 0 + (u - 2048) % 32 else s.cidOf p u
/-- A record joins the queue of a ring and is counted. -/
def State.report (s0 : State) (p : Nat) (terminal : Bool) (r : FaultRec) : State :=
  let s := s0.countCause r.cause
  let x := s.getPart p
  s.setPart p (if terminal then { x with terminal := { x.terminal with waiting := x.terminal.waiting ++ [r] } }
    else { x with retry := { x.retry with waiting := x.retry.waiting ++ [r] } })
/-- Causes whose tval is an address or a node. -/
def addrCause (c : Nat) : Bool := c == 1 || c == 2 || c == 3 || c == 4 || c == 5 || c == 0xD || c == 0x18 || c == 0x19
/-- Causes whose tval carries their subcode in bits 7:0 (R66, R105, R221). -/
def subcodeCause (c : Nat) : Bool := c == 0x0C || c == 0x12 || c == 0x13
/-- The record of a trap, a freeze or a stack-core firing, with the subcode of its cause (R374, R375, R378, R384). -/
def State.trapRecord (s : State) (u cause sub : Nat) (tval : Word) (kind : Nat) (double : Bool) : FaultRec :=
  let x := s.getUnit u
  { cause := cause, sub := if subcodeCause cause then tval.toNat % 256 else sub, kind := kind, lid := x.firing.lid, unit := s.unitField x.part u,
    addr := if addrCause cause then tval else 0, val := tval, time := (s.atimeOf (dieOf u)).toNat, double := double, src := some u }

-- replies (R136-R138)

/-- The unit a reply goes to. -/
def State.replyDst (s : State) (r : ReplyTo) : Option Nat :=
  if r.node < 8 then (s.physStack r.part r.node).map (fun g => 2048 + 32 * g + r.ounit % 32)
  else s.physCore r.part (r.ounit / 16) (r.ounit % 16)
/-- A reply of unit `src` leaves on RSP. -/
def State.sendReply (s : State) (r : ReplyTo) (status : Nat) (pay : List Word) (src : Nat := s.focus) : State :=
  match s.replyDst r with
  | none => s
  | some d => { s with replies := s.replies ++ [{ dst := d, src := src, part := r.part, node := r.node, ounit := r.ounit, slot := r.slot, gen := r.gen, status := status, pay := pay }] }
/-- Unit u's firing is answered on its behalf when it owes a reply and has sent none (R138). -/
def State.answerOwed (s : State) (u status : Nat) (a0 a1 : Word) : State :=
  let x := s.getUnit u
  match x.firing.owed with
  | none => s
  | some r =>
    if x.firing.replied then s
    else (s.setUnit u { x with firing := { x.firing with replied := true } }).sendReply r status [a0, a1, 0, 0, 0, 0] u

-- ending a firing (R100) and freezing (R105, R106)

def freeSlots (m : SMap Slot) : SMap Slot := m.foldr (fun kv a => put slot0 a kv.1 { kv.2 with st := .free, status := 0, pay := [], deadline := 0 }) []
/-- A unit whose firing has ended: the state of one firing is discarded, the rest stays. -/
def endedUnit (u : Unit) (now : Nat) : Unit :=
  { u with x := Vector.replicate 32 0, pc := 0, priv := .u, run := .idle, lp0 := {}, lp1 := {}, handles := [],
           ten := { u.ten with v := [], acc := [] }, slots := freeSlots u.slots, firing := {}, wait := .none, tile := {}, idleSince := now,
           -- a WATCHDOG that it left pending is its own (R347)
           asyncs := u.asyncs.filter (fun a => a.code != 0x16) }
def State.endFiring (s : State) (u : Nat) : State := s.setUnit u (endedUnit (s.getUnit u) s.now)
/-- Unit u's context freezes; its record goes to the terminal ring and an owed call gets status 1 (R105, R138). -/
def State.freeze (s : State) (u cause : Nat) (tval : Word) (double : Bool) (sub : Nat := 0) : State :=
  let s1 := s.report (s.getUnit u).part true (s.trapRecord u cause sub tval 0 double)
  let s2 := s1.answerOwed u 1 (BitVec.ofNat 64 cause) 0
  s2.setUnit u { s2.getUnit u with run := .frozen cause, wait := .none, tile := {} }

-- traps (R105, R106, R108, R109)

def priv0 (w : Word) : Word := w &&& 0xFFFFFFFFFFFFFCFC#64
/-- Trap entry from U mode of the unit in focus (R106). -/
def State.enterTrap (s0 : State) (code : Nat) (async : Bool) (tval tinst : Word) (jidx : Nat) : State :=
  let s := s0.countCause code
  let u := s.cur
  { s with cur := { u with
      t := { u.t with tstatus := priv0 u.t.tstatus, tpc := u.pc,
                      tcause := BitVec.ofNat 64 code ||| (if async then 0x8000000000000000#64 else 0),
                      tval := tval, tinst := tinst, tjidx := BitVec.ofNat 64 jidx },
      priv := .s, pc := u.t.tvec, wait := .none, tile := {},
      firing := if code = 0x16 then { u.firing with inWd := true } else u.firing } }
/-- A trap of a stack core ends its firing (R109). -/
def State.stackTrap (s : State) (cause : Nat) (tval : Word) (sub : Nat := 0) : State :=
  let s1 := match s.cur.firing.owed with
    | some _ => (s.countCause cause).answerOwed s.focus 1 (BitVec.ofNat 64 cause) tval
    | none => if cause = 3 then s.countCause cause else s.report s.cur.part true (s.trapRecord s.focus cause sub tval 1 false)
  s1.endFiring s.focus
/-- A precise trap of the unit in focus: nothing of the instruction takes effect (R105, R106). -/
def raise (s : State) (cause : Nat) (tval : Word) (tinst : Word := 0) (sub : Nat := 0) : Out :=
  if isSc s.focus then .next (s.stackTrap cause tval sub)
  else match s.cur.priv with
    | .m => .fault (.firmwareTrap cause)
    | .s => .next (s.freeze s.focus cause tval true sub)
    | .u => if s.cur.t.tvec = 0 then .next (s.freeze s.focus cause tval false sub) else .next (s.enterTrap cause false tval tinst 0)
/-- ILLEGAL-INSTRUCTION with its tval (R41). -/
def illegal (s : State) (tval : Nat) (w : Code) : Out := raise s 0 (BitVec.ofNat 64 tval) (w.setWidth 64)

/-- PEND of tstatus (R108). -/
def State.pendBit (s : State) : Word := if s.cur.priv ≠ .u ∧ s.cur.asyncs ≠ [] then 4 else 0
/-- An asynchronous cause becomes pending at unit u and sets its event latch (R105, R144). -/
def State.addAsync (s : State) (u : Nat) (a : Async) : State :=
  let x := s.getUnit u
  s.setUnit u { x with asyncs := x.asyncs ++ [a], latch := true }

/-- May an asynchronous trap be taken while the unit's instruction waits for w (R105, R110)? An answer that has come, or an atomic on its
way, completes first: the skid of one instruction. A law instruction retires first (R220). A waiting acquire or BMODE must first be cancelled at its home (R168, R306). -/
def interruptible (w : Wait) : Bool :=
  match w with
  | .value _ | .refusal _ _ _ | .atomic _ | .parked _ | .bmode _ _ | .law _ => false
  | _ => true

-- guards (R40, R41): decode first, then the remote subset, then privilege

/-- Runs k when the unit in focus may execute the instruction i; `sc` marks the remote subset. -/
def guardU (i : Instr) (sc : Bool) (s : State) (k : Out) : Out :=
  if isSc s.focus && !sc then illegal s 4 (firstWord i) else k
/-- As guardU, for an instruction that needs S mode (R41, R51). -/
def guardS (i : Instr) (s : State) (k : Out) : Out :=
  if isSc s.focus then illegal s 4 (firstWord i) else if s.cur.priv = .u then illegal s 3 (firstWord i) else k
/-- As guardU, for an instruction that needs M mode. -/
def guardM (i : Instr) (s : State) (k : Out) : Out :=
  if isSc s.focus then illegal s 4 (firstWord i) else if s.cur.priv ≠ .m then illegal s 3 (firstWord i) else k

/-- A step without a word that does not come about in this state changes nothing. -/
def idle (s : State) : Out := .next s

-- performed stores (R116, R150, R159)

def overlaps (a n b m : Nat) : Bool := decide (a < b + m) && decide (b < a + n)

/-- An entry is performed: FREE, or timed and accepted. -/
def jPerformed (e : JEntry) : Bool := e.st == .free || (e.timed && e.accepted)
/-- Every journal entry of a unit that satisfies f is performed. -/
def drained (u : Unit) (f : JEntry → Bool) : Bool := u.journal.all (fun kv => jPerformed kv.2 || !f kv.2)
/-- Every journal entry of a unit that satisfies f is FREE: performed as R150 has it, a timed store too. -/
def freed (u : Unit) (f : JEntry → Bool) : Bool := u.journal.all (fun kv => kv.2.st == .free || !f kv.2)
/-- Every entry of the current firing is performed. -/
def ownDrained (u : Unit) : Bool := drained u (fun e => e.fid == u.firing.fid)
/-- One more than the highest index of an entry in use that satisfies f; 0 when there is none. -/
def aboveEntries (u : Unit) (f : JEntry → Bool) : Nat :=
  u.journal.foldl (fun a kv => if kv.2.st != .free && f kv.2 then max a (kv.1 + 1) else a) 0
/-- The FREE journal entry that a store, atomic or release takes: the lowest above every entry in use for its home (`same`), so that a
replay in index order (R104) is one in the order of R153; where an entry is REFUSED there and none above it is FREE, any FREE one (log 69). -/
def freeEntry (u : Unit) (same : JEntry → Bool) : Option Nat :=
  let free := fun j => (look jentry0 u.journal j).st == .free
  match firstBelow (fun j => free j && decide (aboveEntries u same ≤ j)) 64 0 with
  | some j => some j
  | none => if u.journal.any (fun kv => kv.2.st == .refused && same kv.2) then firstBelow free 64 0 else none
/-- A reply for slot k of unit u, with its generation, is on its way. -/
def State.replyDue (s : State) (u k gen : Nat) : Bool :=
  s.replies.any (fun r => r.dst == u && r.part == (s.getUnit u).part && r.slot == k && r.gen == gen)
/-- Slot k of unit u as it stands: READY with status 2 once its deadline has passed; in the tick of the deadline a reply that comes goes
first (R103). A suspended unit's deadlines stand still (R365). -/
def State.slotNow (s : State) (u k : Nat) : Slot :=
  let x := s.getUnit u
  let sl := look slot0 x.slots k
  let t := (s.atimeOf (dieOf u)).toNat
  if sl.st = .waiting ∧ !s.suspended x.part ∧ (sl.deadline < t ∨ (sl.deadline = t ∧ !s.replyDue u k sl.gen.toNat)) then
    { sl with st := .ready, status := 2 }
  else sl
/-- The lowest FREE reply slot (R130). -/
def freeSlot (u : Unit) : Option Nat := firstBelow (fun j => (look slot0 u.slots j).st == .free) 16 0

end Sys2Proof.Machine
end

