-- ==== Sys2Proof/Machine/Translate.lean ====
section
/-! DEFINITION. Translation at the home: page tables, leaves, the translation cache, forwarding and the absent-page table (spec
24_translation_faults R368-R383; region tables R23; KBLOCK16 R299). -/

namespace Sys2Proof.Machine

/-- What an access needs (R375); a bank instruction that only names a pseudo-channel needs nothing. -/
inductive Need | r | w | rw | x | any
  deriving DecidableEq, Repr
def Need.reads : Need → Bool
  | .r | .rw => true
  | _ => false
def Need.writes : Need → Bool
  | .w | .rw => true
  | _ => false

/-- Why an access fails translation: its cause and the subcode of its record. -/
structure TFail where
  cause : Nat
  sub : Nat
  deriving DecidableEq, Repr

-- leaves (R372)

def lfLeaf (w : Word) : Bool := w.getLsbD 62
def lfLayout (w : Word) : Nat := (w.extractLsb' 60 2).toNat
def lfPlace (w : Word) : Bool := w.getLsbD 59
def lfRmap (w : Word) : Bool := w.getLsbD 58
def lfRnode (w : Word) : Nat := (w.extractLsb' 48 8).toNat
/-- FRAME, bits 47:16 in place. -/
def lfFrame (w : Word) : Nat := (w.extractLsb' 16 32).toNat * 65536
def lfRb (w : Word) : Nat := (w.extractLsb' 13 3).toNat
def lfX (w : Word) : Bool := w.getLsbD 12
def lfW (w : Word) : Bool := w.getLsbD 11
def lfR (w : Word) : Bool := w.getLsbD 10
/-- Pseudo-channel and bank offset F of a PLACE 1 leaf (R373). -/
def lfPch (w : Word) : Nat := (w.extractLsb' 32 7).toNat
def lfF (w : Word) : Nat := (w.extractLsb' 16 14).toNat * 4096
/-- log2 of the page a leaf at level l maps (R370). -/
def pageLog : Nat → Nat
  | 0 => 16 | 1 => 21 | 2 => 30 | _ => 36
def isStackNode (n : Nat) : Bool := decide (n < 8)
def isStripeNode (n : Nat) : Bool := decide (0xF0 ≤ n) && decide (n ≤ 0xFF)
def isHostNode (n : Nat) : Bool := n == 0x90 || n == 0x91
def isPeerNode (n : Nat) : Bool := decide (0xA0 ≤ n) && decide (n ≤ 0xBF)
def isClusterNode (n : Nat) : Bool := decide (0x10 ≤ n) && decide (n ≤ 0x8F)
/-- 96 GiB and 48 MiB. -/
def stackBytes : Nat := 96 * 2 ^ 30
def bankBytes : Nat := 48 * 2 ^ 20

/-- A leaf of a page of 2^z bytes at node n is malformed (R373, R374). -/
def leafMalformed (n z : Nat) (w : Word) : Bool :=
  let size := 2 ^ z
  let small := z == 16 || z == 21
  (w.extractLsb' 56 2 != 0#2) || (w.extractLsb' 0 10 != 0#10) || lfLayout w == 3
  || decide (lfRb w > 6) || (lfRb w != 0 && lfLayout w != 1)
  || (lfLayout w == 1 && (!lfPlace w || !small))
  || (lfPlace w && (!small || isStripeNode n || isHostNode n))
  || (isHostNode n && lfLayout w != 0)
  || (if lfRmap w then
        !(isStackNode (lfRnode w) || isStripeNode (lfRnode w) || isHostNode (lfRnode w)) || lfRnode w == n || lfFrame w % size != 0
      else if isHostNode n then false
      else if lfPlace w then
        (w.extractLsb' 39 9 != 0#9) || (w.extractLsb' 30 2 != 0#2) || lfF w % (size / 16) != 0 || decide (lfF w + size / 16 > bankBytes)
      else lfFrame w % size != 0 || decide (lfFrame w + size > stackBytes))
def leafAllows (w : Word) : Need → Bool
  | .r => lfR w
  | .w => lfW w
  | .rw => lfR w && lfW w
  | .x => lfX w
  | .any => true

/-- The end of a walk. -/
inductive Walked
  | absent
  | malformed
  | leaf (level : Nat) (w : Word)
  deriving DecidableEq, Repr
/-- The index of an offset at a level (R370). -/
def tableIndex (off : Nat) : Nat → Nat
  | 0 => off / 2 ^ 16 % 32
  | 1 => off / 2 ^ 21 % 512
  | 2 => off / 2 ^ 30 % 64
  | _ => off / 2 ^ 36 % 4096
/-- Walks the tables in stack g from the table at `base`, level by level (R370-R374). -/
def State.walkFrom (s : State) (g n off : Nat) : Nat → Nat → Walked
  | level, base =>
    let w := s.read (stackKey g (base + 8 * tableIndex off level)) 8
    if !w.msb then .absent
    else if lfLeaf w || level == 0 then (if leafMalformed n (pageLog level) w then .malformed else .leaf level w)
    else if w.extractLsb' 48 14 != 0#14 || w.extractLsb' 0 8 != 0#8 then .malformed
    else match level with
      | 0 => .malformed
      | l + 1 => s.walkFrom g n off l ((w.extractLsb' 8 40).toNat * 256)
/-- The places of the table entries that such a walk reads. -/
def State.walkKeys (s : State) (g off : Nat) : Nat → Nat → List Nat
  | level, base =>
    let k := stackKey g (base + 8 * tableIndex off level)
    let w := s.read k 8
    match level with
    | 0 => [k]
    | l + 1 => if w.msb && !lfLeaf w then k :: s.walkKeys g off l ((w.extractLsb' 8 40).toNat * 256) else [k]
/-- A walk would read a table entry in a pseudo-channel on which a burst runs (R321). -/
def State.tablesBurst (s : State) (p n off : Nat) : Bool :=
  let root := look word0 (s.getPart p).roots n
  root.msb && (match s.physStack p (root.extractLsb' 48 3).toNat with
    | none => false
    | some g => (s.walkKeys g off 3 ((root.extractLsb' 15 33).toNat * 32768)).any (fun k => (s.getPch g (k / 256 % 128)).burst.isSome))
/-- A walk of partition p's tables for an offset at node n (R369). -/
def State.walk (s : State) (p n off : Nat) : Walked :=
  let root := look word0 (s.getPart p).roots n
  if !root.msb then .absent
  else match s.physStack p (root.extractLsb' 48 3).toNat with
    | none => .absent
    | some g => s.walkFrom g n off 3 ((root.extractLsb' 15 33).toNat * 32768)

/-- A translation-cache entry covers the access (R377). -/
def tcHit (p n off : Nat) (e : TcEntry) : Bool :=
  e.part == p && e.node == n && decide (e.base ≤ off) && decide (off < e.base + e.size)
/-- The leaf for an offset at a node, with the log2 of its page: from the cache of die d, else by a walk. -/
def State.leafFor (s : State) (d p n off : Nat) : Walked × Nat :=
  match (s.getDie d).tc.find? (tcHit p n off) with
  | some e => (.leaf 0 e.leaf, e.size.log2)
  | none => match s.walk p n off with
    | .leaf l w => (.leaf l w, pageLog l)
    | r => (r, 0)


/-- The place of byte i of a site in the flat memory (R299, R373). -/
def State.siteKey (s : State) (p : Nat) (t : Site) (i : Nat) : Nat :=
  let v := t.off + i
  let size := 2 ^ t.z
  let o := v % size
  let w := t.leaf
  match t.home with
  | .cluster _ lc => scratchKey ((s.physCore p lc (v / 0x80000)).getD 0) (v % 0x80000)
  | .peer n => 2 ^ 62 + n * 2 ^ 48 + v
  | .host n => hostKey n (lfFrame w + o)
  | .stack g =>
    if isStripeNode t.node then
      let ns := s.stripe p (nodeTarget (s.node p t.node) % 16)
      let n := ns.length
      let vb := v / size * size
      stackKey g (lfFrame w + (v / 4096 / n - vb / 4096 / n) * 4096 + v % 4096)
    else if lfPlace w then
      if lfLayout w = 1 then
        let r := 512 * 2 ^ lfRb w
        let sl := r / 16
        stackKey g (bankPhys (lfPch w) (o % r / sl) (lfF w + o / r * sl + o % r % sl))
      else stackKey g (bankPhys (lfPch w) (o / (size / 16)) (lfF w + o % (size / 16)))
    else stackKey g (lfFrame w + o)
/-- The same for plain loads and stores: the first byte's place; aligned accesses of up to 8 bytes lie together. -/
def State.siteBase (s : State) (p : Nat) (t : Site) : Nat := s.siteKey p t 0

/-- The peer link of a peer node: its peer-map entry's (R395). DESIGN CHOICE (log 71): while that entry has VALID = 0, the place-table
entry's. -/
def State.peerLink (s : State) (p node : Nat) : Nat :=
  let e := look word0 (s.getPart p).peers (node - 0xA0)
  if e.msb then (e.extractLsb' 16 4).toNat else nodeTarget (s.node p node) % 16
def needCode : Need → Nat
  | .r => 0
  | .w => 1
  | .rw => 2
  | .x => 3
  | .any => 4
/-- A peer's refusal of an access, as its home's would be (R395); the peer decides it when the access comes over its link (log 97). -/
def State.peerRefusal (s : State) (p node off : Nat) (need : Need) : Option TFail :=
  if (look link0 s.dev.links (2 + s.peerLink p node)).isSome then none
  else match Config.peerVerdict (look word0 (s.getPart p).peers (node - 0xA0)) off (needCode need) s.now with
    | 0 => none
    | 1 => some ⟨3, 0⟩
    | v + 2 => some ⟨4, ([0, 0x10, 0x11, 0x12] : List Nat).getD v 0⟩
/-- Translates n bytes at an offset of a node for partition p; `fwd` is set once an access has been forwarded (R378). DESIGN CHOICE (log
70): an access forwarded to a node without a home fails as TRANSLATION-PERMISSION, subcode 0. -/
def State.translate1 (s : State) (p node off n : Nat) (need : Need) (fwd : Bool) : Except TFail (Site × Option (Nat × Nat)) :=
  match s.home p node off with
  | none => .error ⟨if fwd then 4 else 5, 0⟩
  | some (.cluster pc lc) =>
    if need = .x then .error ⟨4, 0x11⟩
    else if off + n ≤ 0x800000 ∧ (s.physCore p lc (off / 0x80000)).isSome ∧ s.grantedRange p lc (0x800000 + off) n need.reads need.writes
    then .ok ({ home := .cluster pc lc, node := node, off := off, leaf := 0, z := 0 }, none)
    else .error ⟨4, 0⟩
  | some (.peer k) => match s.peerRefusal p node off need with
    | some f => .error f
    | none => .ok ({ home := .peer k, node := node, off := off, leaf := 0, z := 0 }, none)
  | some h =>
    match s.leafFor (homeDie h) p node off with
    | (.absent, _) => .error ⟨3, 0⟩
    | (.malformed, _) => .error ⟨4, 0x10⟩
    | (.leaf _ w, z) =>
      if !leafAllows w need then .error ⟨4, 0x11⟩
      else if lfRmap w then (if fwd then .error ⟨4, 0x12⟩ else .ok ({ home := h, node := node, off := off, leaf := w, z := z }, some (lfRnode w, lfFrame w + off % 2 ^ z)))
      else .ok ({ home := h, node := node, off := off, leaf := w, z := z, noFill := lfLayout w == 2 }, none)
/-- Translation with at most one forwarding (R378). -/
def State.translate (s : State) (p node off n : Nat) (need : Need) : Except TFail Site :=
  match s.translate1 p node off n need false with
  | .error e => .error e
  | .ok (t, none) => .ok t
  | .ok (t1, some (n2, o2)) => match s.translate1 p n2 o2 n need true with
    | .error e => .error e
    | .ok (t, _) => .ok { t with noFill := t.noFill || lfLayout t1.leaf == 2 }
/-- Where the leaf of an offset forwards an access: node and offset (R378). -/
def State.forwardsTo (s : State) (p node off : Nat) : Option (Nat × Nat) :=
  match s.translate1 p node off 1 .any false with
  | .ok (_, next) => next
  | .error _ => none
/-- The global address that names a site's first byte: that of the forwarded access on a remote-mapped frame (R26, R219). -/
def siteAddr (t : Site) : Word := globalAddr t.node t.off

/-- A successful walk fills the cache of its die and takes the page out of the absent table (R377, R383). -/
def State.fillOne (s : State) (p node off : Nat) : State :=
  match s.home p node off with
  | none => s
  | some (.cluster _ _) => s
  | some (.peer _) => s
  | some h =>
    let d := homeDie h
    let x := s.getDie d
    if (x.tc.find? (tcHit p node off)).isSome then s
    else match s.walk p node off with
      | .leaf l w =>
        let size := 2 ^ pageLog l
        let e : TcEntry := { part := p, node := node, base := off / size * size, size := size, leaf := w }
        s.setDie d { x with tc := (e :: x.tc).take 4096,
                            absent := x.absent.filter (fun a => !(a.1 == p && a.2.1 == node && a.2.2 == off / 65536)) }
      | _ => s
/-- Fills the caches of the home and of the node a remote-mapped leaf names; nothing changes where no walk succeeds. -/
def State.fill (s : State) (p node off : Nat) : State :=
  let s1 := s.fillOne p node off
  match s1.translate1 p node off 1 .r false with
  | .ok (_, some (n2, o2)) => s1.fillOne p n2 o2
  | _ => s1

/-- A walk starts with the present generation (R379). -/
def State.beginWalk (s : State) (d : Nat) (w : Walk) : Walk :=
  { w with gen := some (look nat0 (s.getDie d).gens w.part), found := match s.walk w.part w.node w.offset with
      | .leaf l lf => some (w.offset / 2 ^ pageLog l * 2 ^ pageLog l, 2 ^ pageLog l, lf)
      | _ => none }
/-- The first n walks that wait, and need not wait longer, start (R377). -/
def startFirst (f : Walk → Walk) (ok : Walk → Bool) : Nat → List Walk → List Walk
  | _, [] => []
  | n, w :: ws => if w.gen.isSome || !ok w then w :: startFirst f ok n ws else match n with
    | 0 => w :: ws
    | m + 1 => f w :: startFirst f ok m ws
/-- Walks of a die under way. -/
def busyWalkers (x : Die) : Nat := (x.walks.filter (fun w => w.gen.isSome)).length
/-- Waiting walks of a die start, in arrival order, while one of its eight walkers is free (R377) and no burst keeps their tables. -/
def State.admitWalks (s : State) (d : Nat) : State :=
  let x := s.getDie d
  s.setDie d { x with walks := startFirst (s.beginWalk d) (fun w => !s.tablesBurst w.part w.node w.offset) (8 - busyWalkers x) x.walks }
/-- A walk serves an offset: it is of the same page, or of the same 64 KiB while no leaf is found. -/
def walkServes (p node off : Nat) (w : Walk) : Bool :=
  w.part == p && w.node == node && (match w.found with
    | some (b, n, _) => decide (b ≤ off) && decide (off < b + n)
    | none => w.offset / 65536 == off / 65536)
/-- A miss at a node asks for a walk; misses on one page share one (R377). -/
def State.startWalk (s : State) (p node off : Nat) : State :=
  match s.home p node off with
  | none => s
  | some (.cluster _ _) => s
  | some (.peer _) => s
  | some h =>
    let d := homeDie h
    let x := s.getDie d
    if x.walks.any (walkServes p node off) then s
    else (s.setDie d { x with walks := x.walks ++ [{ part := p, node := node, offset := off, gen := none, found := none }] }).admitWalks d

/-- An access of a node's page misses and cannot walk now: a walk of its page is under way, which it shares, every walker of the die is
busy or has a walk waiting for it (R377), or a burst keeps the tables. A miss that need not wait walks at once, within its step. -/
def State.walkBusy (s : State) (p node off : Nat) : Bool :=
  match s.home p node off with
  | none | some (.cluster _ _) | some (.peer _) => false
  | some h =>
    let x := s.getDie (homeDie h)
    !x.tc.any (tcHit p node off) && (x.walks.any (walkServes p node off) || decide (8 ≤ x.walks.length) || s.tablesBurst p node off)
/-- As `walkBusy`, at the node to which the page forwards the access too (R378). -/
def State.walkHeld (s : State) (p node off : Nat) : Bool :=
  s.walkBusy p node off || (match s.forwardsTo p node off with
    | some (n, o) => s.walkBusy p n o
    | none => false)
/-- As `walkHeld`, for a global address; no other address is translated. -/
def State.addrHeld (s : State) (sc : Bool) (p : Nat) (a : Word) : Bool :=
  match classify sc a with
  | .global node off => s.walkHeld p node off
  | _ => false

/-- The die whose unit detects a failure at a node (R368). -/
def State.nodeDie (s : State) (p node off : Nat) : Nat :=
  match s.home p node off with
  | some h => homeDie h
  | none => 0
/-- A TRANSLATION-ABSENT posts one retryable record, unless its page stands in the absent table (R383); one that a peer's unit detects is
the peer's to report (log 97). -/
def State.reportAbsent (s : State) (p node off : Nat) (r : FaultRec) : State :=
  if isPeerNode node then s else
  let d := s.nodeDie p node off
  let x := s.getDie d
  let key := (p, node, off / 65536)
  if x.absent.contains key then s
  else
    let mine := (x.absent.filter (fun a => a.1 == p)).length
    let s1 := if mine < 64 then s.setDie d { x with absent := x.absent ++ [key] } else s
    s1.report p false { r with cause := 3 }
/-- The retryable record of an access by unit u. -/
def State.absentRecord (s : State) (u : Nat) (addr : Word) (kind : Nat) : FaultRec :=
  let x := s.getUnit u
  { cause := 3, kind := kind, lid := x.firing.lid, unit := s.unitField x.part u, addr := addr, val := addr,
    time := (s.atimeOf (dieOf u)).toNat, src := some u }

/-- A translation failure of an access by the unit in focus: PLACE-MISS names the node, the others the virtual address (R154, R382). -/
def failTval (f : TFail) (node : Nat) (addr : Word) : Word := if f.cause = 5 then BitVec.ofNat 64 node else addr
/-- An access of the unit in focus traps: cause, subcode and tval, and the state after its records. -/
def raisePlace (e : TFail × Word × State) : Out := raise e.2.2 e.1.cause e.2.1 (sub := e.1.sub)
/-- The state after unit u's access failed, with the retryable record of an absent page; the walk of a page that refuses the access has
succeeded (R383). -/
def State.noteFail (s : State) (u : Nat) (f : TFail) (node off : Nat) (addr : Word) (kind : Nat) : State :=
  if f.cause = 3 then s.reportAbsent (s.getUnit u).part node off (s.absentRecord u addr kind) else s.fill (s.getUnit u).part node off

end Sys2Proof.Machine
end

