-- ==== Sys2Proof/Machine/Law.lean ====
section
/-! DEFINITION. The law unit: state words, laws, crossings, the Rooster and posts (spec 11_law_unit R195-R217). The instructions that
reach a word are in Machine/LawInstr.lean. -/

namespace Sys2Proof.Machine

/-- The high doubleword of a state word, taken apart (R195). -/
structure Sw where
  coord : Word
  stamp : Nat
  law : Nat
  alarm : Nat
  armed : Bool
  fired : Bool
  late : Bool
  sat : Bool
  rearm : Bool
  gen : BitVec 2
  top : Bool
  deriving DecidableEq, Repr
def swOf (lo hi : Word) : Sw where
  coord := lo
  stamp := (hi.extractLsb' 0 40).toNat
  law := (hi.extractLsb' 40 8).toNat
  alarm := (hi.extractLsb' 48 8).toNat
  armed := hi.getLsbD 56
  fired := hi.getLsbD 57
  late := hi.getLsbD 58
  sat := hi.getLsbD 59
  rearm := hi.getLsbD 60
  gen := hi.extractLsb' 61 2
  top := hi.getLsbD 63
def swHigh (w : Sw) : Word :=
  BitVec.ofBool w.top ++ w.gen ++ BitVec.ofBool w.rearm ++ BitVec.ofBool w.sat ++ BitVec.ofBool w.late ++ BitVec.ofBool w.fired
    ++ BitVec.ofBool w.armed ++ BitVec.ofNat 8 w.alarm ++ BitVec.ofNat 8 w.law ++ BitVec.ofNat 40 w.stamp

/-- A law-table entry (R197, R198). -/
structure LawEntry where
  valid : Bool
  step : Bool
  ctr : Nat
  shift : Nat
  kind : Nat
  p0 : Word
  p1 : Word
  p2 : Word
  deriving DecidableEq, Repr
def State.lawEntry (s : State) (p i : Nat) : LawEntry :=
  let t := (s.getPart p).laws
  let d := look word0 t (4 * i)
  { valid := d.msb, step := d.getLsbD 48, ctr := (d.extractLsb' 32 12).toNat, shift := (d.extractLsb' 8 6).toNat,
    kind := (d.extractLsb' 0 2).toNat, p0 := look word0 t (4 * i + 1), p1 := look word0 t (4 * i + 2), p2 := look word0 t (4 * i + 3) }
/-- A threshold-table entry (R206); entry 0 is stored as any other and never used. -/
structure ThrEntry where
  thr : Word
  hpc : Word
  cookie : Word
  valid : Bool
  lid : Nat
  core : Nat
  sel : Bool
  up : Bool
  deriving DecidableEq, Repr
def State.thrEntry (s : State) (l p i : Nat) : ThrEntry :=
  let t := (s.getLaw l).thr
  let k := 4 * (256 * p + i)
  let d := look word0 t (k + 3)
  { thr := look word0 t k, hpc := look word0 t (k + 1), cookie := look word0 t (k + 2), valid := d.msb && i != 0,
    lid := (d.extractLsb' 48 8).toNat, core := (d.extractLsb' 32 12).toNat, sel := d.getLsbD 2, up := d.getLsbD 1 }

/-- NOWU at law unit l (R200). -/
def State.nowu (s : State) (l p : Nat) (e : LawEntry) : Nat :=
  if e.step then (look word0 (s.getPart p).ctrs e.ctr).toNat else (s.atimeOf (dieOfLaw l)).toNat / 2 ^ e.shift

-- coordinates (R92)

def leakLam (c : Word) : Int := (c.extractLsb' 0 63).toInt
def leakNeg (c : Word) : Bool := c.msb
def mkLeak (neg : Bool) (lam : Int) : Word := BitVec.ofBool neg ++ BitVec.ofInt 63 lam
def oscLam (c : Word) : Int := (c.extractLsb' 32 32).toInt
def oscPhi (c : Word) : Nat := (c.extractLsb' 0 32).toNat
def mkOsc (lam : Int) (phi : Nat) : Word := BitVec.ofInt 32 lam ++ BitVec.ofNat 32 phi
/-- -64 in Q6.56. -/
def leakMin : Int := -(2 ^ 62)
/-- -64 in Q6.25. -/
def oscMin : Int := -(2 ^ 31)
def kappaLeak (e : LawEntry) : Int := (e.p0.extractLsb' 0 63).toInt
def kappaOsc (e : LawEntry) : Int := (e.p0.extractLsb' 0 32).toInt
def omega_ (e : LawEntry) : Nat := (e.p0.extractLsb' 32 32).toNat
def rampLo (e : LawEntry) : Int := e.p1.toInt
def rampHi (e : LawEntry) : Int := e.p2.toInt

/-- ADVANCE (R202). -/
def advance (e : LawEntry) (c : Word) (d : Nat) : Word :=
  match e.kind with
  | 0 => c
  | 1 =>
    let lam := leakLam c - kappaLeak e * d
    if lam ≤ leakMin then mkLeak false leakMin else mkLeak (leakNeg c) lam
  | 2 =>
    let x := clampInt (rampLo e) (rampHi e) c.toInt
    BitVec.ofInt 64 (clampInt (rampLo e) (rampHi e) (x + e.p0.toInt * d))
  | _ =>
    let lam := oscLam c - kappaOsc e * d
    mkOsc (if lam ≤ oscMin then oscMin else lam) ((oscPhi c + omega_ e * d) % 2 ^ 32)

/-- The dyadic value of a finite FP32 code; zero for the others. -/
def dy32 (x : BitVec 32) : Dy :=
  match f32 x with
  | .fin neg m e => dyOf neg m e
  | _ => ⟨0, 0⟩
/-- (-1)^S * 2^(n / 2^k), as bounds. -/
def powIv (neg : Bool) (n : Int) (k p : Nat) : Iv := if neg then Iv.neg (exp2Iv n k p) else exp2Iv n k p

/-- 2^(lam/2^25) * cos (or sin, by the phase offset) of phi, as bounds; multiples of an eighth of a turn have exact exponents. -/
def oscPart (lam : Int) (phi p : Nat) : Iv :=
  let f := phi % 2 ^ 32
  if f % 2 ^ 29 = 0 then
    let j := f / 2 ^ 29
    if j = 2 ∨ j = 6 then Iv.exact ⟨0, 0⟩
    else if j = 0 then exp2Iv lam 25 p
    else if j = 4 then Iv.neg (exp2Iv lam 25 p)
    else if j = 1 ∨ j = 7 then exp2Iv (lam - 2 ^ 24) 25 p
    else Iv.neg (exp2Iv (lam - 2 ^ 24) 25 p)
  else Iv.mul (exp2Iv lam 25 p) (cosIv f p)
def oscRe (lam : Int) (phi p : Nat) : Iv := oscPart lam phi p
def oscIm (lam : Int) (phi p : Nat) : Iv := oscPart lam (phi + 3 * 2 ^ 30) p

/-- OBS (R204). -/
def obs (e : LawEntry) (c : Word) : Word :=
  match e.kind with
  | 0 => c
  | 1 =>
    let l := e.p1.extractLsb' 0 32
    if leakLam c = leakMin then l.setWidth 64
    else (rne32Of (fun p => Iv.add (Iv.exact (dy32 l)) (powIv (leakNeg c) (leakLam c) 56 p))).setWidth 64
  | 2 => (rne32 ⟨c.toInt, -32⟩).setWidth 64
  | _ =>
    if oscLam c = oscMin then 0
    else rne32Of (fun p => oscIm (oscLam c) (oscPhi c) p) ++ rne32Of (fun p => oscRe (oscLam c) (oscPhi c) p)

/-- A result of INPUT: the coordinate and whether it was clamped at a range end. -/
structure InRes where
  c : Word
  sat : Bool
  deriving DecidableEq, Repr

/-- INPUT to a LEAK word (R205). -/
def inputLeak (c : Word) (x : BitVec 32) : InRes :=
  let d := dy32 x
  let lam := leakLam c
  let zero := decide (lam = leakMin)
  let top : Int := 2 ^ 62 - 1
  let fin := fun (neg : Bool) (l : Int) =>
    if l ≤ leakMin then { c := mkLeak false leakMin, sat := false : InRes }
    else if l > top then ⟨mkLeak neg top, true⟩ else ⟨mkLeak neg l, false⟩
  if d.m = 0 then (if zero then ⟨mkLeak false leakMin, false⟩ else ⟨c, false⟩)
  else if zero then fin (decide (d.m < 0)) (gridOf 56 (log2Iv d))
  else if lam % 2 ^ 56 = 0 then
    let u := Dy.add ⟨if leakNeg c then -1 else 1, lam / 2 ^ 56⟩ d
    if u.m = 0 then ⟨mkLeak false leakMin, false⟩ else fin (decide (u.m < 0)) (gridOf 56 (log2Iv u))
  else
    let u := fun p => Iv.add (powIv (leakNeg c) lam 56 p) (Iv.exact d)
    let neg := agree (fun p => (decide ((u p).lo.m < 0), decide ((u p).hi.m < 0))) false precisions
    fin neg (gridOf 56 (fun p =>
      let v := u p
      let a := if neg then Iv.neg v else v
      if a.lo.m ≤ 0 then ⟨⟨0, 0⟩, ⟨2 ^ 20, 0⟩⟩ else ⟨(log2Iv a.lo p).lo, (log2Iv a.hi p).hi⟩))

/-- INPUT to a RAMP word (R205). -/
def inputRamp (e : LawEntry) (c : Word) (x : BitVec 32) : InRes :=
  let n := rneScaled (Dy.add ⟨c.toInt, -32⟩ (dy32 x)) 32
  let v := clampInt (rampLo e) (rampHi e) n
  ⟨BitVec.ofInt 64 v, decide (v ≠ n)⟩

/-- The multiple of an eighth of a turn that a dyadic point lies on, if any. -/
def eighth (x y : Dy) : Option Nat :=
  let s := Dy.add x (Dy.neg y)
  let t := Dy.add x y
  if y.m = 0 then (if x.m > 0 then some 0 else if x.m < 0 then some 4 else none)
  else if x.m = 0 then (if y.m > 0 then some 2 else some 6)
  else if s.m = 0 then (if x.m > 0 then some 1 else some 5)
  else if t.m = 0 then (if x.m > 0 then some 7 else some 3)
  else none
/-- log2 of |x + iy|, in Q6.25, when it is a multiple of a half. -/
def halfLog (x y : Dy) : Option Int :=
  let n := Dy.add (Dy.mul x x) (Dy.mul y y)
  let m := n.m.natAbs
  if m = 2 ^ m.log2 then some (((m.log2 : Int) + n.e) * 2 ^ 24) else none
/-- x / 2 to nearest, ties to even. -/
def halfRne (x : Int) : Int := rneScaled ⟨x, -1⟩ 0

/-- INPUT to an OSC word (R205). -/
def inputOsc (c : Word) (x : Word) : InRes :=
  let xr := dy32 (x.extractLsb' 0 32)
  let xi := dy32 (x.extractLsb' 32 32)
  let lam := oscLam c
  let phi := oscPhi c
  let zero := decide (lam = oscMin)
  let top : Int := 2 ^ 31 - 1
  let fin := fun (l : Int) (f : Int) =>
    let a := (f % 2 ^ 32).toNat
    if l ≤ oscMin then { c := mkOsc oscMin a, sat := false : InRes }
    else if l > top then ⟨mkOsc top a, true⟩ else ⟨mkOsc l a, false⟩
  if xr.m = 0 ∧ xi.m = 0 then ⟨c, false⟩
  else
    let bisect := match eighth xr xi, halfLog xr xi with
      | some j, some h => if !zero && h == lam then some j else none
      | _, _ => none
    let re := fun p => if zero then Iv.exact xr else Iv.add (oscRe lam phi p) (Iv.exact xr)
    let im := fun p => if zero then Iv.exact xi else Iv.add (oscIm lam phi p) (Iv.exact xi)
    -- z = 0 only when x is the exact opposite of the word's point
    let opposite := match bisect with
      | some j => decide ((phi + 2 ^ 31) % 2 ^ 32 = j * 2 ^ 29)
      | none => false
    if opposite then ⟨mkOsc oscMin 0, false⟩
    else
      let l := gridOf 25 (fun p =>
        let n := Iv.add (Iv.sq (re p)) (Iv.sq (im p))
        if n.lo.m ≤ 0 then ⟨⟨0, 0⟩, ⟨2 ^ 20, 0⟩⟩
        else
          let a := (log2Iv n.lo p).lo
          let b := (log2Iv n.hi p).hi
          ⟨⟨a.m, a.e - 1⟩, ⟨b.m, b.e - 1⟩⟩)
      let f : Int := match bisect with
        | some j =>
          -- the angle halfway between two points of one amplitude
          let d0 : Int := ((phi : Int) - j * 2 ^ 29) % 2 ^ 32
          let d := if d0 > 2 ^ 31 then d0 - 2 ^ 32 else d0
          halfRne (2 * (j * 2 ^ 29) + d)
        | none =>
          agree (fun p =>
            let r := re p
            let i := im p
            let a1 := argIv r.lo i.lo p
            let a2 := argIv r.lo i.hi p
            let a3 := argIv r.hi i.lo p
            let a4 := argIv r.hi i.hi p
            let k := fun (d : Dy) => rneScaled d 0 % 2 ^ 32
            let z := decide (r.lo.m = 0 ∧ i.lo.m = 0) || decide (r.hi.m = 0 ∧ i.hi.m = 0) || decide (r.lo.m = 0 ∧ i.hi.m = 0)
              || decide (r.hi.m = 0 ∧ i.lo.m = 0)
            let all := k a1.hi == k a1.lo && k a2.lo == k a1.lo && k a2.hi == k a1.lo && k a3.lo == k a1.lo && k a3.hi == k a1.lo
              && k a4.lo == k a1.lo && k a4.hi == k a1.lo
            (k a1.lo, if all && !z then k a1.lo else -1)) 0 precisions
      fin l f

/-- INPUT on an advanced coordinate (R205). -/
def input (e : LawEntry) (c x : Word) : InRes :=
  match e.kind with
  | 1 => inputLeak c (x.extractLsb' 0 32)
  | 2 => inputRamp e c (x.extractLsb' 0 32)
  | 3 => inputOsc c x
  | _ => ⟨c, false⟩

-- thresholds and crossings (R207, R208)

/-- The threshold is met by a coordinate. -/
def thrMet (e : LawEntry) (t : ThrEntry) (c : Word) : Bool :=
  match e.kind with
  | 1 => !t.sel && (leakNeg t.thr == leakNeg c) &&
      (if t.up then decide (leakLam c ≥ leakLam t.thr) else decide (leakLam c ≤ leakLam t.thr))
  | 2 => !t.sel && (if t.up then decide (c.toInt ≥ t.thr.toInt) else decide (c.toInt ≤ t.thr.toInt))
  | 3 => !t.sel && (if t.up then decide (oscLam c ≥ oscLam t.thr) else decide (oscLam c ≤ oscLam t.thr))
  | _ => false

/-- Distance D and rate r of the time-driven crossing, when there is one (R208); D is 0 where the threshold is met already. -/
def crossing (e : LawEntry) (t : ThrEntry) (c : Word) : Option (Nat × Nat) :=
  match e.kind, t.sel, t.up with
  | 1, false, false =>
    if kappaLeak e > 0 ∧ leakNeg t.thr = leakNeg c then some ((leakLam c - leakLam t.thr).toNat, (kappaLeak e).toNat) else none
  | 2, false, false =>
    if e.p0.toInt < 0 ∧ t.thr.toInt ≥ rampLo e then some ((c.toInt - t.thr.toInt).toNat, (-e.p0.toInt).toNat) else none
  | 2, false, true =>
    if e.p0.toInt > 0 ∧ t.thr.toInt ≤ rampHi e then some ((t.thr.toInt - c.toInt).toNat, e.p0.toInt.toNat) else none
  | 3, false, false =>
    if kappaOsc e > 0 then some ((oscLam c - oscLam t.thr).toNat, (kappaOsc e).toNat) else none
  | 3, true, _ =>
    if omega_ e > 0 then some (((oscPhi t.thr + 2 ^ 32 - oscPhi c - 1) % 2 ^ 32) + 1, omega_ e) else none
  | _, _, _ => none
/-- Units from the arming to the k-th crossing (R208). -/
def dcOf (d r k : Nat) : Nat := (d + (k - 1) * 2 ^ 32 + r - 1) / r

-- the Rooster (R209)

/-- A state word at its home law unit: the unit, the partition, the global-equivalent address, where its bytes are. -/
structure WordAt where
  l : Nat
  part : Nat
  addr : Word
  key : Nat
  deriving DecidableEq, Repr
def roosterCap (l : Nat) : Nat := if l < 4096 then 2048 else 16384
def isEntry (w : WordAt) (r : Rooster) : Bool := r.part == w.part && r.addr == w.addr
def State.roosterOf (s : State) (w : WordAt) : Option Rooster := (s.getLaw w.l).rooster.find? (isEntry w)
def State.dropRooster (s : State) (w : WordAt) : State :=
  s.setLaw w.l { s.getLaw w.l with rooster := (s.getLaw w.l).rooster.filter (fun r => !isEntry w r) }
/-- Room for the word's entry: it has one, or the Rooster is not full. -/
def State.roosterRoom (s : State) (w : WordAt) : Bool :=
  (s.roosterOf w).isSome || decide ((s.getLaw w.l).rooster.length < roosterCap w.l)
def State.putRooster (s : State) (w : WordAt) (r : Rooster) : State :=
  let t := s.dropRooster w
  t.setLaw w.l { t.getLaw w.l with rooster := (t.getLaw w.l).rooster ++ [r] }
def State.wordOf (s : State) (w : WordAt) : Sw := swOf (s.read w.key 8) (s.read (w.key + 8) 8)
def State.putWord (s : State) (w : WordAt) (v : Sw) : State := (s.write w.key 8 v.coord).write (w.key + 8) 8 (swHigh v)
/-- A swap-out record of the law unit covers the word (R230). -/
def State.swapped (s : State) (w : WordAt) : Bool :=
  (s.getLaw w.l).swaps.any (fun r => r.part == w.part && decide (r.base.toNat ≤ w.addr.toNat) && decide (w.addr.toNat < r.base.toNat + r.len))

/-- An entry due at unit `due` of the law (in ticks for the architected base). -/
def mkRooster (w : WordAt) (e : LawEntry) (v : Sw) (due : Int) (k d r : Nat) (armed : Int) : Rooster :=
  { part := w.part, addr := w.addr, idx := v.alarm, gen := v.gen, due := if e.step then due else due * 2 ^ e.shift,
    ctr := if e.step then some e.ctr else none, k := k, dist := d, rate := r, armed := armed }
def dueUnits (e : LawEntry) (r : Rooster) : Int := if e.step then r.due else r.due / 2 ^ e.shift

/-- The absolute unit of the word's last re-base, which may lie before unit 0 (R200). -/
def stampAbs (t : Nat) (v : Sw) : Int := (t : Int) - ((t + 2 ^ 40 - v.stamp) % 2 ^ 40 : Nat)

/-- The next crossing of an armed, unfired word, in units: from its Rooster entry, else from the word (R208, R216). -/
def State.nextCrossing (s : State) (w : WordAt) (e : LawEntry) (th : ThrEntry) (t : Nat) (v : Sw) : Option Int :=
  let own := (crossing e th (advance e v.coord 0)).map (fun dr => stampAbs t v + dcOf dr.1 dr.2 1)
  match s.roosterOf w with
  | some r => if r.gen = v.gen then some (dueUnits e r) else own
  | none => own
/-- The word's coordinate at unit tc, at time t. -/
def coordAt (e : LawEntry) (t : Nat) (v : Sw) (tc : Int) : Word := advance e v.coord (tc - stampAbs t v).toNat

/-- ORIGIN_UNIT of a post (R211). -/
def State.lawOrigin (s : State) (p l : Nat) : Nat × Nat :=
  if l < 4096 then (s.originNode p l, s.cidOf p l) else ((s.logStack p (l - 4096)).getD 0, 0x20)

/-- The ALARM message of a crossing (R211). -/
def State.alarmMsg (s : State) (w : WordAt) (e : LawEntry) (th : ThrEntry) (v : Sw) (tc : Int) (c : Word) (path : Nat) (late : Bool) : Msg :=
  let o := s.lawOrigin w.part w.l
  { kind := 3, onode := o.1, ounit := o.2, lid := th.lid, part := w.part, hpc := th.hpc,
    pay := [w.addr, BitVec.ofInt 64 (if e.step then tc else tc * 2 ^ e.shift), c, obs e c, th.cookie,
      BitVec.ofNat 64 (v.alarm + v.gen.toNat * 2 ^ 8 + (if late then 2 ^ 10 else 0) + path * 2 ^ 12 + (if e.step then 2 ^ 16 else 0))] }

/-- Room in the post queue (R212). -/
def State.postRoom (s : State) (l : Nat) : Bool := decide ((s.getLaw l).posts.length < 16)

/-- A word re-based at unit t with a coordinate (R223). -/
def rebase (v : Sw) (c : Word) (t : Int) : Sw := { v with coord := c, stamp := (t % 2 ^ 40).toNat }
/-- Posts one crossing at unit tc, where the word's coordinate is c. Under REARM of a phase threshold the next crossing is entered (R210);
a full Rooster re-bases the word at this crossing instead, so that its next crossing is the next one (R202, R232). -/
def State.post (s : State) (w : WordAt) (e : LawEntry) (th : ThrEntry) (v : Sw) (tc : Int) (c : Word) (path : Nat) (late : Bool) : State × Sw :=
  let m := s.alarmMsg w e th v tc c path late
  let s1 := s.setLaw w.l { s.getLaw w.l with posts := (s.getLaw w.l).posts ++ [{ dest := th.core, msg := m }] }
  if v.rearm && th.sel then
    let v1 := { v with gen := v.gen + 1 }
    let next : Option Rooster := match (s.roosterOf w).filter (fun r => r.gen == v.gen) with
      | some r => some (mkRooster w e v1 (r.armed + dcOf r.dist r.rate (r.k + 1)) (r.k + 1) r.dist r.rate r.armed)
      | none => (crossing e th c).map (fun dr => mkRooster w e v1 (tc + dcOf dr.1 dr.2 1) 1 dr.1 dr.2 tc)
    match next with
    | some r => if s1.roosterRoom w then (s1.putRooster w r, v1) else (s1, rebase v1 c tc)
    | none => (s1.dropRooster w, rebase v1 c tc)
  else (s1.dropRooster w, { v with fired := true })

/-- Posts, in order, the crossings at or before t that the post queue has room for; true when one is still due (R210, R212). -/
def State.deliverGo (w : WordAt) (e : LawEntry) (th : ThrEntry) (t path : Nat) (late : Bool) : Nat → State → Sw → State × Sw × Bool
  | 0, s, v => (s, v, true)
  | n + 1, s, v =>
    if v.armed && !v.fired then
      match s.nextCrossing w e th t v with
      | none => (s, v, false)
      | some tc =>
        if tc ≤ t then
          if s.postRoom w.l then
            let r := s.post w e th v tc (coordAt e t v tc) path late
            State.deliverGo w e th t path late n r.1 r.2
          else (s, v, true)
        else (s, v, false)
    else (s, v, false)
/-- The word has an armed, unfired alarm that its law unit evaluates (R210, R216). DESIGN CHOICE (log 90): one whose threshold entry is not
in use (VALID = 0, or index 0) is not evaluated, as one whose law entry has VALID = 0 is not. -/
def evaluable (v : Sw) (e : LawEntry) (th : ThrEntry) : Bool := v.armed && !v.fired && e.valid && !v.top && th.valid
/-- The delivery check as far as the post queue has room; true when a crossing is still due. A queue holds 16 posts, so 17 turns end
it. -/
def State.deliverSome (s : State) (w : WordAt) (path : Nat) (late : Bool) : State × Bool :=
  let v := s.wordOf w
  let e := s.lawEntry w.part v.law
  let th := s.thrEntry w.l w.part v.alarm
  if evaluable v e th then
    let r := State.deliverGo w e th (s.nowu w.l w.part e) path late 17 s v
    (if r.2.1 = v then r.1 else r.1.putWord w r.2.1, r.2.2)
  else (s, false)
/-- DELIVERY_CHECK (R210, "any access"), whole; none when the access must wait for the post queue (R212). -/
def State.deliveryCheck (s : State) (w : WordAt) (path : Nat) (late : Bool) : Option State :=
  let r := s.deliverSome w path late
  if r.2 then none else some r.1

/-- Enters the word's crossing in the Rooster when it is armed, unfired and has a time-driven crossing ahead; a full Rooster leaves it
without an entry (R214, R216). -/
def State.enterRooster (s : State) (w : WordAt) : State :=
  let v := s.wordOf w
  let e := s.lawEntry w.part v.law
  let th := s.thrEntry w.l w.part v.alarm
  if evaluable v e th && !s.swapped w then
    let c := advance e v.coord 0
    let b := stampAbs (s.nowu w.l w.part e) v
    match crossing e th c with
    | some (d, r) => if s.roosterRoom w then s.putRooster w (mkRooster w e v (b + dcOf d r 1) 1 d r b) else s
    | none => s
  else s

/-- The word was armed for a launch, in its present phase (R351). -/
def State.setArm (s : State) (w : WordAt) (arm : Option (Nat × Nat)) : State :=
  let l := s.getLaw w.l
  let rest := l.arms.filter (fun a => !(a.part == w.part && a.addr == w.addr))
  s.setLaw w.l { l with arms := match arm with
    | some (lid, phase) => { part := w.part, addr := w.addr, lid := lid, phase := phase } :: rest
    | none => rest }
/-- The launch and phase that a write for launch lid arms a word in. -/
def State.armOf (s : State) (p lid : Nat) : Option (Nat × Nat) := (s.getLaunch p lid).map (fun l => (lid, l.phase))

/-- A word written by a swap-in or by raw bytes for launch lid is treated as a new word: a crossing at or before the present is posted with LATE set in
the word, one ahead is entered (R216, R229). None when the post must wait (R212). -/
def State.evalRaw (s : State) (lid : Nat) (w : WordAt) : Option State :=
  let v := s.wordOf w
  let s0 := (s.dropRooster w).setArm w (if v.armed && !v.fired then s.armOf w.part lid else none)
  let e := s0.lawEntry w.part v.law
  let th := s0.thrEntry w.l w.part v.alarm
  let t := s0.nowu w.l w.part e
  if evaluable v e th then
    match s0.nextCrossing w e th t v with
    | none => some s0
    | some tc =>
      if tc > t then some (s0.enterRooster w)
      else if !s0.postRoom w.l then none
      else
        let r := s0.post w e th v tc (coordAt e t v tc) 3 true
        some (r.1.putWord w { r.2 with late := true })
  else some s0

/-- The word's global-equivalent form for a scratchpad (R165). -/
def State.scratchWord (s : State) (p core a : Nat) : WordAt :=
  let lc := (s.logCluster p (core / 16)).getD 0
  let k := (s.logCore p lc (core % 16)).getD 0
  { l := core, part := p, addr := globalAddr (0x10 + lc) (k * 0x80000 + a / 16 * 16), key := scratchKey core (a / 16 * 16) }

/-- The registrations of a stack that its sweep visits, in their order: not one whose registering pass still runs (R285, R331). -/
def State.sweptRegs (s : State) (g : Nat) : List SwReg :=
  let x := s.getStack g
  x.regs.filter (fun r => !x.swq.any (fun o => o.entered && o.part == r.part && (match o.kind with
    | .swreg base n true => base == r.base && n == r.nwords
    | _ => false)))
/-- A registered region of a stack covers the address (R285). -/
def State.registered (s : State) (g p : Nat) (addr : Word) : Bool :=
  (s.getStack g).regs.any (fun r => r.part == p && decide (r.base.toNat ≤ addr.toNat) && decide (addr.toNat < r.base.toNat + 16 * r.nwords))

/-- A write into the range of a swap-out record removes it (R230). -/
def State.dropSwaps (s : State) (l p : Nat) (a n : Nat) : State :=
  if (s.getLaw l).swaps.isEmpty then s
  else s.setLaw l { s.getLaw l with swaps := (s.getLaw l).swaps.filter (fun r =>
    !(r.part == p && decide (r.base.toNat < a + n) && decide (a < r.base.toNat + r.len))) }

/-- Evaluates each word of a list; none when some post must wait. -/
def State.evalAll (lid : Nat) : State → List WordAt → Option State
  | s, [] => some s
  | s, w :: ws => (s.evalRaw lid w).bind (fun t => State.evalAll lid t ws)

/-- What a raw write of n bytes at byte a of a core's scratchpad for launch lid starts (R229, R230); none when a post must wait. Each write
evaluates the words that it touches: a copy by 4-byte elements evaluates a word at each of them (R229; log 93). -/
def State.rawScratch (s : State) (p lid core a n : Nat) : Option State :=
  let g := (s.scratchWord p core a).addr.toNat + a % 16
  let s1 := s.dropSwaps core p g n
  let ws := (List.range ((a + n + 15) / 16 - a / 16)).map (fun i => (a / 16 + i) * 16)
  let ws := ws.filter (fun b => s.isState core b)
  State.evalAll lid s1 (ws.map (fun b => s.scratchWord p core b))

/-- What a raw write of n bytes to the site that address addr of stack g names starts, likewise; `key` maps an offset from it to its place. -/
def State.rawStack (s : State) (p lid g : Nat) (addr : Word) (key : Nat → Nat) (n : Nat) : Option State :=
  if (s.getStack g).regs.isEmpty then some s
  else
    let l := 4096 + g
    let s1 := s.dropSwaps l p addr.toNat n
    let lo := addr.toNat / 16
    let ws := (List.range ((addr.toNat + n + 15) / 16 - lo)).map (fun i => (lo + i) * 16)
    let ws := ws.filter (fun b => s.registered g p (BitVec.ofNat 64 b))
    State.evalAll lid s1 (ws.map (fun b => { l := l, part := p, addr := BitVec.ofNat 64 b, key := key 0 + b - addr.toNat }))

/-- A word of law unit l by its global-equivalent address; none while it cannot be reached. DESIGN CHOICE (log 92): a Rooster entry keeps its
word though the word's bank is no longer a STATE bank. -/
def State.wordAt (s : State) (l p : Nat) (addr : Word) : Option WordAt :=
  let off := addr.toNat % 2 ^ 48
  if l < 4096 then some { l := l, part := p, addr := addr, key := scratchKey l (off % 0x80000) }
  else match s.translate p (addr.toNat / 2 ^ 48 % 256) off 16 .any with
    | .ok t => some { l := l, part := p, addr := addr, key := s.siteBase p t }
    | .error _ => none
/-- Law unit l holds an armed, unfired word of an arming that has a crossing still to come, and that no swap-out record covers (R351). -/
def State.armedYet (s : State) (l : Nat) (a : Arming) : Bool :=
  match s.wordAt l a.part a.addr with
  | none => false
  | some w =>
    let v := s.wordOf w
    let e := s.lawEntry w.part v.law
    let th := s.thrEntry l w.part v.alarm
    evaluable v e th && !s.swapped w && (s.nextCrossing w e th (s.nowu l w.part e) v).isSome

end Sys2Proof.Machine
end

