-- ==== Sys2Proof/Machine/Operands.lean ====
section
/-! DEFINITION. Operand forms: immediates (R43, R60), the target of an address with its checks in the order of R154, range locks (R289)
and the checks of timed accesses (R33, R156, R157). -/

namespace Sys2Proof.Machine

-- immediates

def sx12 (imm : BitVec 12) : Word := imm.signExtend 64
/-- Under EXT the follower's immediate is E and its own 12 bits (R60). -/
def sxExt (e : BitVec 20) (imm : BitVec 12) : Word := (e ++ imm).signExtend 64
/-- A branch offset from its bits 12:1. -/
def branchOff (imm : BitVec 12) : Word := (imm ++ 0#1).signExtend 64
/-- A jump offset from its bits 20:1. -/
def jumpOff (imm : BitVec 20) : Word := (imm ++ 0#1).signExtend 64
def upper (imm : BitVec 20) : Word := (imm ++ 0#12).signExtend 64

-- targets

/-- What a checked address names. -/
inductive Spot
  | scratch (core a : Nat)
  | sram (i a : Nat)
  | mmio (a : Nat)
  | global (node off : Nat)
  deriving DecidableEq, Repr

/-- A cause and its tval. -/
abbrev Cause := Nat × Word

/-- The logical cluster of the unit in focus, in its partition. -/
def State.myLog (s : State) : Option Nat := s.logCluster s.cur.part (s.focus / 16)
/-- The global-equivalent address of byte a of a core's scratchpad (R165). -/
def State.geq (s : State) (p core a : Nat) : Word :=
  let lc := (s.logCluster p (core / 16)).getD 0
  globalAddr (0x10 + lc) ((s.logCore p lc (core % 16)).getD 0 * 0x80000 + a)
/-- Local MMIO that every level may read whatever the region table holds (R19, R23, R32, R287, R350, R400). -/
def mmioOpen (a n : Nat) : Bool :=
  let within := fun lo hi => decide (lo ≤ a) && decide (a + n ≤ hi)
  within 0x1FFF000 0x1FFF004 || within 0x1FFD000 0x1FFD100 || within 0x1001000 0x1001800 || within 0x1FBF000 0x1FBF008
  || within 0x1FA0000 0x1FA0010 || within 0x1FA0100 0x1FA0180
/-- Row 3 of R154 for a local target that the region table covers (R23): U mode needs the grants. -/
def State.localOk (s : State) (a n : Nat) (need : Need) : Bool :=
  if s.cur.priv ≠ .u then true
  else match s.myLog with
    | none => false
    | some lc => s.grantedRange s.cur.part lc a n need.reads need.writes

/-- Rows 2 and 3 of R154 for n bytes at an address, by the unit in focus. -/
def State.resolve (s : State) (addr : Word) (n : Nat) (need : Need) : Except Cause Spot :=
  if addr.toNat % n ≠ 0 then .error (1, addr)
  else match classify (isSc s.focus) addr with
    | .own a => if isSc s.focus then .ok (.sram (s.focus - 2048) a) else if isCore s.focus then .ok (.scratch s.focus a) else .error (2, addr)
    | .nowhere => .error (2, addr)
    | .window c a =>
      match s.myLog.bind (fun lc => s.physCore s.cur.part lc c) with
      | none => .error (2, addr)
      | some core => if s.localOk addr.toNat n need then .ok (.scratch core a) else .error (2, addr)
    | .mmio a =>
      -- the lifetime records, which every level may read, are the management core's too (R98, R409)
      if s.focus = 2304 ∧ 0x1F90000 ≤ a ∧ a < 0x1F90600 then .ok (.mmio a)
      else if !isCore s.focus then .error (2, addr)
      else if s.localOk a n need || (need = .r && mmioOpen a n) then .ok (.mmio a) else .error (2, addr)
    | .global node off => if (s.home s.cur.part node off).isSome then .ok (.global node off) else .error (5, BitVec.ofNat 64 node)

/-- The global-equivalent address of a target, for locks, objects and bindings (R165). -/
def State.spotGeq (s : State) (t : Spot) : Word :=
  match t with
  | .scratch core a => s.geq s.cur.part core a
  | .global node off => globalAddr node off
  | .sram _ a => BitVec.ofNat 64 a
  | .mmio a => BitVec.ofNat 64 a

/-- A lock covers a byte: it lies in the span and in no chunk that has left it (R289). -/
def lockCovers (l : Lock) (a : Nat) : Bool :=
  decide (l.base ≤ a) && decide (a < l.base + l.len) && !l.cuts.any (fun c => decide (l.base + c.1 ≤ a) && decide (a < l.base + c.1 + c.2))
/-- A lock of the cluster's table stops an access of n bytes at a global-equivalent address (R289). -/
def lockHits (p a n : Nat) (write : Bool) (l : Lock) : Bool :=
  l.part == p && (write || l.dst) && decide (l.base < a + n) && decide (a < l.base + l.len)
    && (l.cuts.isEmpty || (List.range n).any (fun i => lockCovers l (a + i)))
def State.locked (s : State) (a n : Nat) (write : Bool) : Bool :=
  isCore s.focus && (s.getCluster (s.focus / 16)).locks.any (lockHits s.cur.part a n write)
/-- Row 7 of R154 for a target. -/
def State.spotLocked (s : State) (t : Spot) (n : Nat) (write : Bool) : Bool :=
  match t with
  | .scratch _ _ | .global _ _ => s.locked (s.spotGeq t).toNat n write
  | _ => false

/-- Rows 2, 3 and 7 of R154. -/
def State.access (s : State) (addr : Word) (n : Nat) (need : Need) : Except Cause Spot :=
  match s.resolve addr n need with
  | .error e => .error e
  | .ok t => if s.spotLocked t n need.writes then .error (0xD, addr) else .ok t

-- timed accesses (R33, R156, R157)

/-- CLKSTAT of a die (R32). DESIGN CHOICE (log 100): OFFSET keeps the low 16 bits of an offset that does not fit. -/
def State.clkstat (s : State) (d : Nat) : Word :=
  let x := s.getDie d
  (BitVec.ofInt 16 x.offset ++ BitVec.ofNat 8 x.missed ++ 0#3 ++ BitVec.ofBool x.peerLock ++ BitVec.ofBool x.bell ++ 0#1 ++ BitVec.ofNat 2 (s.clkState d) : BitVec 32).setWidth 64

/-- LEAD of a target (R157): by the physical place of its home. -/
def State.lead (s : State) (t : Spot) : Nat :=
  let byCluster := fun (pc : Nat) =>
    if isCore s.focus && pc == s.focus / 16 then 400
    else if isCore s.focus && pc / 32 == s.focus / 512 then 1600 else 3200
  let byCore := fun (core : Nat) => if core = s.focus then 64 else byCluster (core / 16)
  match t with
  | .scratch core _ => byCore core
  | .global node off =>
    match s.home s.cur.part node off with
    | some (.cluster pc lc) => match s.physCore s.cur.part lc (off / 0x80000) with
      | some core => byCore core
      | none => byCluster pc
    | some (.peer _) => 24000
    | _ => 3200
  | _ => 3200

/-- Rows 4 to 6 of R154 for an access at time tm. -/
def State.timedCheck (s : State) (addr : Word) (t : Spot) (store : Bool) (tm : Word) : Option Cause :=
  let d := dieOf s.focus
  let dist := (tm - s.atime).toInt
  let untimed := match t with
    | .sram _ _ | .mmio _ => true
    | .global node _ => isHostNode node
    | _ => false
  let peer := match t with
    | .global node _ => isPeerNode node
    | _ => false
  if untimed then some (0x19, addr)
  else if s.clkState d = 0 || (peer && !(s.getDie d).peerLock) then some (0x11, s.clkstat d)
  else if dist > 2 ^ 32 then some (0xA, tm)
  else if store && decide (dist < s.lead t) then some (9, BitVec.ofNat 64 (s.lead t))
  else none

end Sys2Proof.Machine
end

