-- ==== Sys2Proof/Machine/Read.lean ====
section
/-! DEFINITION. Reading at a home: raw bytes of scratchpads, stacks and hosts. -/

namespace Sys2Proof.Machine

/-- Bytes read at a translated site; a peer's are free values. -/
def State.readSite (s : State) (p : Nat) (t : Site) (n : Nat) : List Byte × State :=
  match t.home with
  | .peer _ => s.freeBytes n
  | _ => (s.readBytes (s.siteKey p t) n, s)

-- ranges of an address, in pieces that never cross a 64-byte line (engines, records)

/-- Why a range access failed: the failure, the address it names, and the bytes done before it. -/
structure RFail where
  f : TFail
  addr : Word
  done : Nat
  deriving DecidableEq, Repr

/-- Bytes of the next piece. -/
def pieceLen (a n : Nat) : Nat := min n (64 - a % 64)
/-- Reads n bytes at a global address for partition p, in at most `fuel` pieces. -/
def State.readGlobalGo (p : Nat) : Nat → State → Nat → Nat → Nat → Except RFail (List Byte) × State
  | 0, s, _, _, _ => (.ok [], s)
  | fuel + 1, s, addr, n, cnt =>
    if n = 0 then (.ok [], s)
    else
      let k := pieceLen addr n
      match s.translate p (addr / 2 ^ 48 % 256) (addr % 2 ^ 48) k .r with
      | .error e => (.error ⟨e, BitVec.ofNat 64 addr, cnt⟩, s.fill p (addr / 2 ^ 48 % 256) (addr % 2 ^ 48))
      | .ok t =>
        let r := (s.fill p (addr / 2 ^ 48 % 256) (addr % 2 ^ 48)).readSite p t k
        match State.readGlobalGo p fuel r.2 (addr + k) (n - k) (cnt + k) with
        | (.ok bs, s2) => (.ok (r.1 ++ bs), s2)
        | (.error e, s2) => (.error e, s2)
def State.readGlobal (s : State) (p : Nat) (addr : Word) (n : Nat) : Except RFail (List Byte) × State :=
  State.readGlobalGo p (n / 64 + 2) s addr.toNat n 0

end Sys2Proof.Machine
end

