-- ==== Sys2Proof/Machine/Burst.lean ====
section
/-! DEFINITION. Requests that meet a burst, or the scratchpad of a suspended partition: RETRY and its tickets (R302, R303, R333, R364).
A port is a stack and a pseudo-channel, or 8192 + a cluster and 16*(partition) + the column of a core. -/

namespace Sys2Proof.Machine

def State.ticketsAt (s : State) (k : Nat) : List Ticket := if k < 8192 then (s.getStack k).tickets else (s.getCluster (k - 8192)).tickets
def State.setTickets (s : State) (k : Nat) (ts : List Ticket) : State :=
  if k < 8192 then s.setStack k { s.getStack k with tickets := ts } else s.setCluster (k - 8192) { s.getCluster (k - 8192) with tickets := ts }
/-- A request takes the next ticket of a port. -/
def State.takeTicket (s : State) (k c src : Nat) (r : ReqId) : State :=
  let t := fun (n : Nat) => { num := n, turn := n, pch := c, src := src, req := r, sent := s.now : Ticket }
  if k < 8192 then
    (let x := s.getStack k
    s.setStack k { x with tickets := x.tickets ++ [t x.nextTicket], nextTicket := x.nextTicket + 1 })
  else
    let x := s.getCluster (k - 8192)
    s.setCluster (k - 8192) { x with tickets := x.tickets ++ [t x.nextTicket], nextTicket := x.nextTicket + 1 }
/-- The port of a translated site; none for a host or a peer. -/
def State.portOf (s : State) (p : Nat) (t : Site) : Option (Nat × Nat) :=
  match t.home with
  | .stack g => some (g, s.siteBase p t / 256 % 128)
  | .cluster pc lc => some (8192 + pc, 16 * p + ((s.physCore p lc (t.off / 0x80000)).getD 0) % 16)
  | _ => none
/-- Stack and pseudo-channel of a translated site; none off the stacks. -/
def State.pchOf (s : State) (p : Nat) (t : Site) : Option (Nat × Nat) :=
  match t.home with
  | .stack g => some (g, s.siteBase p t / 256 % 128)
  | _ => none
/-- A port answers RETRY: a burst runs in the pseudo-channel, or the core's partition is suspended (R303, R364). -/
def State.bursting (s : State) (k c : Nat) : Bool := if k < 8192 then (s.getPch k c).burst.isSome else s.suspended (c / 16)
def State.ticketOf (s : State) (k : Nat) (r : ReqId) : Option Ticket := (s.ticketsAt k).find? (fun t => t.req == r)
/-- A source has a ticketed request at a home that has not been applied. -/
def State.hasTickets (s : State) (k src : Nat) : Bool := (s.ticketsAt k).any (fun t => t.src == src)
/-- The port or its network interface answers the request with RETRY (R303). `posted` marks untimed stores, posted atomics and
releases. -/
def State.retries (s : State) (k c src : Nat) (r : ReqId) (posted : Bool) : Bool :=
  match s.ticketOf k r with
  | some t => t.back && s.bursting k c
  | none => s.bursting k c || (posted && s.hasTickets k src)
/-- Tickets of the last burst still stand before new arrivals and before the next burst. -/
def State.windowOpen (s : State) (k c : Nat) : Bool :=
  (decide (8192 ≤ k) || (s.getPch k c).window) && (s.ticketsAt k).any (fun t => t.pch == c && !t.clear)
/-- The request is served now: no burst runs, its ticket's turn has come, and a new arrival, or a ticketed request that its window has
left behind, stands behind the tickets; the posted requests of one source keep their order (R303). -/
def State.serves (s : State) (k c src : Nat) (r : ReqId) (posted : Bool) : Bool :=
  let ts := s.ticketsAt k
  !s.bursting k c &&
  match s.ticketOf k r with
  | some t => t.back && (if t.clear then !s.windowOpen k c else ts.all (fun o => !(o.pch == c && decide (o.turn < t.turn) && !o.clear)))
      && (!posted || ts.all (fun o => !(o.src == src && decide (o.num < t.num))))
  | none => !s.windowOpen k c && !(posted && s.hasTickets k src)
/-- The host or peer link, by R409's number, that an access to a site crosses. -/
def State.siteLink (s : State) (p : Nat) (t : Site) : Option Nat :=
  match t.home with
  | .peer _ => some (2 + s.peerLink p t.node)
  | .host n => some n
  | _ => none
/-- A home that serves: a host's or peer's link is up (R395, R407). -/
def State.homeUp (s : State) (p : Nat) (t : Site) : Bool := (s.siteLink p t).all (fun l => (look link0 s.dev.links l).isNone)
/-- As `serves`, for any site. -/
def State.servesSite (s : State) (p : Nat) (t : Site) (src : Nat) (r : ReqId) (posted : Bool) : Bool :=
  match s.portOf p t with
  | some (k, c) => s.serves k c src r posted
  | none => true
/-- Port k answers a request again: the ticket that it has goes back with it, or a new one where the window of that one has ended. -/
def State.resendTicket (s : State) (k : Nat) (r : ReqId) : State :=
  let next := if k < 8192 then (s.getStack k).nextTicket else (s.getCluster (k - 8192)).nextTicket
  let old := (s.ticketOf k r).any (·.clear)
  let one := fun (t : Ticket) => if t.req = r then { t with back := false, sent := s.now, clear := false, turn := if t.clear then next else t.turn } else t
  let s1 := s.setTickets k ((s.ticketsAt k).map one)
  if !old then s1
  else if k < 8192 then s1.setStack k { s1.getStack k with nextTicket := next + 1 }
  else s1.setCluster (k - 8192) { s1.getCluster (k - 8192) with nextTicket := next + 1 }
/-- A served request gives up its ticket. -/
def State.dropTicket (s : State) (k : Nat) (r : ReqId) : State :=
  if (s.ticketsAt k).any (fun t => t.req == r) then s.setTickets k ((s.ticketsAt k).filter (fun t => t.req != r)) else s
def State.dropTicketSite (s : State) (t : Site) (r : ReqId) : State :=
  match t.home with
  | .stack g => s.dropTicket g r
  | .cluster pc _ => s.dropTicket (8192 + pc) r
  | _ => s
/-- The sites of a global range, 256 bytes at a time, and the ports it touches. -/
def State.rangeSites (s : State) (p : Nat) (addr : Word) (n : Nat) : List Site :=
  (List.range ((addr.toNat % 256 + n + 255) / 256)).filterMap (fun i =>
    let a := if i = 0 then addr.toNat else addr.toNat / 256 * 256 + 256 * i
    (s.translate p (a / 2 ^ 48 % 256) (a % 2 ^ 48) 1 .any).toOption)
def State.rangePorts (s : State) (p : Nat) (addr : Word) (n : Nat) : List (Nat × Nat) := (s.rangeSites p addr n).filterMap (s.portOf p)
/-- Some piece of a global range lies at a port that answers RETRY (R303). -/
def State.rangeBursting (s : State) (p : Nat) (addr : Word) (n : Nat) : Bool := (s.rangePorts p addr n).any (fun k => s.bursting k.1 k.2)
/-- Some page of a global range misses and cannot be walked now. -/
def State.rangeWalks (s : State) (p : Nat) (addr : Word) (n : Nat) : Bool :=
  (List.range ((addr.toNat % 4096 + n + 4095) / 4096)).any (fun i =>
    let a := if i = 0 then addr.toNat else addr.toNat / 4096 * 4096 + 4096 * i
    s.walkHeld p (a / 2 ^ 48 % 256) (a % 2 ^ 48))
/-- As `rangeBursting`, or a piece's home does not serve, or its page cannot be walked yet: a fetch or a read of a record waits. -/
def State.rangeHeld (s : State) (p : Nat) (addr : Word) (n : Nat) : Bool :=
  s.rangeBursting p addr n || s.rangeWalks p addr n || (s.rangeSites p addr n).any (fun t => !s.homeUp p t)
/-- Every piece of a global range is served to a request now. -/
def State.rangeServes (s : State) (p : Nat) (addr : Word) (n src : Nat) (r : ReqId) : Bool :=
  !s.rangeWalks p addr n && (s.rangePorts p addr n).all (fun k => s.serves k.1 k.2 src r false)
/-- A request over a global range gives up its tickets. -/
def State.dropTicketRange (s : State) (p : Nat) (addr : Word) (n : Nat) (r : ReqId) : State :=
  (s.rangePorts p addr n).foldl (fun t k => t.dropTicket k.1 r) s

end Sys2Proof.Machine
end

