-- ==== Sys2Proof/Machine/Choice.lean ====
section
/-! DEFINITION. Order-sensitive choices: the order log and replay (R353-R355). -/

namespace Sys2Proof.Machine

def detLog (d : Word) : Bool := d.getLsbD 1
def detReplay (d : Word) : Bool := d.getLsbD 2
def detBase (d : Word) : Word := d &&& 0xFFFFFFFFFFFFF000#64
def detSize (d : Word) : Nat := 2 ^ ((d.extractLsb' 8 4).toNat + 12)
/-- UNIT of a record: a cluster's engine, scheduler or queues by logical cluster, a core by cid, stack units from 0x800 (R353). -/
def State.logCore_ (s : State) (p u : Nat) : Nat :=
  if isSc u then 0x800 + 32 * (s.logStack p (stackOf u)).getD 0 + (u - 2048) % 32 else s.cidOf p u
def State.logEngine (s : State) (p : Nat) (stack : Bool) (n : Nat) : Nat :=
  if stack then 0x800 + 32 * (s.logStack p n).getD 0 else (s.logCluster p n).getD 0
/-- Doubleword 0 of a record. -/
def logWord0 (kind unit lid seq : Nat) : Word := BitVec.ofNat 64 (kind * 2 ^ 60 + unit % 4096 * 2 ^ 48 + lid % 256 * 2 ^ 40 + seq % 2 ^ 32)
/-- The unit that makes choices of a kind: an engine, an inbox, a cluster's scheduler with its queues, or the dispatcher. Units of
different kinds may have one number, and each keeps its own SEQ (R353). -/
def unitKey (kind unit : Nat) : Nat := 2 ^ 16 * (if kind = 4 then 3 else kind) + unit

/-- The record of a unit with the next SEQ, as it stands in the ring: its KIND and CHOICE. -/
def State.nextRecord (s : State) (p : Nat) (l : Launch) (kind unit : Nat) : Option (Nat × Word) :=
  let seq := look nat0 l.seqs (unitKey kind unit)
  let n := detSize l.detctl / 16
  let rd := fun (i : Nat) => match (s.readGlobal p (detBase l.detctl + BitVec.ofNat 64 (16 * i)) 16).1 with
    | .ok bs => some (natOfBytes (bs.take 8), BitVec.ofNat 64 (natOfBytes (bs.drop 8)))
    | .error _ => none
  (List.range n).findSome? (fun i => match rd i with
    | some (a, c) =>
      if a / 2 ^ 60 ≠ 0 ∧ unitKey (a / 2 ^ 60) unit = unitKey kind unit ∧ a % 2 ^ 60 = (logWord0 0 unit l.lid seq).toNat
      then some (a / 2 ^ 60, c) else none
    | none => none)

/-- Where the next record of the ring goes; none while the ring is full, or while its page fails translation or meets a burst. -/
def State.logSite (s : State) (p : Nat) (l : Launch) : Option Site :=
  let x := s.getPart p
  let a := detBase l.detctl + BitVec.ofNat 64 (x.logTail.toNat % detSize l.detctl)
  if x.logTail.toNat - x.logHead.toNat ≥ detSize l.detctl ∨ s.rangeBursting p a 16 then none
  else (s.translate p (a.toNat / 2 ^ 48 % 256) (a.toNat % 2 ^ 48) 16 .w).toOption
/-- The record of a unit's choice is written, with its next SEQ; none while it must wait (R353). -/
def State.writeRecord (s : State) (p : Nat) (l : Launch) (kind unit : Nat) (choice : Word) : Option State :=
  (s.logSite p l).map (fun t =>
    let seq := look nat0 l.seqs (unitKey kind unit)
    let s1 := s.writeBytes (s.siteKey p t) (bytesOfNat 8 (logWord0 kind unit l.lid seq).toNat ++ bytesOfNat 8 choice.toNat)
    let s2 := s1.setLaunch p { l with seqs := put nat0 l.seqs (unitKey kind unit) (seq + 1) }
    let x := s2.getPart p
    let s3 := s2.setPart p { x with logTail := x.logTail + 16 }
    let mine := fun (g : Logged) => g.part == p && g.lid == l.lid && unitKey g.kind g.unit == unitKey kind unit
    { s3 with logged := s3.logged.filter (fun g => !mine g) ++ [{ part := p, lid := l.lid, kind := kind, unit := unit, seq := seq, choice := choice }] })

/-- What a replayed unit's next record says of a choice: nothing forces it, it is the one, it is another, or it can no longer arise. -/
inductive Forced
  | free
  | this
  | other (c : Word)
  | diverged
  deriving DecidableEq, Repr
/-- `gone` tells which logged choices of this kind can no longer arise (R355). -/
def State.forced (s : State) (p : Nat) (l : Launch) (kind unit : Nat) (choice : Word) (gone : Word → Bool) : Forced :=
  if !detReplay l.detctl || l.unforced.contains (unitKey kind unit) then .free
  -- the ring lies in a burst: the unit cannot read its next record yet
  else if s.rangeHeld p (detBase l.detctl) (detSize l.detctl) then .other 0
  else match s.nextRecord p l kind unit with
    | none => .diverged
    | some (k, c) => if k = kind ∧ c = choice then .this else if k = kind ∧ gone c then .diverged else .other c
/-- A unit takes a choice of a launch: with LOG, its record is written before; with REPLAY, the choice must be the logged one. none: the
choice waits. -/
def State.choose (s : State) (p lid kind unit : Nat) (choice : Word) (gone : Word → Bool) : Option State :=
  match s.getLaunch p lid with
  | none => some s
  | some l =>
    if detLog l.detctl then s.writeRecord p l kind unit choice
    else match s.forced p l kind unit choice gone with
      | .free => some s
      | .this =>
        let k := unitKey kind unit
        some (s.setLaunch p { l with seqs := put nat0 l.seqs k (look nat0 l.seqs k + 1) })
      | .other _ => none
      | .diverged =>
        some ((s.setLaunch p { l with unforced := unitKey kind unit :: l.unforced }).report p true
          { cause := 0, kind := 5, lid := lid, unit := unit, time := (s.atimeOf 0).toNat })
/-- One more request of a requester at a unit, for the counts of R354. -/
def countKey (kind unit src : Nat) : Nat := 2 ^ 40 * kind + 2 ^ 20 * unit + src
def State.reqCount (s : State) (p lid kind unit src : Nat) : Nat :=
  match s.getLaunch p lid with
  | some l => look nat0 l.counts (countKey kind unit src)
  | none => 0
def State.countReq (s : State) (p lid kind unit src : Nat) : State :=
  match s.getLaunch p lid with
  | some l => s.setLaunch p { l with counts := put nat0 l.counts (countKey kind unit src) (look nat0 l.counts (countKey kind unit src) + 1) }
  | none => s
/-- The launch keeps an order log or replays one. -/
def State.recorded (s : State) (p lid : Nat) : Bool :=
  match s.getLaunch p lid with
  | some l => detLog l.detctl || detReplay l.detctl
  | none => false

end Sys2Proof.Machine
end

