-- ==== Sys2Proof/Machine/Waits.lean ====
section
/-! DEFINITION. Object words and the wait lists of the atomic engines (R164, R166, R167): every write to an object word has its waiters
examined. Engines are numbered by cluster, or 4096 + stack. -/

namespace Sys2Proof.Machine

-- the object word (R164)

def xHeld (w : Word) : Bool := w.msb
def sharers (w : Word) : Nat := (w.extractLsb' 48 15).toNat
def objValue (w : Word) : Word := (w.extractLsb' 0 48).setWidth 64
def mkObj (x : Bool) (n : Nat) (v : Word) : Word := BitVec.ofBool x ++ BitVec.ofNat 15 n ++ v.extractLsb' 0 48
/-- An acquire is grantable on a word (R166); what stands ahead of it in the wait list is the scan's concern. -/
def grantable (f : AcqForm) (thr : Nat) (w : Word) : Bool :=
  match f with
  | .x => !xHeld w && sharers w == 0
  | .s => !xHeld w && decide (sharers w < 32767)
  | .w => !xHeld w && decide (sharers w < 32767) && decide ((objValue w).toNat ≥ thr)
def granted_ (f : AcqForm) (w : Word) : Word :=
  match f with
  | .x => mkObj true (sharers w) (objValue w)
  | _ => mkObj false (sharers w + 1) (objValue w)
/-- A release (R169). -/
def releasedWord (w : Word) (v : Option (BitVec 48)) : Word :=
  let nv := match v with
    | some x => x.setWidth 64
    | none => objValue w
  if xHeld w then mkObj false (sharers w) nv
  else mkObj false (if sharers w > 0 then sharers w - 1 else 0) nv

-- wait lists

def State.waitersOf (s : State) (e : Nat) : List Waiter :=
  if e < 4096 then (s.getCluster e).waiters else (s.getStack (e - 4096)).waiters
def State.setWaiters (s : State) (e : Nat) (ws : List Waiter) : State :=
  if e < 4096 then s.setCluster e { s.getCluster e with waiters := ws } else s.setStack (e - 4096) { s.getStack (e - 4096) with waiters := ws }
def waitCap (e : Nat) : Nat := if e < 4096 then 256 else 1024
/-- Position of a requester at an engine (R292, R332). -/
def State.position (s : State) (e p src : Nat) : Nat :=
  if e < 4096 then
    (if isCore src && src / 16 == e then 1 + ((s.logCluster p e).bind (fun c => s.logCore p c (src % 16))).getD 0 else 0)
  else if isSc src && stackOf src == e - 4096 then 1 + (src - 2048) % 32 else 0
/-- An engine's grant as a choice (R353, R354): taken at once when the launch records nothing. A logged grant can no longer arise once its
requester's count has passed it. -/
def State.grantChoice (s : State) (e p lid src : Nat) : Option State :=
  if s.recorded p lid then
    (let u := s.logEngine p (decide (e ≥ 4096)) (if e < 4096 then e else e - 4096)
    let k := s.position e p src
    (s.choose p lid 1 u (BitVec.ofNat 64 (k % 256 + s.reqCount p lid 1 u k * 2 ^ 8))
      (fun c => decide (c.toNat / 2 ^ 8 % 2 ^ 32 < s.reqCount p lid 1 u (c.toNat % 256)))).map (fun t => t.countReq p lid 1 u k))
  else some s
/-- The launch replays a log. -/
def State.replays (s : State) (p lid : Nat) : Bool :=
  match s.getLaunch p lid with
  | some l => detReplay l.detctl && !detLog l.detctl
  | none => false
/-- The law unit of the word at a place that an engine serves. -/
def lawOfLoc (e loc : Nat) : Nat := if e < 4096 then loc / 2 ^ 19 else e
/-- An engine writes an object word: the bytes as they stand, and a swap-out record over them goes (R164, R230). -/
def State.objWrite (s : State) (e p : Nat) (name : Word) (loc : Nat) (v : Word) : State :=
  (s.write loc 8 v).dropSwaps (lawOfLoc e loc) p name.toNat 8
/-- One pass over the waiters of an object (R167): stops at the first ACQ.X that cannot be granted, or that a replayed log keeps waiting. -/
def State.scanGo (e loc : Nat) : State → List Waiter → List Waiter → Bool → State × List Waiter
  | s, [], kept, _ => (s, kept)
  | s, w :: ws, kept, stopped =>
    if w.loc ≠ loc ∨ stopped then State.scanGo e loc s ws (kept ++ [w]) stopped
    else
      let word := s.read loc 8
      if grantable w.form w.thr word then
        match s.grantChoice e w.part w.lid w.src with
        -- a replayed log may name a waiter behind this one (R355); a grant that waits for room in the ring holds up the scan
        | none => State.scanGo e loc s ws (kept ++ [w]) (!s.replays w.part w.lid)
        | some t =>
          let t1 := t.objWrite e w.part w.name loc (granted_ w.form word)
          let t2 := t1.setUnit w.src { t1.getUnit w.src with wait := .value (objValue word) }
          State.scanGo e loc t2 ws kept false
      else State.scanGo e loc s ws (kept ++ [w]) (w.form = .x)
/-- A burst runs on the pseudo-channel of the word at a place that engine e serves (R333). -/
def State.burstAt (s : State) (e loc : Nat) : Bool := decide (4096 ≤ e) && (s.getPch (e - 4096) (loc / 256 % 128)).burst.isSome
/-- The engine scans the waiters of an object (R167); during a burst on the word's pseudo-channel it does not (R321, R333). -/
def State.scan (s : State) (e loc : Nat) : State :=
  if s.burstAt e loc then s
  else
    let r := State.scanGo e loc s (s.waitersOf e) [] false
    r.1.setWaiters e r.2
/-- After a write of n bytes, whose places `key` gives, the engine examines the waiters of every object word in them (R164, R167). -/
def State.wake (s : State) (e : Nat) (key : Nat → Nat) (n : Nat) : State :=
  let hit := fun (w : Waiter) => (List.range n).any (fun i => decide (w.loc ≤ key i) && decide (key i < w.loc + 8))
  (((s.waitersOf e).filter hit).map (·.loc)).eraseDups.foldl (fun t loc => t.scan e loc) s
/-- An acquire comes to its turn at its engine: granted, or it joins the wait list; none when the list is full, or when the grant must
wait for its record (R166, R167). The flag tells whether it was granted; the word is the object's before it. -/
def State.acquireAt (s : State) (e : Nat) (w : Waiter) : Option (Bool × Word × State) :=
  let ahead := (s.waitersOf e).any (fun o => o.loc == w.loc && o.form == .x)
  let word := s.read w.loc 8
  if !ahead && grantable w.form w.thr word then
    (s.grantChoice e w.part w.lid w.src).map (fun t => (true, word, t.objWrite e w.part w.name w.loc (granted_ w.form word)))
  else if (s.waitersOf e).length < waitCap e then some (false, word, s.setWaiters e (s.waitersOf e ++ [w]))
  else none
/-- A release is applied at its engine (R169), which then examines the object's waiters. -/
def State.releaseAt (s : State) (e p : Nat) (name : Word) (loc : Nat) (v : Option (BitVec 48)) : State :=
  (s.objWrite e p name loc (releasedWord (s.read loc 8) v)).scan e loc

end Sys2Proof.Machine
end

