-- ==== Sys2Proof/Machine/Home.lean ====
section
/-! DEFINITION. Writing at a home: raw bytes of scratchpads, stacks and hosts, with the launch digest (R352), the evaluation of state
words that a raw write touches (R229), and the waiters of object words in it (R164). -/

namespace Sys2Proof.Machine

-- timed stores that are due (R158, R160)

/-- The die of a visibility queue. -/
def portDie (port : Nat) : Nat := if port < 4096 then port / 512 else port - 4096
def State.visDue (s : State) (v : Vis) : Bool := decide (v.time.toNat ≤ (s.atimeOf (portDie v.port)).toNat)
/-- The place of an accepted timed store: its site, or the byte of its port's core that a local address names. -/
def visPlace (v : Vis) : Sum Site Nat :=
  match v.site, classify false v.addr with
  | some t, _ => .inl t
  | none, .own a | none, .window _ a => .inr a
  | none, _ => .inr 0
/-- The place of its first byte in the flat memory. -/
def State.visKey (s : State) (v : Vis) : Nat :=
  match visPlace v with
  | .inl t => s.siteBase v.part t
  | .inr a => scratchKey v.port a
/-- An accepted timed store whose T has come, and that still waits for room for its post, covers some of n bytes from a place on: reads and
untimed writes of them come after it (R37, R160). -/
def State.dueOver (s : State) (key n : Nat) : Bool := s.vis.any (fun v => s.visDue v && overlaps (s.visKey v) v.size key n)

-- the digest (R352)

def rotl31 (x : Word) : Word := x.rotateLeft 31
def hashGo : List Word → Word → Word
  | [], h => h
  | d :: ds, h => hashGo ds (rotl31 (h ^^^ d) * 0xD14B92E73A58C06F#64 + 0x2C69F13B854D7A17#64)
/-- H(a, line) of R352. -/
def lineHash (a : Word) (ds : List Word) : Word :=
  let h := hashGo ds (a * 0x8F3A6D21C5B70E49#64)
  let h := (h ^^^ (h >>> 29)) * 0x8F3A6D21C5B70E49#64
  h ^^^ (h >>> 32)
/-- The eight doublewords of a line whose byte i lies at f i. -/
def State.lineWords (s : State) (f : Nat → Nat) : List Word :=
  (List.range 8).map (fun i => BitVec.ofNat 64 (natOfBytes (s.readBytes (fun j => f (8 * i + j)) 8)))
/-- Does launch lid of partition p keep a digest? -/
def State.digesting (s : State) (p lid : Nat) : Bool :=
  match s.getLaunch p lid with
  | some l => l.detctl.getLsbD 0
  | none => false
/-- The state after a write, with the launch's digest moved by the lines that changed: lines are named by global-equivalent address
and the map from offsets of the line to places. -/
def State.addDigest (old new : State) (p lid : Nat) (lines : List (Word × (Nat → Nat))) : State :=
  match new.getLaunch p lid with
  | none => new
  | some l =>
    let d := lines.foldl (fun acc x => acc + lineHash x.1 (new.lineWords x.2) - lineHash x.1 (old.lineWords x.2)) l.digest
    new.setLaunch p { l with digest := d }

/-- Bytes written at byte a of a core's scratchpad for launch lid; none when a post must wait (R212). Lines of STATE banks are never
added to a digest. -/
def State.writeScratch (s : State) (p lid core a : Nat) (bs : List Byte) : Option State :=
  let n := bs.length
  if s.dueOver (scratchKey core a) n then none else
  let s1 := s.writeBytes (fun i => scratchKey core (a + i)) bs
  let s2 := if s.digesting p lid then
      State.addDigest s s1 p lid (((List.range ((a + n + 63) / 64 - a / 64)).map (fun k => (a / 64 + k) * 64)).filterMap (fun b =>
        if s.isState core b then none else some (s.geq p core b, fun i => scratchKey core (b + i))))
    else s1
  (s2.rawScratch p lid core a n).map (fun t => t.wake (core / 16) (fun i => scratchKey core (a + i)) n)
/-- The pieces of n bytes from offset off on, cut at the boundaries of 16 bytes, as first and length from off. -/
def granules (off n : Nat) : List (Nat × Nat) :=
  (List.range ((off % 16 + n + 15) / 16)).map (fun i =>
    let a := 16 * i - off % 16
    (a, min n (16 * (i + 1) - off % 16) - a))
/-- Bytes written at a site of stack g, with the digest; a write to a registered region is not added to it (R352). -/
def State.writeStack (s : State) (p lid g : Nat) (t : Site) (bs : List Byte) : State :=
  let s1 := s.writeBytes (s.siteKey p t) bs
  if s.digesting p lid && !s.registered g p (siteAddr t) then
    let lo := t.off / 64
    State.addDigest s s1 p lid ((List.range ((t.off + bs.length + 63) / 64 - lo)).map (fun k =>
      let b := (lo + k) * 64
      (globalAddr t.node b, s.siteKey p { t with off := b })))
  else s1
/-- Bytes written at a translated site; they lie in one page and one line. A site is named as its own node names it, so that a write
through a remote-mapped frame meets the registrations of the frame's node (R229). -/
def State.writeSite (s : State) (p lid : Nat) (t : Site) (bs : List Byte) : Option State :=
  match t.home with
  | .peer _ => some s
  | .cluster _ lc => s.writeScratch p lid ((s.physCore p lc (t.off / 0x80000)).getD 0) (t.off % 0x80000) bs
  | .host _ => some (s.writeBytes (s.siteKey p t) bs)
  | .stack g =>
    let n := bs.length
    if s.dueOver (s.siteBase p t) n then none else
    -- a write that lies in a registered region in part is added in part
    let s2 := if s.digesting p lid && !(s.getStack g).regs.isEmpty then
        (granules t.off n).foldl (fun u q => u.writeStack p lid g { t with off := t.off + q.1 } ((bs.drop q.1).take q.2)) s
      else s.writeStack p lid g t bs
    (s2.rawStack p lid g (siteAddr t) (s.siteKey p t) n).map (fun u => u.wake (4096 + g) (s.siteKey p t) n)

/-- Writes bytes at a global address for partition p, piece by piece; none when a post must wait (R212), and the failure of the first
piece that does not translate. -/
def State.writeGlobalGo (p lid : Nat) : Nat → State → Nat → List Byte → Nat → Option (State × Option RFail)
  | 0, s, _, _, _ => some (s, none)
  | fuel + 1, s, addr, bs, cnt =>
    if bs.isEmpty then some (s, none)
    else
      let k := pieceLen addr bs.length
      match s.translate p (addr / 2 ^ 48 % 256) (addr % 2 ^ 48) k .w with
      | .error e => some (s.fill p (addr / 2 ^ 48 % 256) (addr % 2 ^ 48), some ⟨e, BitVec.ofNat 64 addr, cnt⟩)
      | .ok t =>
        match (s.fill p (addr / 2 ^ 48 % 256) (addr % 2 ^ 48)).writeSite p lid t (bs.take k) with
        | none => none
        | some s1 => State.writeGlobalGo p lid fuel s1 (addr + k) (bs.drop k) (cnt + k)
def State.writeGlobal (s : State) (p lid : Nat) (addr : Word) (bs : List Byte) : Option (State × Option RFail) :=
  State.writeGlobalGo p lid (bs.length / 64 + 2) s addr.toNat bs 0

end Sys2Proof.Machine
end

