-- ==== Sys2Proof/Machine/Fetch.lean ====
section
/-! DEFINITION. Fetching an instruction (R22, R39, R62, R375, R382). -/

namespace Sys2Proof.Machine

/-- KIND of the records of a unit's own accesses (R384). -/
def State.accKind (s : State) : Nat := if isSc s.focus then 1 else 0
/-- One word fetched by the unit in focus. -/
def State.fetchWord (s : State) (addr : Word) : Except (TFail × Word × State) (Code × State) :=
  if addr.toNat % 4 ≠ 0 then .error (⟨1, 0⟩, addr, s)
  else match classify (isSc s.focus) addr with
    | .global node off =>
      let p := s.cur.part
      (match s.translate p node off 4 .x with
        | .error e => .error (e, failTval e node addr, s.noteFail s.focus e node off addr s.accKind)
        | .ok t =>
          let r := (s.fill p node off).readSite p t 4
          .ok (BitVec.ofNat 32 (natOfBytes r.1), r.2))
    | _ => .error (⟨2, 0⟩, addr, s)
/-- The fetch waits: a burst runs at the pseudo-channel that holds the instruction's words, or their home does not serve (R303, R321). -/
def State.fetchHeld (s : State) : Bool :=
  match classify (isSc s.focus) s.cur.pc with
  | .global _ _ => s.rangeHeld s.cur.part s.cur.pc 12
  | _ => false
/-- The firing's first instruction begins: its watchdog counts from now on (R347). -/
def State.began (s : State) : State :=
  if s.cur.firing.begun then s else { s with cur := { s.cur with firing := { s.cur.firing with begun := true, since := s.now } } }
/-- The instruction at pc, with as many words as it has. -/
def State.fetch (s : State) : Except (TFail × Word × State) (Instr × State) :=
  match s.fetchWord s.cur.pc with
  | .error e => .error e
  | .ok (w1, s1) =>
    if needs2 w1 then
      match s1.fetchWord (s.cur.pc + 4) with
      | .error e => .error e
      | .ok (w2, s2) =>
        if needs3 w1 w2 then
          match s2.fetchWord (s.cur.pc + 8) with
          | .error e => .error e
          | .ok (w3, s3) => .ok (decodeWords w1 w2 w3, s3.began)
        else .ok (decodeWords w1 w2 0, s2.began)
    else .ok (decodeWords w1 0 0, s1.began)

/-- The page in which withFetchWord places an instruction: node 0, offset 0x10000, on stack 0, with X. -/
def fetchLeaf : Word := 0xC000000000011000#64
def fetchEntry (p : Nat) : TcEntry := { part := p, node := 0, base := 0x10000, size := 0x10000, leaf := fetchLeaf }
/-- The state with some bytes where the unit in focus fetches its next instruction. -/
def State.place (s : State) (bs : List Byte) : State :=
  let p := s.getPart s.cur.part
  let s1 := s.setPart s.cur.part { p with nodes := put node0 p.nodes 0 0x90000000#32 }
  let d := s1.getDie 4
  let s2 := s1.setDie 4 { d with tc := fetchEntry s.cur.part :: d.tc }
  let s3 := s2.writeBytes (fun i => stackKey 0 (0x10000 + i)) bs
  { s3 with agenda := [], cur := { s3.cur with run := .running, pc := globalAddr 0 0x10000, asyncs := [], wait := .none, tile := {} } }

end Sys2Proof.Machine
end

