-- ==== Sys2Proof/Machine/Engine.lean ====
section
/-! DEFINITION. Engine work (spec 17_transfer_sync R274-R291, 19_stack_base_die R325-R328): command words and their validation, range
locks, completion objects, and what one operation does. The steps that run the queues are in Machine/Engines.lean. -/

namespace Sys2Proof.Machine

-- completion objects (R286, R287)

def State.setLatch (s : State) (u : Nat) : State := s.setUnit u { s.getUnit u with latch := true }
def State.sem (s : State) (c n : Nat) : Word := look word0 (s.getCluster c).sems n
def State.setSem (s : State) (c n : Nat) (v : Word) : State :=
  s.setCluster c { s.getCluster c with sems := put word0 (s.getCluster c).sems n v }
def semValue (w : Word) : Nat := (w.extractLsb' 0 32).toNat
def semFault (w : Word) : Bool := w.msb
def mkSem (fault : Bool) (v : Nat) : Word := BitVec.ofBool fault ++ 0#31 ++ BitVec.ofNat 32 v
/-- The core behind logical core k of a physical cluster, in partition p. -/
def State.coreOf (s : State) (p c k : Nat) : Option Nat := (s.logCluster p c).bind (fun lc => s.physCore p lc k)
/-- A completion increments semaphore n of cluster c and sets a core's latch (R279). -/
def State.semInc (s : State) (p c n k : Nat) : State :=
  let w := s.sem c n
  let s1 := s.setSem c n (mkSem (semFault w) (min (semValue w + 1) (2 ^ 32 - 1)))
  match s.coreOf p c k with
  | some u => s1.setLatch u
  | none => s1
/-- An arrival of n bytes at a byte barrier (R286). -/
def barArrive (w : Word) (n : Nat) : Word :=
  let pend := (w.extractLsb' 0 40).toNat
  let ex := (w.extractLsb' 40 23).toNat
  if n ≤ pend then w.extractLsb' 40 24 ++ BitVec.ofNat 40 (pend - n)
  else (1#1 : BitVec 1) ++ BitVec.ofNat 23 (min (ex + n - pend) (2 ^ 23 - 1)) ++ 0#40
def State.barSignal (s : State) (p c k i n : Nat) : State :=
  match s.coreOf p c k with
  | none => s
  | some u =>
    let x := s.getUnit u
    s.setUnit u { x with eng := { x.eng with bars := put word0 x.eng.bars i (barArrive (look word0 x.eng.bars i) n) }, latch := true }
/-- A chunk's bit (R279). -/
def State.chunkSignal (s : State) (p c k i bit : Nat) : State :=
  match s.coreOf p c k with
  | none => s
  | some u =>
    let x := s.getUnit u
    s.setUnit u { x with eng := { x.eng with cbms := put word0 x.eng.cbms i (look word0 x.eng.cbms i ||| BitVec.ofNat 64 (2 ^ bit)) }, latch := true }
/-- A fault of an operation that signals a semaphore: FAULT, and its record on the first fault (R287). -/
def State.semFail (s : State) (p c n k : Nat) (d0 seq addr progress : Word) : State :=
  let w := s.sem c n
  let x := s.getCluster c
  let old := look word0 x.frec (4 * n)
  let cnt := min ((old.extractLsb' 48 16).toNat + 1) 65535
  let withCount := fun (v : Word) => BitVec.ofNat 16 cnt ++ v.extractLsb' 0 48
  let f := if semFault w then put word0 x.frec (4 * n) (withCount old)
    else put word0 (put word0 (put word0 (put word0 x.frec (4 * n) (BitVec.ofNat 16 1 ++ d0.extractLsb' 0 48)) (4 * n + 1) seq) (4 * n + 2) addr) (4 * n + 3) progress
  let s1 := (s.setCluster c { x with frec := f }).setSem c n (mkSem true (semValue w))
  match s.coreOf p c k with
  | some u => s1.setLatch u
  | none => s1

-- command words (R65, R66)

structure Ecw where
  type : Nat
  unit : Nat
  cmpl : Nat
  cidx : Nat
  ccore : Nat
  aux : Nat
  rsvd : Bool
  w1 : Word
  w2 : Word
  w3 : Word
  deriving DecidableEq, Repr
def ecwOf (h w1 w2 w3 : Word) : Ecw where
  type := (h.extractLsb' 0 8).toNat
  unit := (h.extractLsb' 16 3).toNat
  cmpl := (h.extractLsb' 24 4).toNat
  cidx := (h.extractLsb' 32 8).toNat
  ccore := (h.extractLsb' 40 4).toNat
  aux := (h.extractLsb' 48 8).toNat
  rsvd := h.extractLsb' 56 8 != 0#8 || h.extractLsb' 44 4 != 0#4 || h.extractLsb' 28 4 != 0#4 || h.extractLsb' 19 5 != 0#5 || h.extractLsb' 8 8 != 0#8
  w1 := w1
  w2 := w2
  w3 := w3
def isEcwType (t : Nat) : Bool := t == 1 || t == 2 || t == 3 || t == 0x10 || t == 0x20
/-- CMPL, CMPL_IDX and CMPL_CORE fit the type (subcode 0x03). -/
def State.cmplOk (s : State) (p c : Nat) (e : Ecw) : Bool :=
  if e.cmpl = 0 then e.cidx == 0 && e.ccore == 0
  else if e.type = 0x10 ∨ e.type = 0x20 ∨ (e.type = 3 ∧ e.cmpl = 2) then false
  else (s.coreOf p c e.ccore).isSome &&
    (if e.cmpl = 1 then decide (e.cidx < 64) else if e.cmpl = 2 then decide (e.cidx < 8) else e.cmpl == 3 && decide (e.cidx < 16))

-- endpoints (R276-R278)

/-- A copy endpoint: byte a of a core's scratchpad, or a global address. -/
inductive Endp
  | scratch (core k a : Nat)
  | glob (addr : Word)
  deriving DecidableEq, Repr
/-- The endpoint an address names for work of cluster c; `own` is the issuing core. -/
def State.endpoint (s : State) (p c : Nat) (own : Option Nat) (addr : Word) : Option Endp :=
  match classify false addr with
  | .own a => own.bind (fun u => (s.logCluster p c).bind (fun lc => (s.logCore p lc (u % 16)).map (fun k => .scratch u k a)))
  | .window k a => (s.coreOf p c k).map (fun u => .scratch u k a)
  | .global n off => if (s.home p n off).isSome then some (.glob addr) else none
  | _ => none
/-- The span of an endpoint stays in its scratchpad and, in a window slot, has the region table's grant. -/
def State.spanOk (s : State) (p c : Nat) (addr : Word) (e : Endp) (n : Nat) (write : Bool) : Bool :=
  match e with
  | .glob a => decide ((a.toNat % 2 ^ 48) + n ≤ 2 ^ 48)
  | .scratch _ k a =>
    decide (a + n ≤ 0x80000) &&
    (match classify false addr with
      | .window _ _ => match s.logCluster p c with
        | some lc => s.grantedRange p lc (0x800000 + k * 0x80000 + a) n (!write) write
        | none => false
      | _ => true)
/-- The window form of an endpoint, in which a queued operation keeps it. -/
def endpAddr : Endp → Word
  | .scratch _ k a => BitVec.ofNat 64 (0x800000 + k * 0x80000 + a)
  | .glob a => a
/-- The global-equivalent address of an endpoint. -/
def State.endpGeq (s : State) (p : Nat) : Endp → Nat
  | .scratch u _ a => (s.geq p u a).toNat
  | .glob a => a.toNat
def isGlob : Endp → Bool
  | .glob _ => true
  | _ => false
/-- The format registers of the banks of a scratchpad endpoint, from its first bank on (R91). -/
def State.endpBanks (s : State) : Endp → List Word
  | .scratch u _ a => (List.range (128 - a / 4096)).map (fun i => s.bfmt u (a / 4096 + i))
  | .glob _ => []

/-- Does a copy convert (R91)? -/
def converts (f g : Nat) : Bool := f != g && f != 0 && g != 0
/-- Bits of an element at an endpoint of format f, the other being of format g (R276). -/
def elemBits (f g : Nat) : Nat := if converts f g then fmtBits f else if f = 0 ∧ g = 0 then 32 else if f = 0 then fmtBits g else fmtBits f

-- what a copy moves: runs of elements of one pair of formats (R89, R91, R276)

/-- Elements first .. first + n - 1, from bit `sb` to bit `db`: of a core's scratchpad, or of the global address space. -/
structure CopyRun where
  first : Nat
  n : Nat
  sb : Nat
  db : Nat
  f : Nat
  g : Nat
  sat : Bool
  deriving DecidableEq, Repr
def isGlobAddr (a : Word) : Bool := a.toNat / 2 ^ 56 == 1
/-- The bit where an endpoint in its queued form begins. -/
def endBit (a : Word) : Nat := 8 * (if isGlobAddr a then a.toNat else a.toNat % 0x80000)
/-- The format register that governs a bit of an endpoint: its bank's as sampled, or a global endpoint's field with no SAT. -/
def regAt (a : Word) (field : Nat) (banks : List Word) (bit : Nat) : Word :=
  if isGlobAddr a then BitVec.ofNat 64 field else banks.getD (bit / 32768 - endBit a / 32768) 0
/-- Elements that fit before the end of the bank. -/
def roomAt (a : Word) (bit e n : Nat) : Nat := if isGlobAddr a then n else (32768 - bit % 32768) / max 1 e
/-- The runs of n elements from element `first` on. -/
def copyRunsGo (o : CopyOp) : Nat → Nat → Nat → Nat → Nat → List CopyRun
  | 0, _, _, _, _ => []
  | fuel + 1, first, n, sb, db =>
    let r := regAt o.dst o.dfmt o.dbanks db
    let f := fmtOfReg (regAt o.src o.sfmt o.sbanks sb)
    let g := fmtOfReg r
    let k := min n (min (roomAt o.src sb (elemBits f g) n) (roomAt o.dst db (elemBits g f) n))
    if k = 0 then []
    else { first := first, n := k, sb := sb, db := db, f := f, g := g, sat := if isGlobAddr o.dst then o.dsat else satOfReg r }
      :: copyRunsGo o fuel (first + k) (n - k) (sb + k * elemBits f g) (db + k * elemBits g f)
/-- A copy's runs: each ends at the end of a bank of one endpoint, so 257 are enough. -/
def copyRuns (o : CopyOp) : List CopyRun := copyRunsGo o 258 0 o.count (endBit o.src) (endBit o.dst)
/-- Bytes that bits up to n take. -/
def bitsBytes (n : Nat) : Nat := (n + 7) / 8
/-- The source span and the destination span of a copy. -/
def srcSpan (o : CopyOp) : Nat := bitsBytes ((copyRuns o).map (fun r => r.n * elemBits r.f r.g)).sum
def dstSpan (o : CopyOp) : Nat := bitsBytes ((copyRuns o).map (fun r => r.n * elemBits r.g r.f)).sum

/-- The law unit, address and number of bytes of the state that n bytes of a core's scratchpad from byte a on hold, in one bank. -/
def State.bankState (s : State) (p u a n : Nat) : Option (Nat × Nat × Nat) := if s.isState u a then some (u, (s.geq p u a).toNat, n) else none
/-- The same of n bytes in a 4 KiB page of the global address space, named as their home names them: at the node of a remote-mapped frame,
where the page translates. -/
def State.pageState (s : State) (p a n : Nat) : Option (Nat × Nat × Nat) :=
  let node := a / 2 ^ 48 % 256
  let off := a % 2 ^ 48
  let at_ := match s.translate p node off 1 .any with
    | .ok t => some (t.home, t.node, t.off)
    | .error _ => (s.home p node off).map (fun h => (h, node, off))
  match at_ with
  | some (.stack g, m, o) =>
    let b := (globalAddr m o).toNat
    if (s.getStack g).regs.any (fun r => r.part == p && overlaps r.base.toNat (16 * r.nwords) b n) then some (4096 + g, b, n) else none
  | some (.cluster _ lc, _, o) => (s.physCore p lc (o / 0x80000)).bind (fun u => s.bankState p u (o % 0x80000) n)
  | _ => none
/-- A piece of state after others: one that goes on at the same law unit lengthens the last. -/
def joinState (acc : List (Nat × Nat × Nat)) (x : Nat × Nat × Nat) : List (Nat × Nat × Nat) :=
  match acc with
  | (l, b, n) :: rest => if l = x.1 ∧ b + n = x.2.1 then (l, b, n + x.2.2) :: rest else x :: acc
  | [] => [x]
/-- The records of a swap-out (R215, R230), if the copy is one: law unit, address and bytes of the state in its source, when its destination is
RAW or STATE. -/
def State.swapOut (s : State) (p : Nat) (e : Endp) (o : CopyOp) : List (Nat × Nat × Nat) :=
  let n := srcSpan o
  if !(copyRuns o).any (fun r => r.g == 0 || r.g == 8) then []
  else
    let a := match e with
      | .scratch _ _ a => a
      | .glob a => a.toNat
    let piece := fun (i : Nat) =>
      let b := max a ((a / 4096 + i) * 4096)
      let k := min (a + n) ((a / 4096 + i + 1) * 4096) - b
      match e with
      | .scratch u _ _ => s.bankState p u b k
      | .glob _ => s.pageState p b k
    ((List.range ((a + n + 4095) / 4096 - a / 4096)).filterMap piece).foldl joinState []
/-- The law units have room for the records of a swap-out (R230). -/
def State.swapFits (s : State) (rs : List (Nat × Nat × Nat)) : Bool :=
  rs.all (fun r => decide ((s.getLaw r.1).swaps.length + (rs.filter (fun q => q.1 == r.1)).length ≤ 64))

/-- The COPY that three body words form (R277, R278); none fails validation. Where the banks of a span have different formats, each
element is of its own bank's, and every run must start on a multiple of its element size (log 79). -/
def State.formCopy (s : State) (p c : Nat) (own : Option Nat) (cmpl : Nat) (w1 w2 w3 : Word) : Option CopyOp :=
  match s.endpoint p c own w1, s.endpoint p c own w2 with
  | some a, some b =>
    let count := (w3.extractLsb' 0 32).toNat
    let sf := (w3.extractLsb' 32 4).toNat
    let df := (w3.extractLsb' 36 4).toNat
    let dsat := w3.getLsbD 40
    let cbase := (w3.extractLsb' 58 6).toNat
    let o : CopyOp := { src := endpAddr a, dst := endpAddr b, count := count, sfmt := sf, dfmt := df, sbanks := s.endpBanks a,
                        dbanks := s.endpBanks b, dsat := dsat, cbase := cbase }
    let rs := copyRuns o
    let sn := srcSpan o
    let dn := dstSpan o
    let fieldsOk := w3.extractLsb' 41 17 == 0#17 && (isGlob a || sf == 0) && (isGlob b || (df == 0 && !dsat)) && decide (sf < 9) && decide (df < 9)
      && (cmpl == 2 || cbase == 0)
    let countOk := count != 0 && (rs.map (·.n)).sum == count && !(rs.any (fun r => r.f == 7 || r.g == 7) && count % 2 == 1)
    let alignOk := rs.all (fun r => r.sb % max 1 (elemBits r.f r.g) == 0 && r.db % max 1 (elemBits r.g r.f) == 0)
    let spansOk := s.spanOk p c w1 a sn false && s.spanOk p c w2 b dn true && !overlaps (s.endpGeq p a) sn (s.endpGeq p b) dn
    let stateOk := rs.all (fun r => !(converts r.f r.g && (r.f == 8 || r.g == 8)))
    let swapOk := s.swapFits (s.swapOut p a o)
    let chunkOk := cmpl != 2 || decide (cbase + (dn + 511) / 512 ≤ 64)
    if fieldsOk && countOk && alignOk && spansOk && stateOk && swapOk && chunkOk then some o else none
  | _, _ => none

/-- A template of a cluster (R280): doubleword d of template t. -/
def State.templ (s : State) (c t d : Nat) : Word := look word0 (s.getCluster c).templ (8 * t + d)
/-- The COPY a template forms with deltas and an iteration (R280, R281). -/
def State.formTempl (s : State) (p c : Nat) (own : Option Nat) (cmpl t : Nat) (sd dd : Word) (iter : Nat) : Option CopyOp :=
  let w := fun d => s.templ c t d
  if w 0 = 1 ∧ w 6 = 0 ∧ w 7 = 0 then
    s.formCopy p c own cmpl (w 1 + sd + BitVec.ofNat 64 iter * w 4) (w 2 + dd + BitVec.ofNat 64 iter * w 5) (w 3)
  else none

-- the elements of an operation, and moving them (R279, R284)

/-- The core and byte of a window form address for work of cluster c. -/
def State.windowCore (s : State) (p c : Nat) (addr : Word) : Option (Nat × Nat) :=
  match classify false addr with
  | .window k a => (s.coreOf p c k).map (fun u => (u, a))
  | _ => none
/-- n bytes from byte b on of the scratchpad that `base` names, or of the global address space. -/
def State.readAt (s : State) (p c : Nat) (base : Word) (b n : Nat) : Except RFail (List Byte) × State :=
  match s.windowCore p c base with
  | some (u, _) => (.ok (s.readBytes (fun i => scratchKey u (b + i)) n), s)
  | none => s.readGlobal p (BitVec.ofNat 64 b) n
def State.writeAt (s : State) (p lid c : Nat) (base : Word) (b : Nat) (bs : List Byte) : Option (State × Option RFail) :=
  match s.windowCore p c base with
  | some (u, _) => (s.writeScratch p lid u b bs).map (fun t => (t, none))
  | none => s.writeGlobal p lid (BitVec.ofNat 64 b) bs
/-- The elements of some bits, b bits each, least significant first. -/
def elemsGo (b : Nat) : Nat → Nat → List (BitVec 32)
  | 0, _ => []
  | n + 1, v => BitVec.ofNat 32 (v % 2 ^ b) :: elemsGo b n (v / 2 ^ b)
def packElems (b : Nat) : List (BitVec 32) → Nat
  | [] => 0
  | v :: vs => v.toNat % 2 ^ b + 2 ^ b * packElems b vs
/-- Elements of one pair of formats on their way from bit `sb` of `src` to bit `db` of `dst`; `minus` is taken off each, for row pointers;
`law` marks a source whose state words are swapped out, and the bytes its span takes. -/
structure Move where
  src : Word
  dst : Word
  sb : Nat
  db : Nat
  n : Nat
  f : Nat
  g : Nat
  sat : Bool := false
  minus : Nat := 0
  law : Option (Nat × Nat) := none
  /-- a window source whose grant is checked as it is read -/
  window : Bool := false
  deriving DecidableEq, Repr
/-- What a move writes, from the bits it reads (R91). -/
def moveBits (m : Move) (v : Nat) : Nat :=
  if converts m.f m.g then packElems (fmtBits m.g) ((elemsGo (fmtBits m.f) m.n v).map (copyElem m.f m.g m.sat))
  else if m.minus = 0 then v % 2 ^ (m.n * elemBits m.f m.g)
  else packElems 32 ((elemsGo 32 m.n v).map (fun x => x - BitVec.ofNat 32 m.minus))
/-- Elements of a run from element i on, at most n, as a move. -/
def runMove (o : CopyOp) (i n : Nat) (r : CopyRun) : Option Move :=
  let lo := max i r.first
  let hi := min (i + n) (r.first + r.n)
  if hi ≤ lo then none
  else
    let k := lo - r.first
    some { src := o.src, dst := o.dst, sb := r.sb + k * elemBits r.f r.g, db := r.db + k * elemBits r.g r.f, n := hi - lo, f := r.f, g := r.g,
           sat := r.sat, law := if r.g = 0 ∨ r.g = 8 then some (endBit o.src / 8, srcSpan o) else none }
/-- The copy of the values of a CSRWALK, with the elements before its first one left out (R284). -/
def walkValues (w : WalkOp) : CopyOp × Nat :=
  let p0 := (w.rows.getD (0, 0)).1
  let n := match w.rows with
    | some r => r.2 - r.1
    | none => w.maxe
  let g := fmtOfReg (regAt w.dval 0 w.dbanks (endBit w.dval))
  let skip : CopyOp := { src := w.vals, dst := 0x100000000000000#64, count := p0, sfmt := w.vfmt, dfmt := g, sbanks := w.sbanks }
  ({ src := w.vals, dst := w.dval, count := n, sfmt := w.vfmt, sbanks := w.sbanks, dbanks := w.dbanks },
    ((copyRuns skip).map (fun r => r.n * elemBits r.f r.g)).sum)
def walkCount (w : WalkOp) : Nat :=
  match w.rows with
  | some r => r.2 - r.1
  | none => w.maxe
/-- The elements of an operation: those of a COPY; for a CSRWALK its indices, its values, then its row pointers. -/
def opSize : EKind → Nat
  | .copy o | .copyt o => o.count
  | .csrwalk w => 2 * walkCount w + (if w.dptr = 0 then 0 else w.nrows + 1)
  | .reduce len .. => len
  | .swreg _ n _ => n
/-- The moves of elements i to i + n - 1 of an operation. -/
def movesOf (k : EKind) (i n : Nat) : List Move :=
  match k with
  | .copy o | .copyt o => (copyRuns o).filterMap (runMove o i n)
  | .csrwalk w =>
    let c := walkCount w
    let p0 := (w.rows.getD (0, 0)).1
    let part := fun (from_ len : Nat) => (max i from_ - from_, min (i + n) (from_ + len) - max i from_)
    let a := part 0 c
    let b := part c c
    let d := part (2 * c) (if w.dptr = 0 then 0 else w.nrows + 1)
    let v := walkValues w
    (if a.2 = 0 then [] else [{ src := w.colidx, dst := w.didx, sb := endBit w.colidx + 32 * (p0 + a.1), db := endBit w.didx + 32 * a.1, n := a.2,
                                f := 6, g := 6, window := w.cwin }])
      ++ (if b.2 = 0 then [] else ((copyRunsGo v.1 258 0 c (endBit w.vals + v.2) (endBit w.dval)).filterMap (runMove v.1 b.1 b.2)).map
          (fun m => { m with law := none, window := w.vwin }))
      ++ (if d.2 = 0 then [] else [{ src := w.rowptr, dst := w.dptr, sb := endBit w.rowptr + 32 * (w.row0 + d.1), db := endBit w.dptr + 32 * d.1,
                                     n := d.2, f := 6, g := 6, minus := p0 }])
  | _ => []

/-- The result of a part of an operation: it must wait and nothing has happened, or it has come so far, with the failure that ended it. -/
inductive EngRes
  | wait
  | ok (s : State) (n : Nat) (fail : Option RFail)
  deriving DecidableEq, Repr
/-- The cause of an engine fault for which R105 and R290 give no code: a free value (notes/assumptions/16). -/
def openCause : Nat := 0x100
/-- Bits v written over n bits from bit b on; a byte taken in part keeps its other bits. -/
def State.writeBits (s : State) (p lid c : Nat) (base : Word) (b n v : Nat) : Option (State × Option RFail) :=
  let lo := b / 8
  let k := bitsBytes (b % 8 + n)
  if b % 8 = 0 ∧ n % 8 = 0 then s.writeAt p lid c base lo (bytesOfNat k v)
  else match s.readAt p c base lo k with
    | (.error e, s1) => some (s1, some { e with done := 0 })
    | (.ok bs, s1) =>
      let old := natOfBytes bs
      s1.writeAt p lid c base lo (bytesOfNat k (old % 2 ^ (b % 8) + v % 2 ^ n * 2 ^ (b % 8) + old / 2 ^ (b % 8 + n) * 2 ^ (b % 8 + n)))
/-- The state word at address a that a copy reads: at an owner's bank, or registered at its stack. -/
def State.wordRead (s : State) (p c : Nat) (base : Word) (a : Nat) : Option WordAt :=
  match s.windowCore p c base with
  | some (u, _) => if s.isState u a then some (s.scratchWord p u a) else none
  | none =>
    match s.translate p (a / 2 ^ 48 % 256) (a % 2 ^ 48) 16 .r with
    | .error _ => none
    | .ok t => match t.home with
      | .stack g => if s.registered g p (siteAddr t) then some { l := 4096 + g, part := p, addr := siteAddr t, key := s.siteBase p t } else none
      | .cluster _ lc => (s.physCore p lc (t.off / 0x80000)).bind (fun u =>
          if s.isState u (t.off % 0x80000) then some (s.scratchWord p u (t.off % 0x80000)) else none)
      | _ => none
/-- The byte where a move's source starts, and the one after its end. -/
def moveSrc (m : Move) : Nat × Nat := (m.sb / 8, bitsBytes (m.sb + m.n * elemBits m.f m.g))
/-- The swap-out accesses of the source words of some moves that follow one another: each word is checked for delivery and leaves the
Rooster (R215). None while a post must wait, or where the moves take a word of the span only in part, since a word is read in one access. -/
def State.swapOutWords (s : State) (p c : Nat) (ms : List Move) : Option State :=
  let lo := (ms.map (fun m => (moveSrc m).1)).foldl min (2 ^ 64)
  let hi := (ms.map (fun m => (moveSrc m).2)).foldl max 0
  let ws := (ms.flatMap (fun m => match m.law with
    | none => []
    | some (base, len) =>
      let q := moveSrc m
      (List.range ((q.2 + 15) / 16 - q.1 / 16)).filterMap (fun i =>
        let b := (q.1 / 16 + i) * 16
        (s.wordRead p c m.src b).map (fun w => (w, decide (lo ≤ max b base) && decide (min (b + 16) (base + len) ≤ hi)))))).eraseDups
  if ws.any (fun w => !w.2) then none
  else ws.foldl (fun t w => t.bind (fun u => (u.deliveryCheck w.1 1 false).map (fun v => v.dropRooster w.1))) (some s)
/-- A window source is in its slot and granted (R23). -/
def State.moveGranted (s : State) (p c : Nat) (m : Move) : Bool :=
  match classify false m.src with
  | .window k _ =>
    let lo := m.sb / 8
    let hi := bitsBytes (m.sb + m.n * elemBits m.f m.g)
    decide (hi ≤ 0x80000) && (!m.window || (match s.logCluster p c with
      | some lc => s.grantedRange p lc (0x800000 + k * 0x80000 + lo) (hi - lo) true false
      | none => false))
  | _ => true
/-- A move reads its elements, converts and writes them (R279). One that would convert state words fails; only a CSRWALK can meet it
(log 79). -/
def State.doMove (s : State) (p lid c : Nat) (m : Move) : EngRes :=
  if !s.moveGranted p c m || (converts m.f m.g && (m.f == 8 || m.g == 8)) then .ok s 0 (some ⟨⟨openCause, 0⟩, BitVec.ofNat 64 (m.sb / 8), 0⟩)
  else
    let bits := m.n * elemBits m.f m.g
    match s.readAt p c m.src (m.sb / 8) (bitsBytes (m.sb % 8 + bits)) with
    | (.error e, s1) => .ok s1 0 (some e)
    | (.ok bs, s1) =>
      match s1.writeBits p lid c m.dst m.db (m.n * elemBits m.g m.f) (moveBits m (natOfBytes bs / 2 ^ (m.sb % 8) % 2 ^ bits)) with
      | none => .wait
      | some (s2, none) => .ok s2 m.n none
      | some (s2, some e) => .ok s2 (e.done * 8 / max 1 (elemBits m.g m.f)) (some e)
/-- Moves in order, until one waits or fails. -/
def State.doMoves (p lid c : Nat) : State → List Move → Nat → EngRes
  | s, [], n => .ok s n none
  | s, m :: ms, n =>
    match s.doMove p lid c m with
    | .wait => .wait
    | .ok t k (some e) => .ok t (n + k) (some e)
    | .ok t k none => State.doMoves p lid c t ms (n + k)
/-- The moves of a part of an operation, after the swap-out accesses of their words. -/
def State.moveAll (s : State) (p lid c : Nat) (ms : List Move) : EngRes :=
  match s.swapOutWords p c ms with
  | none => .wait
  | some t => State.doMoves p lid c t ms 0

-- reduction (R327)

def addBf16 (a b : BitVec 16) : BitVec 16 :=
  -- NaN operands quietened, the first before the second; else R178's sum
  amoFaddHalf a b
/-- The tree over sources lo .. lo + 2^w - 1 (R327). -/
def redTree {α : Type} (add : α → α → α) (vs : List α) : Nat → Nat → Option α
  | 0, lo => vs[lo]?
  | w + 1, lo =>
    match redTree add vs w lo, redTree add vs w (lo + 2 ^ w) with
    | none, _ => none
    | some l, none => some l
    | some l, some r => some (add l r)
/-- One element of a reduction. -/
def redElem (fmt : Nat) (vs : List Nat) : Nat :=
  if fmt = 2 then ((redTree addBf16 (vs.map (BitVec.ofNat 16)) 4 0).getD 0).toNat
  else ((redTree fadd (vs.map (BitVec.ofNat 32)) 4 0).getD 0).toNat
/-- Reads n bytes of every source from byte b of it on. -/
def State.readAll (p : Nat) (b n : Nat) : State → List Word → Except RFail (List (List Byte)) × State
  | s, [] => (.ok [], s)
  | s, a :: as =>
    match s.readGlobal p (a + BitVec.ofNat 64 b) n with
    | (.error e, s1) => (.error e, s1)
    | (.ok bs, s1) => match State.readAll p b n s1 as with
      | (.error e, s2) => (.error e, s2)
      | (.ok r, s2) => (.ok (bs :: r), s2)
/-- Bytes read as little-endian words of b bytes. -/
def wordsOfBytes (b : Nat) : Nat → List Byte → List Nat
  | 0, _ => []
  | n + 1, bs => natOfBytes (bs.take b) :: wordsOfBytes b n (bs.drop b)
/-- Bytes of an element of a reduction. -/
def redBytes (fmt : Nat) : Nat := if fmt = 2 then 2 else 4
/-- Elements i to i + n - 1 of a reduction (R327). -/
def State.reduceSome (s : State) (p lid fmt : Nat) (srcs : List Word) (dst : Word) (i n : Nat) : EngRes :=
  let b := redBytes fmt
  match State.readAll p (b * i) (b * n) s srcs with
  | (.error e, s1) => .ok s1 0 (some e)
  | (.ok bss, s1) =>
    let cols := bss.map (wordsOfBytes b n)
    let out := (List.range n).flatMap (fun j => bytesOfNat b (redElem fmt (cols.map (fun c => c.getD j 0))))
    match s1.writeGlobal p lid (dst + BitVec.ofNat 64 (b * i)) out with
    | none => .wait
    | some (s2, none) => .ok s2 n none
    | some (s2, some e) => .ok s2 (e.done / b) (some e)

-- progress: ranges of elements done

/-- Elements of a range that are done. -/
def doneIn (d : List (Nat × Nat)) (i n : Nat) : Nat := (d.map (fun r => min (r.1 + r.2) (i + n) - max r.1 i)).sum
def allDone (o : EOp) : Bool := doneIn o.done 0 (opSize o.kind) == opSize o.kind
/-- Elements done. -/
def progressOf (o : EOp) : Nat := (o.done.map (·.2)).sum
/-- A range of elements of an operation that are still to be done. -/
def toDo (o : EOp) (i n : Nat) : Bool := decide (0 < n) && decide (i + n ≤ opSize o.kind) && doneIn o.done i n == 0
/-- The lowest element still to be done. -/
def nextElem (o : EOp) : Option Nat := ((0 :: o.done.map (fun r => r.1 + r.2)).filter (fun i => toDo o i 1)).min?
/-- The operation after a part of it. -/
def advanceOp (o : EOp) (i : Nat) (n : Nat) (fail : Option RFail) : EOp :=
  let d := if n = 0 then o.done else o.done ++ [(i, n)]
  { o with done := d, fail := fail.map (fun e => { cause := e.f.cause, sub := e.f.sub, addr := e.addr, progress := (d.map (·.2)).sum }) }
/-- The bits of the destination of elements i to i + n - 1, as a base, a bit and a number of bits. -/
def destBits (k : EKind) (i n : Nat) : List (Word × Nat × Nat) :=
  match k with
  | .reduce _ fmt _ dst _ _ => [(dst, 8 * (dst.toNat + redBytes fmt * i), 8 * redBytes fmt * n)]
  | k => (movesOf k i n).map (fun m => (m.dst, m.db, m.n * elemBits m.g m.f))
/-- Free values in the destination of some elements (R290); none while a post must wait. A page that does not translate keeps its bytes. -/
def State.openElems (s : State) (p lid c : Nat) (ds : List (Word × Nat × Nat)) : Option State :=
  ds.foldl (fun t d => t.bind (fun u =>
    let r := u.freeBytes (bitsBytes d.2.2)
    (r.2.writeBits p lid c d.1 d.2.1 d.2.2 (natOfBytes r.1)).map (·.1))) (some s)
/-- The elements not done of an operation that failed become undefined (R290), 16 bytes or one element at a time, as far as the post
queues have room and no burst keeps them; the operation with what has been opened counted as done. -/
def State.openRest (c : Nat) : Nat → State → EOp → State × EOp
  | 0, s, o => (s, o)
  | fuel + 1, s, o =>
    match nextElem o with
    | none => (s, o)
    | some i =>
      let n := if toDo o i 4 then 4 else 1
      let ds := destBits o.kind i n
      let held := ds.any (fun d => isGlobAddr d.1 && s.rangeBursting o.part (BitVec.ofNat 64 (d.2.1 / 8)) (bitsBytes (d.2.1 % 8 + d.2.2)))
      match (if held then none else s.openElems o.part o.lid c ds) with
      | none => (s, o)
      | some t => State.openRest c fuel t { o with done := o.done ++ [(i, n)] }

-- operations: their type code, their locks, their end

/-- The TYPE of an operation in its fault record; a templated copy runs as a COPY (R281). -/
def kindCode : EKind → Nat
  | .copy _ | .copyt _ => 1
  | .csrwalk .. => 3
  | .reduce .. => 0x10
  | .swreg .. => 0x20
def sameOp (a b : EOp) : Bool := a.src == b.src && a.seq == b.seq
def ownLock (o : EOp) (l : Lock) : Bool := l.owner == o.src && l.seq == o.seq && l.part == o.part
/-- The destination spans of a CSRWALK (R283). -/
def walkDests (w : WalkOp) : List (Word × Nat) :=
  [(w.didx, 4 * w.maxe), (w.dval, dstSpan (walkValues { w with rows := none }).1)] ++ (if w.dptr = 0 then [] else [(w.dptr, 4 * (w.nrows + 1))])
/-- Lock entries of an operation of cluster c (R289). -/
def State.locksFor (s : State) (c : Nat) (o : EOp) : List Lock :=
  let g := fun (addr : Word) => match s.windowCore o.part c addr with
    | some (u, a) => (s.geq o.part u a).toNat
    | none => addr.toNat
  let mk := fun (addr : Word) (n : Nat) (dst : Bool) => { part := o.part, base := g addr, len := n, dst := dst, owner := o.src, seq := o.seq : Lock }
  match o.kind with
  | .copy k | .copyt k => [mk k.dst (dstSpan k) true, mk k.src (srcSpan k) false]
  | .csrwalk w => (walkDests w).map (fun d => mk d.1 d.2 true)
  | _ => []
def State.dropLocks (s : State) (c : Nat) (o : EOp) : State :=
  s.setCluster c { s.getCluster c with locks := (s.getCluster c).locks.filter (fun l => !ownLock o l) }
/-- A chunk leaves the DST entry of its operation when its bit is set (R289). -/
def cutLock (o : EOp) (off n : Nat) (l : Lock) : Lock := if ownLock o l && l.dst then { l with cuts := l.cuts ++ [(off, n)] } else l

/-- Operations numbered above `finished` that are done move it up (R274). -/
def settle : Nat → Nat → List Nat → Nat × List Nat
  | 0, f, e => (f, e)
  | n + 1, f, e => if e.contains (f + 1) then settle n (f + 1) (e.filter (· != f + 1)) else (f, e)
/-- An operation of a core counts as done; ESEQ's observers are woken (R144, R274). -/
def State.countDone (s : State) (o : EOp) (fault : Bool) : State :=
  match o.src with
  | none => s
  | some u =>
    let x := s.getUnit u
    let e := o.seq :: x.eng.early
    let r := settle (e.length + 1) x.eng.finished e
    s.setUnit u { x with eng := { x.eng with finished := r.1, early := r.2, efault := x.eng.efault || fault }, latch := true }
/-- The cluster of a channel. -/
def engineCluster : EngineQueue → Nat
  | .chan c _ => c
  | _ => 0
/-- The die of an engine. -/
def engineDie : EngineQueue → Nat
  | .chan c _ => c / 32
  | .red g | .swreg g => 4 + g
/-- The HELDMAP bit of an engine for partition p (R385). -/
def State.enginePlace (s : State) (q : EngineQueue) (p : Nat) : Option Nat :=
  match q with
  | .chan c _ => s.logCluster p c
  | .red g | .swreg g => (s.logStack p g).map (128 + ·)
/-- The record of an operation of an engine (R290, R384). -/
def State.opRecord (s : State) (q : EngineQueue) (o : EOp) (cause sub : Nat) (addr val : Word) : FaultRec :=
  { cause := cause, sub := sub, kind := 2, lid := o.lid, unit := 0xC000 + o.unit, addr := addr, val := val,
    time := (s.atimeOf (engineDie q)).toNat, place := s.enginePlace q o.part, src := o.src }
/-- An operation of an engine ends faulted or aborted (R287, R290, R291). -/
def State.failOp (s : State) (q : EngineQueue) (o : EOp) (e : EFail) (record : Bool) : State :=
  let c := engineCluster q
  let cause := if e.cause = openCause then (Config.freeByte s.free).toNat else e.cause
  let s0 := if e.cause = openCause then { s with free := s.free + 1 } else s
  let s1 := s0.dropLocks c o
  let s2 := if o.cmpl = 1 then
      let d0 := BitVec.ofNat 64 (cause + e.sub * 2 ^ 8 + kindCode o.kind * 2 ^ 16 + (match o.src with | some u => s.cidOf o.part u | none => 0) * 2 ^ 24)
      s1.semFail o.part c o.cidx o.ccore d0 (BitVec.ofNat 64 (if o.src.isSome then o.seq else 0)) e.addr (BitVec.ofNat 64 e.progress)
    else s1
  let s3 := s2.countDone o true
  let r := s3.opRecord q o cause e.sub e.addr (if o.cmpl = 1 then BitVec.ofNat 64 (0x1001000 + 32 * o.cidx) else 0)
  if !record then s3
  else if e.cause = 3 then s3.reportAbsent o.part (e.addr.toNat / 2 ^ 48 % 256) (e.addr.toNat % 2 ^ 48) r
  else s3.report o.part true r

def chanOf (x : Cluster) (ch : Nat) : List EOp := look chan0 x.chans ch
def State.setChan (s : State) (c ch : Nat) (q : List EOp) : State :=
  s.setCluster c { s.getCluster c with chans := put chan0 (s.getCluster c).chans ch q }
/-- Bytes of an operation's destination that its arrivals and chunks count: a CSRWALK counts every byte of its three destinations as
one chunk (R284, log 26). -/
def destBytes : EKind → Nat
  | .copy k | .copyt k => dstSpan k
  | .csrwalk w => 4 * walkCount w + dstSpan (walkValues w).1 + (if w.dptr = 0 then 0 else 4 * (w.nrows + 1))
  | _ => 0
def chunksOf : EKind → Nat
  | .csrwalk _ => 1
  | k => (destBytes k + 511) / 512
def chunkLen (k : EKind) (i : Nat) : Nat :=
  match k with
  | .csrwalk _ => destBytes k
  | k => min 512 (destBytes k - 512 * i)
/-- Every element with a byte in chunk i is done. -/
def chunkDone (o : EOp) (i : Nat) : Bool :=
  match o.kind with
  | .copy k | .copyt k =>
    (copyRuns k).all (fun r =>
      let e := max 1 (elemBits r.g r.f)
      let at_ := r.db - endBit k.dst
      let lo := (4096 * i - at_) / e
      let hi := min r.n ((4096 * (i + 1) - at_ + e - 1) / e)
      doneIn o.done (r.first + lo) (hi - lo) == hi - lo)
  | _ => allDone o

/-- The record of a swap-out copy enters its law unit (R230). -/
def State.enterSwap (s : State) (p c : Nat) (own : Option Nat) (o : CopyOp) : State :=
  match s.endpoint p c own o.src with
  | none => s
  | some e => (s.swapOut p e o).foldl (fun t r =>
      t.setLaw r.1 { t.getLaw r.1 with swaps := (t.getLaw r.1).swaps ++ [{ part := p, base := BitVec.ofNat 64 r.2.1, len := r.2.2 }] }) s

/-- A copy aperture start on a channel (R282); none when the store must wait for room. -/
def State.aperture (s : State) (p c ch : Nat) (v : Word) : Option State :=
  let csem := (v.extractLsb' 56 7).toNat
  let iter := (v.extractLsb' 16 32).toNat
  let t := (v.extractLsb' 0 6).toNat
  let bad := v.getLsbD 63 || v.extractLsb' 48 8 != 0#8 || v.extractLsb' 6 10 != 0#10 || decide (csem > 64)
  let cmpl := if csem = 0 then 0 else 1
  match (if bad then none else s.formTempl p c none cmpl t 0 0 iter) with
  | none => some (s.report p true { cause := 0x13, sub := 6, kind := 2, unit := 0xC000 + ch, time := (s.atimeOf (c / 32)).toNat, val := BitVec.ofNat 64 6,
                                      place := s.logCluster p c })
  | some k =>
    let o : EOp := { src := none, unit := ch, part := p, lid := 0, fid := 0, seq := s.fids, kind := .copyt k, cmpl := cmpl, cidx := csem - 1 }
    let x := s.getCluster c
    let ls := s.locksFor c o
    if (chanOf x ch).length < 16 ∧ x.locks.length + ls.length ≤ 64 then
      let s1 := { s with fids := s.fids + 1 }
      let s2 := s1.setCluster c { x with locks := x.locks ++ ls, chans := put chan0 x.chans ch (chanOf x ch ++ [o]) }
      some (s2.enterSwap p c none k)
    else none

end Sys2Proof.Machine
end

