-- ==== Sys2Proof/Machine/Power.lean ====
section
/-! DEFINITION. Operating points of a cluster (spec 26_power R399, R400, R405, R406): registers, requests, ramps and quiesce points. -/

namespace Sys2Proof.Machine

/-- Ticks of a voltage ramp between two points (R405). -/
def rampTicks (a b : BitVec 3) : Nat := 8000 * (if a.toNat ≤ b.toNat then b.toNat - a.toNat else a.toNat - b.toNat)
/-- A transition to point p starts: an increase ramps first, a decrease switches first (R405). -/
def startPoint (w : Power) (p : BitVec 3) (now : Nat) : Power :=
  if p = w.opcur then { w with goal := none, pend := none }
  else if w.opcur.toNat < p.toNat ∧ w.volt.toNat < p.toNat then
    { w with goal := some p, ramp := some (p, now + rampTicks w.volt p), pend := none }
  else { w with goal := some p, pend := none }
/-- A request for point p: latched while a ramp runs (R406). -/
def requestPoint (w : Power) (p : BitVec 3) (now : Nat) : Power :=
  match w.ramp with
  | some _ => { w with pend := if p = w.opcur then none else some p }
  | none => startPoint w p now
/-- The point whose frequency switch is due: a latched decrease, or the goal once its voltage stands (R405, R406). -/
def dueSwitch (w : Power) : Option (BitVec 3) :=
  match w.pend with
  | some p => if p.toNat < w.opcur.toNat then some p
    else match w.goal, w.ramp with
      | some g, none => some g
      | some g, some _ => if g.toNat < w.opcur.toNat then some g else none
      | none, _ => none
  | none => match w.goal, w.ramp with
    | some g, none => some g
    | some g, some _ => if g.toNat < w.opcur.toNat then some g else none
    | none, _ => none
/-- The end of a ramp (R405, R406). -/
def endRamp (w : Power) (now : Nat) : Power :=
  match w.ramp with
  | none => w
  | some (p, _) =>
    let w1 := { w with volt := p, ramp := none }
    match w1.pend with
    | some q => startPoint w1 q now
    | none => match w1.goal with
      | some _ => w1
      | none => if p.toNat > w1.opcur.toNat then { w1 with ramp := some (w1.opcur, now + rampTicks p w1.opcur) } else w1
/-- The frequency moves to point g, and the cores stop for the relock window; a decrease then ramps the voltage down, after a running ramp has ended (R405, R406). -/
def switchTo (w : Power) (g : BitVec 3) (now : Nat) : Power :=
  let w1 := { w with opcur := g, relock := now + 800, goal := none, pend := if w.pend = some g then none else w.pend }
  match w1.ramp with
  | some _ => w1
  | none => if w1.volt.toNat > g.toNat then { w1 with ramp := some (g, now + rampTicks w1.volt g) } else w1

/-- T lies in the relock window of a switch at an instant of the cluster's clock, widened by eps (R405). -/
def inWindow (now eps : Nat) (t : Word) : Bool := decide (now ≤ t.toNat + eps) && decide (t.toNat ≤ now + 800 + eps)
/-- The bound of R34 for a home node. -/
def epsOf (node : Nat) : Nat := if isPeerNode node then 200 else 8
def inCluster (c u : Nat) : Bool := isCore u && u / 16 == c
/-- The address of a request that a unit has sent and that has not been answered; an acquire or BMODE that its home keeps waiting has nothing
in flight. -/
def requested : Wait → Option Word
  | .load a _ _ | .acquire _ a _ | .law a => some a
  | .atomic r => some r.addr
  | _ => none
/-- An entry's request, or an answer to it, is on its way. -/
def entryMoves (e : JEntry) : Bool := e.st == .issued && (e.stage != .atHome || e.accepting)
/-- A global address that lies at cluster c. -/
def State.atCluster (s : State) (c p : Nat) (a : Word) : Bool :=
  isGlobAddr a && (match s.home p (a.toNat / 2 ^ 48 % 256) (a.toNat % 2 ^ 48) with
    | some (.cluster pc _) => pc == c
    | _ => false)
/-- A request or a reply between unit v and address a of partition p crosses the boundary of cluster c. -/
def State.acrossBoundary (s : State) (c v p : Nat) (a : Word) : Bool := isGlobAddr a && inCluster c v != s.atCluster c p a
/-- A request, reply, message or token of a unit of the package is in flight across the boundary of cluster c; an element of a transfer
engine moves within one step. -/
def State.inFlight (s : State) (c : Nat) : Bool :=
  ((s.focus, s.cur) :: s.others.filter (fun kv => kv.1 != s.focus)).any (fun kv =>
    (requested kv.2.wait).any (s.acrossBoundary c kv.1 kv.2.part) || kv.2.journal.any (fun je => entryMoves je.2 && s.acrossBoundary c kv.1 je.2.part je.2.addr))
  || s.flights.any (fun f => inCluster c f.src != inCluster c f.dst) || s.replies.any (fun r => inCluster c r.src != inCluster c r.dst)
  || s.tokens.any (fun t => inCluster c t.src != (t.key == 0x10 + c))
/-- A timed store of the cluster, accepted at its scratchpads or issued by its cores and not accepted yet, has T in the window of a switch
at `at_` on the cluster's clock. -/
def State.deadlineNear (s : State) (c at_ : Nat) : Bool :=
  s.vis.any (fun v => v.port < 2048 && v.port / 16 == c && inWindow at_ 8 v.time)
    || (List.range 16).any (fun k => (s.getUnit (16 * c + k)).journal.any (fun je =>
        je.2.timed && je.2.st == .issued && !je.2.accepted && inWindow at_ (epsOf je.2.node) je.2.time))
/-- This instant is a quiesce point of cluster c (R405). -/
def State.quiesce (s : State) (c : Nat) : Bool := !s.inFlight c && !s.deadlineNear c (s.atimeOf (c / 32)).toNat
/-- Of the last n instants, those that were no quiesce point of cluster c. -/
def State.failedInstants (s : State) (c n : Nat) : Nat :=
  if s.inFlight c then n else ((List.range n).filter (fun i => s.deadlineNear c ((s.atimeOf (c / 32)).toNat - i))).length
/-- A cluster whose frequency switch is due counts, in DEFER, the instants that kept it from one (R405). -/
def State.deferCluster (s : State) (n c : Nat) : State :=
  let x := s.getCluster c
  s.setCluster c { x with pwr := { x.pwr with defer := BitVec.ofNat 32 (min (x.pwr.defer.toNat + s.failedInstants c n) (2 ^ 32 - 1)) } }
/-- n ticks pass. -/
def State.elapse (s : State) (n : Nat) : State :=
  (s.clusters.filter (fun kv => (dueSwitch kv.2.pwr).isSome)).foldl (fun t kv => t.deferCluster n kv.1) { s with now := s.now + n }

/-- PWRCTL (R400). -/
def pwrctl (w : Power) : Word := (BitVec.ofBool w.auto ++ w.opreq : BitVec 4).setWidth 64
/-- PWRSTAT of a cluster (R400). -/
def State.pwrstat (s : State) (p c : Nat) : Word :=
  let w := (s.getCluster c).pwr
  let gated := (List.range 16).foldl (fun n k => n + (match s.coreOf p c k with
    | some u => if (s.getUnit u).powered then 0 else 2 ^ k
    | none => 0)) 0
  w.defer ++ BitVec.ofNat 16 gated ++ 0#8 ++ BitVec.ofBool w.ramp.isSome ++ BitVec.ofBool w.pend.isSome ++ (w.pend.getD 0#3) ++ w.opcur
/-- A write of PWRCTL; ignored with a RSVD bit (R400, R403). With AUTO = 0 the requested point is the cluster's. -/
def State.writePwrctl (s : State) (c : Nat) (v : Word) : State :=
  if v.extractLsb' 4 60 ≠ 0#60 then s
  else
    let x := s.getCluster c
    let w := { x.pwr with auto := v.getLsbD 3, opreq := v.extractLsb' 0 3 }
    let w1 := if w.auto then (if w.opreq.toNat < w.opcur.toNat then requestPoint w w.opreq s.now else w) else requestPoint w w.opreq s.now
    s.setCluster c { x with pwr := w1 }
/-- A write of DIVk (R400). -/
def State.writeDiv (s : State) (p c k : Nat) (v : Word) : State :=
  if v.extractLsb' 4 60 ≠ 0#60 ∨ v.toNat = 0 ∨ v.toNat > 8 then s
  else match s.coreOf p c k with
    | some u => s.setUnit u { s.getUnit u with div := v.extractLsb' 0 4 }
    | none => s
/-- The largest divider that leaves a core at 200 MHz or more, by point (R399). -/
def maxDiv (p : BitVec 3) : Nat := [4, 4, 5, 5, 6, 6, 7, 8].getD p.toNat 8
/-- The divider a core runs with (R399). -/
def runDiv (p : BitVec 3) (d : BitVec 4) : Nat := min d.toNat (maxDiv p)

end Sys2Proof.Machine
end

