-- ==== Sys2Proof/Machine/Mmio.lean ====
section
/-! DEFINITION. Local MMIO of a cluster core: the journal (R104), CLKSTAT (R32), present masks (R19), law, threshold, step-counter and
handler tables (R199, R201, R206, R313, R330), templates and the copy aperture (R280, R282), fault records (R287), determinism control and
log pointers (R350, R353), digests (R352), power registers (R400), lifetime records (R409). -/

namespace Sys2Proof.Machine

/-- What a store to MMIO does. -/
inductive MmioRes
  | done (s : State)
  | trap (cause : Nat) (tval : Word)
  | wait

-- the journal window (R104)

/-- An operation's number in an entry; an acquire takes no entry. -/
def opCode : AOp → Nat
  | .add => 0 | .and => 1 | .or => 2 | .xor => 3 | .min => 4 | .max => 5 | .minu => 6 | .maxu => 7 | .swap => 8 | .cas => 9
  | .faddS => 10 | .faddBh => 11 | .fmaxS => 12 | .acquire _ _ => 13 | .release none => 14 | .release (some _) => 15
def jkindBits : JKind → Nat
  | .store => 0
  | .amo op => op * 16 + 8
  | .rel => 0xE8
  | .relv => 0xF8
def jstateBits : JState → Nat
  | .free => 0
  | .issued => 1
  | .refused => 2
/-- Bytes 24-31 of an entry. -/
def jentryBits (e : JEntry) : Word :=
  BitVec.ofNat 64 (jstateBits e.st + e.node * 2 ^ 8 + e.size.log2 * 2 ^ 16 + (if e.timed then 2 ^ 19 else 0) + jkindBits e.kind * 2 ^ 20
    + e.sub * 2 ^ 32 + (if e.accepted then 2 ^ 40 else 0))
def jentryDw (e : JEntry) (d : Nat) : Word :=
  if e.st = .free then 0
  else match d with
    | 0 => e.addr
    | 1 => e.data
    | 2 => if e.timed then e.time else 0
    | _ => jentryBits e

-- law tables (R197-R199)

/-- The check of a law entry that is committed; 0 when it passes. DESIGN CHOICE (log 89): of several failed checks the lowest subcode is
reported. -/
def lawCheck (d0 p0 p1 p2 : Word) : Nat :=
  let kind := (d0.extractLsb' 0 2).toNat
  let step := d0.getLsbD 48
  let shift := (d0.extractLsb' 8 6).toNat
  let unused : Bool :=
    match kind with
    | 0 => p0 != 0 || p1 != 0 || p2 != 0
    | 1 => p0.msb || p1.extractLsb' 32 32 != 0#32 || p2 != 0
    | 2 => false
    | _ => p1 != 0 || p2 != 0
  if d0 &&& 0x7FFEF000FFFFC0FC#64 ≠ 0 ∨ unused ∨ (step ∧ shift ≠ 0) ∨ (!step ∧ d0.extractLsb' 32 12 ≠ 0#12) then 0x20
  else if shift > 40 then 0x21
  else
    match kind with
    | 1 => if p0.getLsbD 62 || p1.extractLsb' 23 8 == 255#8 then 0x22 else 0
    | 2 => if p1.toInt > p2.toInt then 0x22 else 0
    | 3 => if p0.getLsbD 31 then 0x22 else 0
    | _ => 0
/-- A store to bytes 0-7 of law entry i of the partition of the unit in focus. DESIGN CHOICE (log 77): a partition has one staging of
its law entries, which all its cores share and which keeps its values after a commit. -/
def State.lawCommit (s : State) (i : Nat) (v : Word) : MmioRes :=
  let p := s.getPart s.cur.part
  let g := fun d => look word0 p.lawStg (4 * i + d)
  let e := lawCheck v (g 1) (g 2) (g 3)
  if e ≠ 0 then .trap 0x12 (BitVec.ofNat 64 e)
  else
    let t := (List.range 4).foldl (fun m d => put word0 m (4 * i + d) (if d = 0 then v else g d)) p.laws
    .done (s.setPart s.cur.part { p with laws := t })

-- threshold tables (R206, R330)

/-- The check of a threshold entry that is committed; 0 when it passes. DESIGN CHOICE (log 89): 0x20 comes before 0x23. -/
def thrCheck (v : Word) : Nat :=
  if v &&& 0x7F00F000FFFFFFF9#64 ≠ 0 then 0x20 else if v.getLsbD 2 && !v.getLsbD 1 then 0x23 else 0
/-- A store of doubleword d of threshold entry i of law unit l. DESIGN CHOICE (log 77): a law unit has one staging per partition and entry, which
all its cores share where it is a stack's and which keeps its values after a commit. -/
def State.thrStore (s : State) (l i d : Nat) (v : Word) : MmioRes :=
  let x := s.getLaw l
  let k := 4 * (256 * s.cur.part + i)
  if d < 3 then .done (s.setLaw l { x with stg := put word0 x.stg (k + d) v })
  else if thrCheck v ≠ 0 then .trap 0x12 (BitVec.ofNat 64 (thrCheck v))
  else
    let t := (List.range 4).foldl (fun m d => put word0 m (k + d) (if d = 3 then v else look word0 x.stg (k + d))) x.thr
    .done (s.setLaw l { x with thr := t })

-- step counters (R201)

/-- A store of v to step counter j of the partition: a value below the present one is ignored. -/
def State.stepStore (s : State) (j : Nat) (v : Word) : State :=
  let p := s.getPart s.cur.part
  if v.toNat < (look word0 p.ctrs j).toNat then s else s.setPart s.cur.part { p with ctrs := put word0 p.ctrs j v }

-- handler table (R313-R315)

/-- Pops and pushes of a handler operator; none when it is unassigned. -/
def opArity (c : Nat) : Option (Nat × Nat) :=
  if c = 0 ∨ c = 0x0A ∨ c = 0x0B then none
  else if c ≤ 5 then some (0, 1)
  else if c = 6 then some (1, 2)
  else if c = 7 then some (2, 2)
  else if c = 8 then some (1, 0)
  else if c = 9 then some (2, 3)
  else if 0x10 ≤ c ∧ c ≤ 0x14 then some (2, 1)
  else if c = 0x15 then some (3, 1)
  else if 0x18 ≤ c ∧ c ≤ 0x1D then some (1, 1)
  else if 0x20 ≤ c ∧ c ≤ 0x22 then some (2, 1)
  else if c = 0x23 then some (3, 1)
  else none
/-- The depth after each operator; none when a check of R313 fails. -/
def opDepth : List Nat → Nat → Option Nat
  | [], d => some d
  | c :: cs, d =>
    match opArity c with
    | none => none
    | some (a, b) => if a ≤ d ∧ d - a + b ≤ 4 then opDepth cs (d - a + b) else none
/-- A handler word of four doublewords as a number. -/
def handlerNat (h : List Word) : Nat :=
  (h.getD 0 0).toNat + (h.getD 1 0).toNat * 2 ^ 64 + (h.getD 2 0).toNat * 2 ^ 128 + (h.getD 3 0).toNat * 2 ^ 192
def hOp (n i : Nat) : Nat := n / 2 ^ (16 + 6 * i) % 64
def hFmt (n : Nat) : Nat := n / 2 ^ 12 % 16
def hMode (n : Nat) : Nat := n / 2 ^ 10 % 4
def hNops (n : Nat) : Nat := n / 2 ^ 5 % 32
def hSat (n : Nat) : Bool := n / 2 % 2 == 1
def hInst (n : Nat) : Bool := n % 2 == 1
def handlerOk (h : List Word) : Bool :=
  let n := handlerNat h
  let k := hNops n
  n / 4 % 8 == 0 && decide (1 ≤ hFmt n) && decide (hFmt n ≤ 6) && hMode n != 3 && decide (1 ≤ k) && decide (k ≤ 24)
    && opDepth ((List.range k).map (hOp n)) 0 == some 1 && (List.range 24).all (fun i => decide (i < k) || hOp n i == 0)
/-- Handler entry i of a partition. -/
def State.handler (s : State) (p i : Nat) : List Word :=
  (List.range 4).map (fun d => look word0 (s.getPart p).handlers (4 * i + d))
/-- A store to bytes 0-7 of handler entry i. -/
def State.handlerCommit (s : State) (i : Nat) (v : Word) : MmioRes :=
  let p := s.getPart s.cur.part
  let g := fun d => look word0 p.handlerStg (4 * i + d)
  if handlerOk [v, g 1, g 2, g 3] then
    let t := (List.range 4).foldl (fun m d => put word0 m (4 * i + d) (if d = 0 then v else g d)) p.handlers
    .done (s.setPart s.cur.part { p with handlers := t })
  else .trap 0x13 0x0E

-- determinism control (R350)

def State.detctlStore (s : State) (v : Word) : State :=
  if v &&& 0xF8#64 ≠ 0 ∨ v &&& 6#64 = 6 then s else s.setPart s.cur.part { s.getPart s.cur.part with detctl := v }

-- the map

/-- The tables that only S and M mode may reach (R104, R199, R206, R313, R330). -/
def sOnly (a : Nat) : Bool :=
  (decide (0x1FC0000 ≤ a) && decide (a < 0x1FC0800)) || (decide (0x1FD0000 ≤ a) && decide (a < 0x1FD2000))
  || (decide (0x1FD4000 ≤ a) && decide (a < 0x1FD6000)) || (decide (0x1FE0000 ≤ a) && decide (a < 0x1FF0000))
  || (decide (0x1FFE000 ≤ a) && decide (a < 0x1FFE800))
/-- The law unit whose threshold table holds MMIO address a: the core's own, or a logical stack's. -/
def State.thrUnit (s : State) (a : Nat) : Option Nat :=
  if a < 0x1FE0000 then some s.focus else (s.physStack s.cur.part ((a - 0x1FE0000) / 0x2000)).map (· + 4096)
/-- The doubleword at MMIO address a, a multiple of 8, as the unit in focus reads it; none traps LOCAL-PROTECTION. -/
def State.mmioDw (s : State) (a : Nat) : Option Word :=
  let c := s.focus / 16
  let p := s.getPart s.cur.part
  let x := s.getCluster c
  let i := fun (lo : Nat) => (a - lo) / 8
  let at_ := fun (lo n : Nat) => decide (lo ≤ a) && decide (a < lo + n)
  if s.cur.priv = .u && sOnly a then none
  else if at_ 0x1001000 0x800 then some (look word0 x.frec (i 0x1001000))
  else if at_ 0x1008000 0x1000 then some (look word0 x.templ (i 0x1008000))
  else if at_ 0x1F90000 0x600 then some (BitVec.ofNat 64 (look nat0 s.dev.nv (a - 0x1F90000)))
  else if a = 0x1FA0000 then some (pwrctl x.pwr)
  else if a = 0x1FA0008 then some (s.pwrstat s.cur.part c)
  else if at_ 0x1FA0100 0x80 then
    some (match s.coreOf s.cur.part c (i 0x1FA0100) with
      | some u => (s.getUnit u).div.setWidth 64
      | none => 0)
  else if at_ 0x1FB0000 0x1000 then some (look word0 p.digests (i 0x1FB0000))
  else if a = 0x1FBF000 then some p.detctl
  else if a = 0x1FBF008 then some p.logHead
  else if a = 0x1FBF010 then some p.logTail
  else if at_ 0x1FC0000 0x800 then some (look word0 p.handlers (i 0x1FC0000))
  else if at_ 0x1FD0000 0x2000 then some (look word0 p.laws (i 0x1FD0000))
  else if at_ 0x1FD4000 0x2000 then some (look word0 (s.getLaw s.focus).thr (1024 * s.cur.part + i 0x1FD4000))
  else if at_ 0x1FD8000 0x8000 then some (look word0 p.ctrs (i 0x1FD8000))
  else if at_ 0x1FE0000 0x10000 then
    (s.thrUnit a).map (fun l => look word0 (s.getLaw l).thr (1024 * s.cur.part + i 0x1FE0000 % 1024))
  else if at_ 0x1FFD000 0x100 then
    some (BitVec.ofNat 64 ((List.range 4).foldl (fun n k => n + (s.presentMask s.cur.part ((a - 0x1FFD000) / 2 + k)).toNat * 2 ^ (16 * k)) 0))
  else if at_ 0x1FFE000 0x800 then some (jentryDw (look jentry0 s.cur.journal ((a - 0x1FFE000) / 32)) (i 0x1FFE000 % 4))
  else if a = 0x1FFF000 then some (s.clkstat (dieOf s.focus))
  else none
/-- n bytes at MMIO address a. -/
def State.mmioRead (s : State) (a n : Nat) : Option Word :=
  (s.mmioDw (a / 8 * 8)).map (fun (w : Word) => (w >>> (8 * (a % 8))) &&& BitVec.ofNat 64 (2 ^ (8 * n) - 1))

/-- A doubleword with n bytes at byte o replaced. -/
def mergeDw (old : Word) (o n : Nat) (v : Word) : Word :=
  let m := BitVec.ofNat 64 ((2 ^ (8 * n) - 1) * 2 ^ (8 * o))
  (old &&& ~~~m) ||| ((v <<< (8 * o)) &&& m)
/-- A store of n bytes at MMIO address a by the unit in focus. -/
def State.mmioWrite (s : State) (a n : Nat) (v : Word) : MmioRes :=
  let c := s.focus / 16
  let pn := s.cur.part
  let p := s.getPart pn
  let x := s.getCluster c
  let addr := BitVec.ofNat 64 a
  let d := a / 8 * 8
  let i := fun (lo : Nat) => (d - lo) / 8
  let at_ := fun (lo n : Nat) => decide (lo ≤ a) && decide (a < lo + n)
  let merged := mergeDw ((s.mmioDw d).getD 0) (a % 8) n v
  if s.cur.priv = .u && sOnly a then .trap 2 addr
  else if at_ 0x1001000 0x800 then .done s
  else if at_ 0x1004000 0x40 then
    (if n = 8 then match s.aperture pn c (i 0x1004000) v with
      | some t => .done t
      | none => .wait
    else .trap 2 addr)
  else if at_ 0x1008000 0x1000 then .done (s.setCluster c { x with templ := put word0 x.templ (i 0x1008000) merged })
  else if at_ 0x1F90000 0x600 then .done s
  else if at_ 0x1FA0000 8 then (if s.cur.priv = .u then .trap 2 addr else .done (s.writePwrctl c merged))
  else if at_ 0x1FA0100 0x80 then (if s.cur.priv = .u then .trap 2 addr else .done (s.writeDiv pn c (i 0x1FA0100) merged))
  else if at_ 0x1FB0000 0x1000 then .done s
  else if at_ 0x1FBF000 8 then (if s.cur.priv = .u then .trap 2 addr else .done (s.detctlStore merged))
  else if at_ 0x1FBF008 8 then .done (s.setPart pn { p with logHead := merged })
  else if at_ 0x1FBF010 8 then .done s
  else if at_ 0x1FC0000 0x800 then
    (if n ≠ 8 then .trap 1 addr
    else if i 0x1FC0000 % 4 = 0 then s.handlerCommit (i 0x1FC0000 / 4) v
    else .done (s.setPart pn { p with handlerStg := put word0 p.handlerStg (i 0x1FC0000) v }))
  else if at_ 0x1FD0000 0x2000 then
    (if n ≠ 8 then .trap 1 addr
    else if i 0x1FD0000 % 4 = 0 then s.lawCommit (i 0x1FD0000 / 4) v
    else .done (s.setPart pn { p with lawStg := put word0 p.lawStg (i 0x1FD0000) v }))
  else if at_ 0x1FD4000 0x2000 then
    (if n ≠ 8 then .trap 1 addr else s.thrStore s.focus (i 0x1FD4000 / 4) (i 0x1FD4000 % 4) v)
  else if at_ 0x1FD8000 0x8000 then (if n ≠ 8 then .trap 1 addr else .done (s.stepStore (i 0x1FD8000) v))
  else if at_ 0x1FE0000 0x10000 then
    match s.thrUnit a with
    | none => .trap 2 addr
    | some l => if n ≠ 8 then .trap 1 addr else s.thrStore l (i 0x1FE0000 % 1024 / 4) (i 0x1FE0000 % 4) v
  else if at_ 0x1FFD000 0x100 then .done s
  else if at_ 0x1FFE000 0x800 then .done s
  else if at_ 0x1FFF000 4 then .done s
  else .trap 2 addr

end Sys2Proof.Machine
end

