-- ==== Sys2Proof/Machine/Memory.lean ====
section
/-! DEFINITION. Loads and stores, plain and timed (R47, R150-R163), and the steps that serve loads at a home. -/

namespace Sys2Proof.Machine

def loadSize : LoadKind → Nat
  | .lb | .lbu => 1
  | .lh | .lhu => 2
  | .lw | .lwu => 4
  | .ld => 8
/-- The register value of loaded bytes. -/
def loadExt (k : LoadKind) (v : Word) : Word :=
  match k with
  | .lb => (v.extractLsb' 0 8).signExtend 64
  | .lh => (v.extractLsb' 0 16).signExtend 64
  | .lw => (v.extractLsb' 0 32).signExtend 64
  | .ld => v
  | .lbu => (v.extractLsb' 0 8).setWidth 64
  | .lhu => (v.extractLsb' 0 16).setWidth 64
  | .lwu => (v.extractLsb' 0 32).setWidth 64
def storeSize : StoreKind → Nat
  | .sb => 1
  | .sh => 2
  | .sw => 4
  | .sd => 8

-- the journal of the unit and its own accesses (R152, R182, R183)

/-- An untimed entry of partition p in ISSUED or REFUSED state over some of n bytes at a global address. -/
def overlapsEntry (p a n : Nat) (e : JEntry) : Bool :=
  e.st != .free && !e.timed && e.part == p && overlaps e.addr.toNat e.size a n
/-- The youngest overlapping untimed entry. -/
def youngest (u : Unit) (a n : Nat) : Option JEntry :=
  u.journal.foldl (fun b kv => if overlapsEntry u.part a n kv.2 then (match b with
    | none => some kv.2
    | some e => if e.ord ≤ kv.2.ord then some kv.2 else b) else b) none
/-- What a load finds in the journal: nothing, the bytes to forward, or a reason to stall. -/
inductive Fwd
  | none
  | data (v : Word)
  | stall
def forward (u : Unit) (a n : Nat) : Fwd :=
  match youngest u a n with
  | .none => .none
  | .some e =>
    if e.kind = .store ∧ e.addr.toNat ≤ a ∧ a + n ≤ e.addr.toNat + e.size then
      .data ((e.data >>> (8 * (a - e.addr.toNat))) &&& BitVec.ofNat 64 (2 ^ (8 * n) - 1))
    else .stall
/-- The global-equivalent address of a journal entry's or request's address, for the unit in focus. -/
def State.addrGeq (s : State) (u p : Nat) (a : Word) : Word :=
  match classify (isSc u) a with
  | .own off => if isCore u then s.geq p u off else a
  | .window c off => match (s.logCluster p (u / 16)).bind (fun lc => s.physCore p lc c) with
    | some core => s.geq p core off
    | none => a
  | _ => a
def homeNum : Home → Nat
  | .stack g => g
  | .cluster pc _ => 0x10 + pc
  | .host n => 0x90 + n
  | .peer n => 0xA0 + n
/-- The number of the home to which unit u of partition p sends an access: to whatever node the address names it (R153). -/
def State.addrKey (s : State) (u p : Nat) (a : Word) : Nat :=
  match classify (isSc u) a with
  | .global node off => match s.home p node off with
    | some h => homeNum h
    | none => 0x1FF
  | _ => 0x10 + u / 16
/-- The home of an entry of unit u, as `blocked` and tokens name it. -/
def State.entryKey (s : State) (u : Nat) (e : JEntry) : Nat := s.addrKey u e.part e.addr
/-- The home of a unit, as `entryKey` numbers it. -/
def unitHome (u : Nat) : Nat := if isSc u then stackOf u else 0x10 + u / 16
/-- A posted atomic or release of unit u without a journal entry that its cluster's engine has not applied (R169, R175). -/
def State.pendingAtomic (s : State) (u : Nat) (f : AReq → Bool) : Bool :=
  isCore u && (s.getCluster (u / 16)).aeReqs.any (fun r => r.src == u && !r.returning && r.posted.isNone && f r)
/-- A release of unit u without a journal entry is on its way or waits at its engine. -/
def State.releasing (s : State) (u : Nat) : Bool :=
  s.releases.any (fun r => r.src == u) || s.pendingAtomic u (fun r => match r.op with
    | .release _ => true
    | _ => false)
/-- Every posted atomic and release of unit u without a journal entry that f selects by firing and issue order is applied (R169, R175). -/
def State.localDrained (s : State) (u : Nat) (f : Nat → Nat → Bool) : Bool :=
  !s.pendingAtomic u (fun r => f r.fid r.ord) && !s.releases.any (fun r => r.src == u && f r.fid r.ord)
/-- Every store, posted atomic and release of unit u that f selects by firing and issue order is performed as R116 defines: those homed
at home k, or all of them. -/
def State.homeDrained (s : State) (u k : Nat) (f : Nat → Nat → Bool) : Bool :=
  drained (s.getUnit u) (fun e => f e.fid e.ord && s.entryKey u e == k) && (k != unitHome u || s.localDrained u f)
def State.allDrained (s : State) (u : Nat) (f : Nat → Nat → Bool) : Bool := drained (s.getUnit u) (fun e => f e.fid e.ord) && s.localDrained u f
/-- A posted atomic of unit u without a journal entry is under way to some of n bytes at a global-equivalent address. -/
def State.amoOver (s : State) (u a n : Nat) : Bool :=
  s.pendingAtomic u (fun r => overlaps (s.addrGeq u r.part r.addr).toNat (if r.wide then 8 else 4) a n)
/-- A release or posted atomic of the unit in focus that takes no journal entry is under way to some of n bytes at a global-equivalent
address: no later access of the unit overtakes it there (R182). -/
def State.underWayOf (s : State) (u a n : Nat) : Bool :=
  s.releases.any (fun r => r.src == u && overlaps (s.addrGeq u r.part r.addr).toNat 8 a n) || s.amoOver u a n
def State.underWay (s : State) (a n : Nat) : Bool := s.underWayOf s.focus a n
/-- The unit's own write to some of n bytes at a global-equivalent address is not performed. -/
def State.writePending (s : State) (a n : Nat) : Bool := (youngest s.cur a n).isSome || s.underWay a n
/-- The unit's own write to these local bytes is not performed: it is in the journal under a global form of the address, or it is under
way to the bank without an entry. -/
def State.ownPending (s : State) (t : Spot) (n : Nat) : Bool :=
  match t with
  | .scratch _ _ => s.writePending (s.spotGeq t).toNat n
  | _ => false

-- the global read cache (R151)

/-- Every line of the global read cache is invalidated: FENCE.G, and the target of an `ht` edge (R173, R189). -/
def emptyCache (u : Unit) : Unit := { u with cache := [] }
/-- An instruction that is the target of an `ht` edge: the cache is emptied before it completes (R189). -/
def State.observe (s : State) : State := { s with cur := emptyCache s.cur }
def lineOf (a : Word) : Word := a &&& 0xFFFFFFFFFFFFFF80#64
def cacheLines (u : Nat) : Nat := if isSc u then 64 else 256
def cacheFind (u : Unit) (p : Nat) (a : Word) : Option Line := u.cache.find? (fun l => l.part == p && l.addr == lineOf a)
def dropLine (u : Unit) (a : Word) : Unit := { u with cache := u.cache.filter (fun l => l.addr != lineOf a) }
def putLine (n : Nat) (u : Unit) (l : Line) : Unit :=
  { u with cache := (l :: u.cache.filter (fun m => !(m.part == l.part && m.addr == l.addr))).take n }
/-- n bytes of a line at an address. -/
def lineBytes (l : Line) (a : Word) (n : Nat) : Word :=
  BitVec.ofNat 64 (natOfBytes ((l.bytes.drop (a.toNat % 128)).take n))

-- loads

/-- A load of n words of instruction text from an address, at a time under AT. -/
def loadOp (k : LoadKind) (n : Nat) (rd : Reg) (addr : Word) (tm : Option Word) (s : State) : Out :=
  let size := loadSize k
  let fin := fun (v : Word) => Host.Outcome.next (s.done n rd (loadExt k v))
  let now := fun (t : Spot) =>
    match t with
    | .scratch core a =>
      if s.ownPending t size || s.dueOver (scratchKey core a) size then .next s
      -- a cached copy of the line may be older than what is read here (R151, R182)
      else .next (State.done { s with cur := dropLine s.cur (s.spotGeq t) } n rd (loadExt k (s.read (scratchKey core a) size)))
    | .sram i a => fin (s.read (sramKey i a) size)
    | .mmio a => match s.mmioRead a size with
      | some v => fin v
      | none => raise s 2 addr
    | .global _ _ => if s.underWay addr.toNat size then .next s
      -- a not-before load is always served at its home (R161, R187)
      else if tm.isSome then .next (s.stall (.load addr size tm))
      else match forward s.cur addr.toNat size with
      | .data v => fin v
      | .stall => .next (s.stall (.load addr size tm))
      | .none => match cacheFind s.cur s.cur.part addr with
        | some l => fin (lineBytes l addr size)
        | none => .next (s.stall (.load addr size tm))
  match s.cur.wait with
  | .value v => fin v
  | .refusal c sub tv => raise s c tv (sub := sub)
  | .load _ _ _ => .next s
  | .sleep t =>
    if (t - s.atime).toInt > 0 then .next s
    else match s.resolve addr size .r with
      | .error e => raise s e.1 e.2
      | .ok spot => now spot
  | _ =>
    match s.resolve addr size .r with
    | .error e => raise s e.1 e.2
    | .ok spot =>
      let late := match tm with
        | some t => s.timedCheck addr spot false t
        | none => none
      match late with
      | some e => raise s e.1 e.2
      | none =>
        if s.spotLocked spot size false then raise s 0xD addr
        else match tm with
          | some t => if (t - s.atime).toInt > 0 then .next (s.stall (.sleep t)) else now spot
          | none => now spot

-- stores

/-- A store takes a journal entry (R104); it stalls while none is FREE, and while a write without an entry is under way to its bytes. -/
def takeEntry (s : State) (n : Nat) (e : JEntry) : Out :=
  let k := s.entryKey s.focus { e with part := s.cur.part }
  match (if s.underWay (s.addrGeq s.focus s.cur.part e.addr).toNat e.size then none
      else freeEntry s.cur (fun o => s.entryKey s.focus o == k)) with
  | none => .next s
  | some j =>
    let u := s.cur
    let e1 := { e with st := .issued, stage := .toHome, ord := u.jord, sent := u.jord, fid := u.firing.fid, part := u.part, lid := u.firing.lid }
    let u1 := dropLine { u with journal := put jentry0 u.journal j e1, jord := u.jord + 1 } e.addr
    .next (State.retireN { s with cur := u1 } n)
/-- The low n bytes of a register, as a word. -/
def lowBytes (v : Word) (n : Nat) : Word := v &&& BitVec.ofNat 64 (2 ^ (8 * n) - 1)
/-- A store of n words of instruction text. -/
def storeOp (k : StoreKind) (n : Nat) (rs2 : Reg) (addr : Word) (tm : Option Word) (s : State) : Out :=
  let size := storeSize k
  let v := lowBytes (s.x rs2) size
  match s.resolve addr size .w with
  | .error e => raise s e.1 e.2
  | .ok spot =>
    let late := match tm with
      | some t => s.timedCheck addr spot true t
      | none => none
    match late with
    | some e => raise s e.1 e.2
    | none =>
      if s.spotLocked spot size true then raise s 0xD addr
      else match spot with
        | .global node _ =>
          takeEntry s n { kind := .store, addr := addr, data := v, time := tm.getD 0, size := size, node := node, timed := tm.isSome }
        | .scratch core a =>
          (match tm with
          | some t => takeEntry s n { kind := .store, addr := addr, data := v, time := t, size := size, node := 0x10 + s.myLog.getD 0, timed := true }
          | none =>
            -- a release to this cluster goes before later stores to it (R169)
            if s.ownPending spot size || s.releasing s.focus then .next s
            else match s.writeScratch s.cur.part s.cur.firing.lid core a (bytesOfNat size v.toNat) with
              | none => .next s
              | some t => .next (State.retireN { t with cur := dropLine t.cur (s.spotGeq spot) } n))
        | .sram i a => .next ((s.write (sramKey i a) size v).retireN n)
        | .mmio a => match s.mmioWrite a size v with
          | .done t => .next (t.retireN n)
          | .trap c tv => raise s c tv
          | .wait => .next s

def execLb (rd rs1 : Reg) (imm : BitVec 12) (s : State) : Out := loadOp .lb 1 rd (s.x rs1 + sx12 imm) none s
def execLh (rd rs1 : Reg) (imm : BitVec 12) (s : State) : Out := loadOp .lh 1 rd (s.x rs1 + sx12 imm) none s
def execLw (rd rs1 : Reg) (imm : BitVec 12) (s : State) : Out := loadOp .lw 1 rd (s.x rs1 + sx12 imm) none s
def execLd (rd rs1 : Reg) (imm : BitVec 12) (s : State) : Out := loadOp .ld 1 rd (s.x rs1 + sx12 imm) none s
def execLbu (rd rs1 : Reg) (imm : BitVec 12) (s : State) : Out := loadOp .lbu 1 rd (s.x rs1 + sx12 imm) none s
def execLhu (rd rs1 : Reg) (imm : BitVec 12) (s : State) : Out := loadOp .lhu 1 rd (s.x rs1 + sx12 imm) none s
def execLwu (rd rs1 : Reg) (imm : BitVec 12) (s : State) : Out := loadOp .lwu 1 rd (s.x rs1 + sx12 imm) none s
def execSb (rs2 rs1 : Reg) (imm : BitVec 12) (s : State) : Out := storeOp .sb 1 rs2 (s.x rs1 + sx12 imm) none s
def execSh (rs2 rs1 : Reg) (imm : BitVec 12) (s : State) : Out := storeOp .sh 1 rs2 (s.x rs1 + sx12 imm) none s
def execSw (rs2 rs1 : Reg) (imm : BitVec 12) (s : State) : Out := storeOp .sw 1 rs2 (s.x rs1 + sx12 imm) none s
def execSd (rs2 rs1 : Reg) (imm : BitVec 12) (s : State) : Out := storeOp .sd 1 rs2 (s.x rs1 + sx12 imm) none s

/-- The code R63 gives a refused word after a prefix. -/
def badTval (w : Code) : Nat := if isPfx w then 2 else 1
/-- A load or store under AT. -/
def atMem (n : Nat) (f : Follower) (imm : BitVec 12 → Word) (t : Word) (s : State) (other : Out) : Out :=
  match f with
  | .load k rd rs1 i => loadOp k n rd (s.x rs1 + imm i) (some t) s
  | .store k rs2 rs1 i => storeOp k n rs2 (s.x rs1 + imm i) (some t) s
  | _ => other
/-- AT and what follows it (R59-R63, R128, R156). -/
def execAtPfx (rs1 : Reg) (tail : Tail) (s : State) : Out :=
  let t := s.x rs1
  let other := illegal s 1 ((encode (.atPfx rs1 tail)).getD 1 0)
  match tail with
  | .one f => atMem 2 f sx12 t s other
  | .viaExt e f => atMem 3 f (sxExt e) t s other
  | .bad w => illegal s (badTval w) w
  | .badExt _ w => illegal s (badTval w) w
  | .viaAt _ _ | .badAt _ _ => illegal s 2 ((encode (.atPfx rs1 tail)).getD 1 0)

-- steps that serve a load at its home

/-- The bytes at a global address, the line put in the reader's cache when it may fill it (R151, R376); never over a write of its own
that the home has not applied, lest a later load be served older bytes (R184). -/
def State.serveLoad (s : State) (u : Nat) (addr : Word) (size : Nat) (t : Site) (fillIt : Bool) : Word × State :=
  let x := s.getUnit u
  let p := x.part
  let node := addr.toNat / 2 ^ 48 % 256
  let off := addr.toNat % 2 ^ 48
  let line := (lineOf addr).toNat
  match (if t.noFill || (youngest x line 128).isSome || s.underWayOf u line 128 then none
      else (s.translate p node (off / 128 * 128) 128 .r).toOption) with
  | some lt =>
    let r := (s.fill p node off).readSite p lt 128
    let l : Line := { part := p, addr := lineOf addr, bytes := r.1 }
    let s1 := r.2
    let present := (cacheFind x p addr).isSome
    (lineBytes l addr size, if fillIt || present then s1.setUnit u (putLine (cacheLines u) (s1.getUnit u) l) else s1)
  | none =>
    let r := (s.fill p node off).readSite p t size
    (BitVec.ofNat 64 (natOfBytes r.1), r.2.setUnit u (dropLine (r.2.getUnit u) addr))
/-- Serves the outstanding load of unit u; `k` marks a not-before load. -/
def State.answerLoad (s : State) (u : Nat) (addr : Word) (size : Nat) (timed : Bool) : State :=
  let x := s.getUnit u
  let p := x.part
  let node := addr.toNat / 2 ^ 48 % 256
  let off := addr.toNat % 2 ^ 48
  if (youngest x addr.toNat size).isSome || s.walkHeld p node off then s
  else match s.translate p node off size .r with
    | .error e =>
      let s1 := s.noteFail u e node off addr (if isSc u then 1 else 0)
      s1.setUnit u { s1.getUnit u with wait := .refusal e.cause e.sub (failTval e node addr) }
    | .ok t =>
      if s.homeUp p t && s.servesSite p t u (.load u) false && !s.dueOver (s.siteBase p t) size then
        let r := (s.dropTicketSite t (.load u)).serveLoad u addr size t (!timed)
        r.2.setUnit u { r.2.getUnit u with wait := .value r.1 }
      else s
/-- A line leaves unit u's read cache (R151). -/
def State.evictLine (s : State) (u : Nat) (a : Word) : State := s.setUnit u (dropLine (s.getUnit u) a)
/-- The outstanding load of unit u is served, or only starts a walk. -/
def execHomeLoad (u : Nat) (walk : Bool) (s : State) : Out :=
  match (s.getUnit u).wait with
  | .load addr size none =>
    if walk then .next (s.startWalk (s.getUnit u).part (addr.toNat / 2 ^ 48 % 256) (addr.toNat % 2 ^ 48))
    else .next (s.answerLoad u addr size false)
  | _ => idle s
/-- A not-before load reads at its home once its unit's clock has reached T, by the signed distance of R156 (R161). -/
def execNotBeforeLoad (u : Nat) (s : State) : Out :=
  match (s.getUnit u).wait with
  | .load addr size (some t) => if (t - s.atimeOf (dieOf u)).toInt > 0 then idle s else .next (s.answerLoad u addr size true)
  | _ => idle s

end Sys2Proof.Machine
end

