-- ==== Sys2Proof/Machine/Queues.lean ====
section
/-! DEFINITION. Queues between stages (R118-R125) and the readiness of stages (R346). -/

namespace Sys2Proof.Machine

/-- A queue of a launch in one cluster: its launch, the logical cluster, its record, its indices. -/
structure QCtx where
  l : Launch
  lc : Nat
  n : Nat
  q : QueueRec
  st : QState
  deriving DecidableEq, Repr
/-- Queue n of a launch in logical cluster lc of partition p. -/
def State.queueAt (s : State) (p lid lc n : Nat) : Option QCtx :=
  match s.getLaunch p lid with
  | none => none
  | some l => (l.record.queues[n]?).map (fun q => ⟨l, lc, n, q, look q0 l.qs (16 * lc + n)⟩)
/-- Queue n of the firing on core u. -/
def State.queueOf (s : State) (u n : Nat) : Option QCtx :=
  let x := s.getUnit u
  (s.logCluster x.part (u / 16)).bind (fun lc => s.queueAt x.part x.firing.lid lc n)
def State.setQueue (s : State) (p : Nat) (c : QCtx) (st : QState) : State :=
  s.setLaunch p { c.l with qs := put q0 c.l.qs (16 * c.lc + c.n) st }
/-- Consecutive members of a list from i on. -/
def runFrom (l : List Nat) : Nat → Nat → Nat
  | 0, _ => 0
  | f + 1, i => if l.contains i then 1 + runFrom l f (i + 1) else 0
/-- Published indices that follow the last consumer-granted index without a gap (R118). -/
def filledOf (st : QState) : Nat := runFrom st.pub st.pub.length st.consumed
/-- Free slots (R118). -/
def freeOf (q : QueueRec) (st : QState) : Nat := q.depth - (st.granted - st.oldest)
def releaseOne (st : QState) (i : Nat) : QState :=
  let r := settleRel (st.rel.length + 1) st.oldest (i :: st.rel)
  { st with pub := st.pub.filter (· != i), rel := r.2, oldest := r.1 }
where
  /-- The oldest unreleased index moves over released ones. -/
  settleRel : Nat → Nat → List Nat → Nat × List Nat
    | 0, o, l => (o, l)
    | f + 1, o, l => if l.contains o then settleRel f (o + 1) (l.filter (· != o)) else (o, l)
def releaseMany (st : QState) (i k : Nat) : QState := (List.range k).foldl (fun t j => releaseOne t (i + j)) st
def publishMany (st : QState) (i k : Nat) : QState := { st with pub := (List.range k).foldl (fun l j => (i + j) :: l) st.pub }
/-- Byte in its core's scratchpad where slot index i starts (R118, R125). -/
def slotOffset (q : QueueRec) (i : Nat) : Nat := q.base + (i % q.depth) * (8 * q.slot8)

-- readiness (R346)

def bindsOut (q : QueueRec) (k : Nat) : Bool := q.pstage == k
def bindsIn (q : QueueRec) (k : Nat) : Bool := q.cstage == k
/-- Every output queue of stage k has room for its window. -/
def outFree (l : Launch) (lc k : Nat) : Bool :=
  (List.range l.record.queues.length).all (fun n => match l.record.queues[n]? with
    | some q => !bindsOut q k || decide (q.prate ≤ freeOf q (look q0 l.qs (16 * lc + n)))
    | none => true)
def inFilled (l : Launch) (lc k : Nat) : Bool :=
  (List.range l.record.queues.length).all (fun n => match l.record.queues[n]? with
    | some q => !bindsIn q k || decide (q.crate ≤ filledOf (look q0 l.qs (16 * lc + n)))
    | none => true)
/-- The WIDs of a cluster's backlog that stage k has not taken, oldest first. -/
def waitingWids (x : Cluster) (p lid k : Nat) : List Pending :=
  x.backlog.filter (fun b => b.part == p && b.lid == lid && !b.taken.contains k)
/-- Stage k of a launch is ready in a cluster. -/
def stageReady (x : Cluster) (p : Nat) (l : Launch) (lc k : Nat) : Bool :=
  l.st == .running &&
  match l.record.stages[k]? with
  | none => false
  | some g => outFree l lc k && (if g.src then !(waitingWids x p l.lid k).isEmpty else inFilled l lc k)
/-- Ready-since times of a cluster after a change. -/
def State.refreshReady (s : State) (p pc : Nat) : State :=
  match s.logCluster p pc with
  | none => s
  | some lc =>
    let x := s.getCluster pc
    let now := (s.atimeOf (dieOfCluster pc)).toNat
    let others := x.ready.filter (fun r => r.part != p)
    let mine := (s.getPart p).launches.flatMap (fun l => (List.range l.record.stages.length).filterMap (fun k =>
      if stageReady x p l lc k then
        match x.ready.find? (fun r => r.part == p && r.lid == l.lid && r.stage == k) with
        | some r => some r
        | none => some { part := p, lid := l.lid, stage := k, since := now }
      else none))
    s.setCluster pc { x with ready := others ++ mine }

/-- The latch of every core of the cluster whose firing has the queue bound (R144). -/
def State.queueLatch (s : State) (p pc lid n : Nat) : State :=
  (List.range 16).foldl (fun t k =>
    let u := t.getUnit (16 * pc + k)
    if u.part = p ∧ u.firing.lid = lid ∧ (look handle0 u.handles n).isSome ∧ u.run ≠ .idle then t.setLatch (16 * pc + k) else t) s

/-- Writes the tag of k slots from index i on (R120). -/
def State.writeTags (s : State) (p lid : Nat) (c : QCtx) (tag : Word) : Nat → Nat → Option State
  | 0, _ => some s
  | k + 1, i =>
    match s.physCore p c.lc c.q.core with
    | none => some s
    | some core =>
      match s.writeScratch p lid core (slotOffset c.q i) (bytesOfNat 8 tag.toNat) with
      | none => none
      | some t => t.writeTags p lid c tag k (i + 1)
/-- Slots i .. i+k-1 of queue n of the firing on core u become published with a tag; none when a tag's post must wait. -/
def State.publish (s : State) (u n i k : Nat) (tag : Word) : Option State :=
  let x := s.getUnit u
  match s.queueOf u n with
  | none => some s
  | some c =>
    match s.writeTags x.part x.firing.lid c tag k i with
    | none => none
    | some t0 =>
      -- the publishing core's cached copies of the tags' lines go (R184)
      let t := match s.physCore x.part c.lc c.q.core with
        | some core => (List.range k).foldl (fun t j => t.evictLine u (s.geq x.part core (slotOffset c.q (i + j)))) t0
        | none => t0
      match t.queueOf u n with
      | none => some t
      | some d => some (((t.setQueue x.part d (publishMany d.st i k)).queueLatch x.part (u / 16) x.firing.lid n).refreshReady x.part (u / 16))
/-- Slots i .. i+k-1 become released. -/
def State.releaseSlots (s : State) (u n i k : Nat) : State :=
  let x := s.getUnit u
  match s.queueOf u n with
  | none => s
  | some c => ((s.setQueue x.part c (releaseMany c.st i k)).queueLatch x.part (u / 16) x.firing.lid n).refreshReady x.part (u / 16)

-- the instructions (R121-R125)

def handleOf (u : Unit) (n : Nat) : Option Handle := look handle0 u.handles n
def remaining (h : Handle) : Nat := h.rate - h.adv
def advance_ (u : Unit) (n k : Nat) (h : Handle) : Unit :=
  { u with handles := put handle0 u.handles n (some { h with cursor := h.cursor + k, adv := h.adv + k }) }
/-- RATE-VIOLATION with its tval (R121). -/
def rateTrap (s : State) (v : Nat) : Out := raise s 0x10 (BitVec.ofNat 64 v)
/-- Runs k with the handle, after the checks of R121: bound, direction, count. -/
def withHandle (s : State) (n : Nat) (out : Bool) (k : Word) (f : Handle → QCtx → Out) : Out :=
  match handleOf s.cur n, s.queueOf s.focus n with
  | some h, some c =>
    if h.out ≠ out then rateTrap s (0x400 + n)
    else if k.toNat > remaining h then rateTrap s (0x200 + n)
    else f h c
  | _, _ => rateTrap s (0x100 + n)

def execQwaitF (q : Fin 16) (rs1 : Reg) (s : State) : Out :=
  guardU (.qwaitF q rs1) false s (withHandle s q false (s.x rs1) (fun h c =>
    if (List.range (s.x rs1).toNat).all (fun j => c.st.pub.contains (h.cursor + j)) then .next s.observe.retire else .next s))
/-- Output windows are free from the start of a firing (R119, R122). -/
def execQwaitE (q : Fin 16) (rs1 : Reg) (s : State) : Out :=
  guardU (.qwaitE q rs1) false s (withHandle s q true (s.x rs1) (fun _ _ => .next s.retire))
def execQadvC (q : Fin 16) (rs1 : Reg) (s : State) : Out :=
  guardU (.qadvC q rs1) false s (withHandle s q false (s.x rs1) (fun h _ =>
    let k := (s.x rs1).toNat
    if k = 0 then .next s.retire
    else
      let t := s.releaseSlots s.focus q h.cursor k
      .next (State.retire { t with cur := advance_ t.cur q k h })))
/-- QADV.P first waits for the firing's stores, posted atomics and releases homed at the queue's cluster (R123, R175). -/
def execQadvP (q : Fin 16) (rs1 : Reg) (s : State) : Out :=
  guardU (.qadvP q rs1) false s (withHandle s q true (s.x rs1) (fun h _ =>
    let k := (s.x rs1).toNat
    if k = 0 then .next s.retire
    else if !s.homeDrained s.focus (0x10 + s.focus / 16) (fun f _ => f == s.cur.firing.fid) then .next s
    else match s.publish s.focus q h.cursor k s.cur.firing.wid with
      | none => .next s
      | some t => .next (State.retire { t with cur := advance_ t.cur q k h })))
def execQcnt (rd : Reg) (q : Fin 16) (s : State) : Out :=
  guardU (.qcnt rd q) false s (
    match handleOf s.cur q, s.queueOf s.focus q with
    | some h, some c =>
      let n := if h.out then freeOf c.q c.st else filledOf c.st
      .next (s.done 1 rd (BitVec.ofNat 64 (remaining h + n * 2 ^ 32)))
    | _, _ => rateTrap s (0x100 + q))
def execQslot (rd : Reg) (q : Fin 16) (rs1 : Reg) (s : State) : Out :=
  guardU (.qslot rd q rs1) false s (
    match handleOf s.cur q, s.queueOf s.focus q with
    | some h, some c =>
      if (s.x rs1).toNat ≥ remaining h then rateTrap s (0x200 + q)
      else .next (s.done 1 rd (BitVec.ofNat 64 (0x800000 + c.q.core * 0x80000 + slotOffset c.q (h.cursor + (s.x rs1).toNat))))
    | _, _ => rateTrap s (0x100 + q))

end Sys2Proof.Machine
end

