-- ==== Sys2Proof/Machine/Control.lean ====
section
/-! DEFINITION. Control instructions: FIN, WIDF, GROW, LAUNCH, the loops, WFE, TRET (R101, R107, R111-R117, R126, R143-R145), and taking
an asynchronous cause (R105, R106). -/

namespace Sys2Proof.Machine

-- the end of a firing (R111, R112)

/-- The first bound handle that has not advanced by its whole rate. -/
def shortHandle (u : Unit) : Option (Nat × Nat) :=
  (List.range 16).findSome? (fun n => match handleOf u n with
    | some h => if h.adv ≠ h.rate then some (n, h.rate - h.adv) else none
    | none => none)
/-- Advances every bound handle over its remaining window: inputs released, outputs published as abandoned (R112). -/
def State.abandonAll (u : Nat) : List Nat → State → Option State
  | [], s => some s
  | n :: ns, s =>
    match handleOf (s.getUnit u) n with
    | none => State.abandonAll u ns s
    | some h =>
      let r := if h.out then s.publish u n h.cursor (remaining h) (BitVec.allOnes 64) else some (s.releaseSlots u n h.cursor (remaining h))
      match r with
      | none => none
      | some t => State.abandonAll u ns (t.setUnit u { t.getUnit u with handles := put handle0 (t.getUnit u).handles n none })
/-- FIN in S mode on unit u (R112, R138); none when a tag's post must wait. -/
def State.finS (s : State) (u : Nat) : Option State :=
  match State.abandonAll u (List.range 16) s with
  | none => none
  | some t =>
    let x := t.getUnit u
    let t1 := t.answerOwed u 1 x.t.tcause x.t.tval
    let t2 := t1.setUnit u { t1.getUnit u with asyncs := [] }
    some (t2.endFiring u)
def execFin (s : State) : Out :=
  if s.cur.priv = .u then
    match shortHandle s.cur with
    | some (n, d) => rateTrap s (0x300 + n + d * 2 ^ 16)
    | none => .next ((s.answerOwed s.focus 3 0 0).endFiring s.focus)
  else match s.finS s.focus with
    | some t => .next t
    | none => .next s

-- WIDF (R113, R114)

/-- Field k of a WID under a list of widths. -/
def widField (widths : List Nat) (wid : Word) (k : Nat) : Word :=
  match widths[k]? with
  | none => 0
  | some w => (wid >>> (widths.drop (k + 1)).sum) &&& BitVec.ofNat 64 (2 ^ w - 1)
def State.widths (s : State) : List Nat :=
  match s.getLaunch s.cur.part s.cur.firing.lid with
  | some l => l.record.widths
  | none => []
def execWidf (rd : Reg) (k : Fin 6) (s : State) : Out :=
  guardU (.widf rd k) false s (.next (s.done 1 rd (widField s.widths s.cur.firing.wid k)))

-- GROW (R115, R342): the dispatcher answers in the same step

def widSpace (r : Record) : Nat := 2 ^ r.widths.sum
def execGrow (rd rs1 : Reg) (s : State) : Out :=
  guardU (.grow rd rs1) false s (
    let g := (s.x rs1).toNat
    match s.getLaunch s.cur.part s.cur.firing.lid with
    | none => .next (s.done 1 rd (BitVec.allOnes 64))
    | some l =>
      if l.groups + g ≤ widSpace l.record ∧ l.groups + g < 2 ^ 64 then
        .next (State.done (s.setLaunch s.cur.part { l with groups := l.groups + g, waitFrom := if l.next < l.groups then l.waitFrom else s.now }) 1 rd (BitVec.ofNat 64 l.groups))
      else .next (s.done 1 rd (BitVec.allOnes 64)))

-- LAUNCH (R116, R117)

/-- Reads doublewords as loads would; the first failure traps. -/
def State.readAs : Nat → State → Word → Except (TFail × Word × State) (List Byte × State)
  | 0, s, _ => .ok ([], s)
  | n + 1, s, addr =>
    match s.access addr 8 .r with
    | .error e => .error (⟨e.1, 0⟩, e.2, s)
    | .ok spot =>
      let r : Except (TFail × Word × State) (List Byte × State) := match spot with
        | .scratch core a => .ok (s.readBytes (fun i => scratchKey core (a + i)) 8, s)
        | .sram i a => .ok (s.readBytes (fun j => sramKey i (a + j)) 8, s)
        | .mmio _ => .error (⟨2, 0⟩, addr, s)
        | .global node off => match s.translate s.cur.part node off 8 .r with
          | .error e => .error (e, failTval e node addr, s.noteFail s.focus e node off addr s.accKind)
          | .ok t =>
            -- the line leaves the read cache, which may hold older bytes (R184)
            let q := (s.fill s.cur.part node off).readSite s.cur.part t 8
            .ok (q.1, { q.2 with cur := dropLine q.2.cur addr })
      match r with
      | .error e => .error e
      | .ok (bs, t) => match State.readAs n t (addr + 8) with
        | .error e => .error e
        | .ok (cs, t2) => .ok (bs ++ cs, t2)
/-- The address of a record: a multiple of 64 that is no MMIO and has a target. -/
def State.recordAddr (s : State) (a : Word) : Option Cause :=
  if a.toNat % 64 ≠ 0 then some (1, a)
  else match classify (isSc s.focus) a with
    | .mmio _ | .nowhere => some (2, a)
    | _ => none
/-- Reading n bytes of a record must wait: an own write to them is not performed, or their home does not serve now (R182, R303, R321). -/
def State.recordHeld (s : State) (a : Word) (n : Nat) : Bool :=
  s.writePending (s.addrGeq s.focus s.cur.part a).toNat n ||
  (match classify (isSc s.focus) a with
    | .global _ _ => s.rangeHeld s.cur.part a n
    | _ => false)
def execLaunch (rd rs1 : Reg) (s : State) : Out :=
  guardU (.launch rd rs1) false s (
    match s.cur.wait with
    | .value v => .next (s.done 1 rd v)
    | .record _ _ => .next s
    | _ =>
      let a := s.x rs1
      match s.recordAddr a with
      | some e => raise s e.1 e.2
      | none =>
        if !s.allDrained s.focus (fun f _ => f == s.cur.firing.fid) then .next s
        else if s.recordHeld a 8 then .next (s.stall (.retry a))
        else match State.readAs 1 s a with
          | .error e => raisePlace e
          | .ok (h, t) =>
            let len := max 64 (natOfBytes (h.drop 6))
            if s.recordHeld a len then .next (s.stall (.retry a))
            else match State.readAs ((len + 7) / 8) t a with
            | .error e => raisePlace e
            | .ok (bs, t2) => .next (t2.stall (.record a bs)))

-- reply slots and their deadlines (R103)

/-- Some slot of unit u has timed out: it becoming READY sets the event latch (R144). -/
def State.slotExpired (s : State) (u : Nat) : Bool :=
  (List.range 16).any (fun k => (look slot0 (s.getUnit u).slots k).st == .waiting && (s.slotNow u k).st == .ready)
/-- The slots of the unit in focus that have timed out become READY, before it looks at them or at its latch (R103, R144). -/
def State.expire (s : State) : State :=
  if s.slotExpired s.focus then
    { s with cur := { s.cur with latch := true, slots := (List.range 16).foldl (fun m k => put slot0 m k (s.slotNow s.focus k)) s.cur.slots } }
  else s

-- WFE (R144, R145)

def execWfe (rs1 : Reg) (s : State) : Out :=
  guardU (.wfe rs1) false s (
    let s := s.expire
    let t := s.x rs1
    let clear := { s with cur := { s.cur with latch := false } }
    match s.cur.wait with
    | .value _ => .next clear.retire
    | _ =>
      if s.cur.latch || (t != 0 && decide (t.toNat ≤ s.atime.toNat)) then .next clear.retire
      else .next (s.stall (.event t)))
/-- A waiting WFE's time T is reached. -/
def execWfeTimeout (u : Nat) (s : State) : Out :=
  let x := s.getUnit u
  match x.wait with
  | .event t => if t ≠ 0 ∧ t.toNat ≤ (s.atimeOf (dieOf u)).toNat then .next (s.setUnit u { x with wait := .value 0 }) else idle s
  | _ => idle s

-- loops (R101, R126, R127)

/-- LPSET and LPSETI with their count. -/
def lpsetOp (n : Fin 2) (count : Word) (imm : BitVec 12) (s : State) : Out :=
  let u := s.cur
  let start := u.pc + 4
  let last := u.pc + BitVec.ofNat 64 (4 * imm.toNat)
  let fits := if n = 0 then u.lp1.count == 0
    else u.lp0.count != 0 && decide (u.lp0.start.toNat ≤ start.toNat) && decide (last.toNat ≤ u.lp0.last.toNat)
  if imm = 0 then raise s 0x17 1
  else if !fits then raise s 0x17 2
  else
    let l : Loop := { start := start, last := last, count := count }
    let v := if n = 0 then { u with lp0 := l } else { u with lp1 := l }
    if count = 0 then .next { s with cur := afterInstr v 1 last none (last + 4) }
    else .next (State.retire { s with cur := v })
def execLpset (n : Fin 2) (rs1 : Reg) (imm : BitVec 12) (s : State) : Out := lpsetOp n (s.x rs1) imm s
def execLpseti (n : Fin 2) (count : Fin 32) (imm : BitVec 12) (s : State) : Out := lpsetOp n (BitVec.ofNat 64 count.val) imm s
def execLpclr (n : Fin 2) (s : State) : Out :=
  let u := s.cur
  let v := { u with lp1 := { u.lp1 with count := 0 } }
  .next (State.retire { s with cur := if n = 0 then { v with lp0 := { v.lp0 with count := 0 } } else v })

-- the journal action of TRET (R104, R107, R143)

/-- A posted atomic. -/
def isAmo : JKind → Bool
  | .amo _ => true
  | _ => false
/-- In order of issue. -/
def insEntry (kv : Nat × JEntry) : List (Nat × JEntry) → List (Nat × JEntry)
  | [] => [kv]
  | x :: xs => if kv.2.ord < x.2.ord then kv :: x :: xs else x :: insEntry kv xs
/-- Replays (ACT 1) or drops (ACT 2) one entry; `marked` lists the homes that have their mark. -/
def State.actEntry (u act node : Nat) (acc : State × List Nat × List Nat) (j : Nat) : State × List Nat × List Nat :=
  let s := acc.1
  let x := s.getUnit u
  let e := look jentry0 x.journal j
  if e.st ≠ .refused ∨ e.node ≠ node then acc
  else
    let k := s.entryKey u e
    if act = 2 ∨ e.sub = 6 then
      (s.setUnit u { x with journal := put jentry0 x.journal j {} }, acc.2.1, k :: acc.2.2)
    else
      let e1 := { e with st := .issued, stage := .toHome, sub := 0, accepted := false, accepting := false, mark := !acc.2.1.contains k, sent := x.jord }
      (s.setUnit u { x with journal := put jentry0 x.journal j e1, jord := x.jord + 1 }, k :: acc.2.1, acc.2.2)
/-- The entries in the order of their issue, which R153 has the replay keep. DESIGN CHOICE (log 69): it is the index order of R104, but where
a store had to take a lower index. -/
def State.actOrder (s : State) (u : Nat) : List Nat :=
  (((s.getUnit u).journal.foldl (fun l kv => insEntry kv l) []).map (·.1))
/-- The journal action for unit u; a home of the node that gets no mark gets an unblock token. -/
def State.journalAct (s : State) (u act node : Nat) : State :=
  if act = 1 ∨ act = 2 then
    let p := (s.getUnit u).part
    let r := (s.actOrder u).foldl (State.actEntry u act node) (s, [], [])
    let homes := (r.2.2.filter (fun k => !r.2.1.contains k)).eraseDups
    { r.1 with tokens := r.1.tokens ++ homes.map (fun k => { src := u, key := k, part := p, sent := (r.1.getUnit u).jord }) }
  else s
/-- TRET (R107, R143); the watchdog restarts when its own handler returns (R347). DESIGN CHOICE (log 74): tjidx counts modulo 64, and the
node of a FREE entry is 0. -/
def execTret (s : State) : Out :=
  guardS .tret s (
    let st := s.cur.t.tstatus
    let node := (look jentry0 s.cur.journal (s.cur.t.tjidx.toNat % 64)).node
    let t := s.journalAct s.focus ((st.extractLsb' 8 2).toNat) node
    let u := t.cur
    let f := if u.firing.inWd then { u.firing with inWd := false, wdFired := false, since := t.now } else u.firing
    .next { t with cur := { u with priv := if st.getLsbD 0 then .s else .u, pc := alignPc u.t.tpc, wait := .none, tile := {},
                                   t := { u.t with tstatus := st &&& 0xFFFFFFFFFFFFFCFF#64 }, firing := f } })

-- taking an asynchronous cause (R105, R106, R109)

/-- Firmware replays or drops the refused entries of a stack core (R109); which of the two is left open, so a free byte decides. -/
def State.firmwareAct (s : State) (u node : Nat) : State :=
  let r := s.freeBytes 1
  r.2.journalAct u (1 + (natOfBytes r.1) % 2) node
/-- Unit u takes its oldest pending cause; the firing of a stack core ends, and firmware acts on the journal. -/
def execTrapEntry (u : Nat) (s : State) : Out :=
  let x := s.getUnit u
  match x.asyncs with
  | [] => idle s
  | a :: rest =>
    let node := (look jentry0 x.journal a.jidx).node
    if isSc u then
      (let z := s.setUnit u { x with asyncs := rest }
      if x.run = .idle then .next (z.firmwareAct u node)
      else if x.run = .running ∧ interruptible x.wait then .next (((z.refocus u).stackTrap a.code a.tval a.sub).firmwareAct u node)
      else idle s)
    else if x.run ≠ .running ∨ x.priv ≠ .u ∨ !interruptible x.wait then idle s
    else
      let y := s.refocus u
      let z : State := { y with cur := { y.cur with asyncs := rest } }
      if x.t.tvec = 0#64 then .next (z.freeze u a.code a.tval false a.sub)
      else .next (z.enterTrap a.code true a.tval 0 a.jidx)

end Sys2Proof.Machine
end

