-- ==== Sys2Proof/Machine/Messages.lean ====
section
/-! DEFINITION. Messages, remote calls and replies (R14-R16, R103, R129-R142). -/

namespace Sys2Proof.Machine

/-- a0-a5. -/
def State.args (s : State) : List Word := [s.x 10, s.x 11, s.x 12, s.x 13, s.x 14, s.x 15]
/-- Writes a0-a5. -/
def State.setArgs (s : State) (p : List Word) : State :=
  (List.range 6).foldl (fun t i => t.setReg (Fin.ofNat 32 (10 + i)) (p.getD i 0)) s
def dest0 : Dest := .core 0

/-- The target of a SEND form (R130). -/
def State.sendTarget (s : State) (v : Word) : Except Cause (Dest × Nat) :=
  let c := (v.extractLsb' 4 8).toNat
  if v.extractLsb' 12 52 = 0#52 ∧ c < 128 ∧ (s.physCore s.cur.part c (v.toNat % 16)).isSome then .ok (.core (v.toNat % 4096), 0x10 + c)
  else .error (5, v)
/-- The target of an RCALL (R135). -/
def State.callTarget (s : State) (v : Word) : Except Cause (Dest × Nat) :=
  let p := s.cur.part
  let core := fun (c k : Nat) => if (s.physCore p c k).isSome then .ok (.core (16 * c + k), 0x10 + c)
    else .error (5, BitVec.ofNat 64 (16 * c + k))
  let miss : Nat → Except Cause (Dest × Nat) := fun n => .error (5, BitVec.ofNat 64 n)
  match classify (isSc s.focus) v with
  | .own _ =>
    if isSc s.focus then
      (let n := (s.logStack p (stackOf s.focus)).getD 0
      .ok (.stackCore n ((s.focus - 2048) % 32), n))
    else if isCore s.focus then .ok (.core (s.cidOf p s.focus), 0x10 + s.cidOf p s.focus / 16)
    else .error (2, v)
  | .window c _ => match s.myLog with
    | some lc => core lc c
    | none => .error (2, v)
  | .global n off =>
    if !nodeValid (s.node p n) then miss n
    else if isClusterNode n then (if off < 0x800000 then core (n - 0x10) (off / 0x80000) else miss n)
    else if isStackNode n then .ok (.stackCore n (off / 4096 % 32), n)
    else if isStripeNode n then
      (let l := s.stripe p (nodeTarget (s.node p n) % 16)
      let m := l.getD (off / 4096 % l.length) 0
      if l.length = 0 ∨ (s.physStack p m).isNone then miss n else .ok (.stackCore m (off / 4096 % 32), m))
    else miss n
  | _ => .error (2, v)
/-- The physical unit of a destination. -/
def State.destUnit (s : State) (p : Nat) : Dest → Option Nat
  | .core c => s.physCore p (c / 16) (c % 16)
  | .stackCore n i => (s.physStack p n).map (fun g => 2048 + 32 * g + i)

/-- The message a send of the unit in focus makes. -/
def State.mkMsg (s : State) (kind slot gen : Nat) (hpc target : Word) : Msg :=
  { kind := kind, onode := s.originNode s.cur.part s.focus, ounit := s.cidOf s.cur.part s.focus, slot := slot, gen := gen,
    lid := s.cur.firing.lid, part := s.cur.part, hpc := hpc, pay := s.args, target := target }
/-- Puts a message in the send queue. -/
def State.enqueue (s : State) (m : Msg) (d : Dest) (node : Nat) : State :=
  { s with cur := { s.cur with sendq := s.cur.sendq ++ [{ msg := m, dest := d, node := node, ord := s.cur.jord, fid := s.cur.firing.fid }] } }
/-- rcto as it acts (R97). -/
def replyTicks (u : Unit) : Nat := max 4096 (u.rcto.extractLsb' 0 40).toNat
/-- Allocates slot k (R103). -/
def allocSlot (u : Unit) (k now : Nat) : Unit :=
  let x := look slot0 u.slots k
  { u with slots := put slot0 u.slots k { st := .waiting, gen := x.gen + 1, deadline := now + replyTicks u, status := 0, pay := [] } }
/-- The common mould of SEND, SEND.R, SENDNB and RCALL (R130). -/
def sendOp (s : State) (kind : Nat) (reply nb : Bool) (rd : Reg) (hpc : Word) (target : Word) (t : Except Cause (Dest × Nat)) : Out :=
  if hpc.toNat % 4 ≠ 0 then raise s 1 hpc
  else match t with
    | .error e => raise s e.1 e.2
    | .ok (d, node) =>
      let full := decide (s.cur.sendq.length ≥ 16)
      let fullTrap := if nb then Host.Outcome.next (s.done 1 rd 1) else raise s 6 0
      if reply then
        match freeSlot s.cur with
        | none => raise s 7 0
        | some k =>
          if full then fullTrap
          else
            let s1 := { s with cur := allocSlot s.cur k s.atime.toNat }
            let m := s1.mkMsg kind k (look slot0 s1.cur.slots k).gen.toNat hpc target
            .next ((s1.enqueue m d node).done 1 rd (BitVec.ofNat 64 k))
      else if full then fullTrap
      else
        let t := s.enqueue (s.mkMsg kind 0 0 hpc target) d node
        .next (if nb then t.done 1 rd 0 else t.retire)

def execSend (rs1 rs2 : Reg) (s : State) : Out := sendOp s 0 false false 0 (s.x rs2) 0 (s.sendTarget (s.x rs1))
def execSendR (rd rs1 rs2 : Reg) (s : State) : Out :=
  guardU (.sendR rd rs1 rs2) false s (sendOp s 1 true false rd (s.x rs2) 0 (s.sendTarget (s.x rs1)))
def execSendnb (rd rs1 rs2 : Reg) (s : State) : Out :=
  guardU (.sendnb rd rs1 rs2) false s (sendOp s 0 false true rd (s.x rs2) 0 (s.sendTarget (s.x rs1)))
def execRcall (rd rs1 rs2 : Reg) (s : State) : Out := sendOp s 2 true false rd (s.x rs2) (s.x rs1) (s.callTarget (s.x rs1))

/-- REPLY (R137). -/
def execReply (s : State) : Out :=
  match s.cur.firing.owed with
  | none => .next s.retire
  | some r =>
    if s.cur.firing.replied then .next s.retire
    else if s.homeDrained s.focus (unitHome s.focus) (fun f _ => f == s.cur.firing.fid) then
      .next (State.retire ({ s with cur := { s.cur with firing := { s.cur.firing with replied := true } } }.sendReply r 0 s.args))
    else .next s

/-- RWAIT and RPOLL on a slot (R139-R141). -/
def slotOp (s0 : State) (rd : Reg) (v : Word) (poll : Bool) : Out :=
  let s := s0.expire
  let x := s.slotNow s.focus v.toNat
  if v.toNat > 15 then .next (s.done 1 rd 3)
  else match x.st with
    | .free => .next (s.done 1 rd 3)
    | .waiting => if poll then .next (s.done 1 rd 4) else .next s
    | .ready =>
      if x.status = 1 ∧ s.cur.rctl.getLsbD 0 then raise s 8 (x.pay.getD 0 0)
      else
        let s1 := { s with cur := { s.cur with slots := put slot0 s.cur.slots v.toNat { gen := x.gen } } }
        let s2 := if x.status ≤ 1 then (if poll then s1 else s1.observe).setArgs x.pay else s1
        .next (s2.done 1 rd (BitVec.ofNat 64 x.status))
def execRwait (rd rs1 : Reg) (s : State) : Out := slotOp s rd (s.x rs1) false
def execRpoll (rd rs1 : Reg) (s : State) : Out := slotOp s rd (s.x rs1) true

-- discarding (R133, R138)

/-- A message is discarded at unit dst: PLACE-MISS in the terminal ring, status 3 to a caller. -/
def State.discard (s : State) (dst : Nat) (m : Msg) : State :=
  let r : FaultRec :=
    { cause := 5, kind := 3, lid := m.lid, unit := s.unitField m.part dst, addr := BitVec.ofNat 64 (s.originNode m.part dst),
      val := BitVec.ofNat 64 (s.cidOf m.part dst), time := (s.atimeOf (dieOf dst)).toNat,
      late := m.kind == 3 && (m.pay.getD 5 0).getLsbD 10, msg := some m, src := some dst }
  let s1 := s.report m.part true r
  if m.kind = 1 ∨ m.kind = 2 then s1.sendReply { part := m.part, node := m.onode, ounit := m.ounit, slot := m.slot, gen := m.gen } 3 [0, 0, 0, 0, 0, 0] dst
  else s1

-- steps

/-- The home that a message's destination node names (R131). -/
def State.nodeHome (s : State) (p node : Nat) : Nat :=
  if node < 8 then (s.physStack p node).getD 0xFF else 0x10 + (s.physCluster p (node - 0x10)).getD 0xEF
def execMessageDepart (u : Nat) (s : State) : Out :=
  let x := s.getUnit u
  match x.sendq with
  | [] => idle s
  | o :: rest =>
    -- a message left by an ended firing is its own partition's
    if s.suspended o.msg.part ∨ !s.homeDrained u (s.nodeHome o.msg.part o.node) (fun _ n => decide (n < o.ord)) then idle s
    else
      let s1 := s.setUnit u { x with sendq := rest }
      match s1.destUnit o.msg.part o.dest with
      | some d => .next { s1 with flights := s1.flights ++ [{ src := u, dst := d, dest := o.dest, msg := o.msg, fid := o.fid }] }
      | none => .next (s1.discard u o.msg)
/-- An earlier message of the same sender to the same unit is still in flight (R132). -/
def earlier (fs : List Flight) (k : Nat) (f : Flight) : Bool := (fs.take k).any (fun g => g.src == f.src && g.dst == f.dst)
def execMessageAccept (k : Nat) (s : State) : Out :=
  match s.flights[k]? with
  | none => idle s
  | some f =>
    let x := s.getUnit f.dst
    let mapped := ((s.logCluster f.msg.part (f.dst / 16)).bind (fun lc => s.logCore f.msg.part lc (f.dst % 16))).isSome
    if x.inbox.length ≥ 64 ∨ (isCore f.dst ∧ !mapped) ∨ earlier s.flights k f ∨ s.suspended f.msg.part then idle s
    else
      let p := f.msg.part
      let cu := s.logCore_ p f.dst
      let sender := f.msg.onode * 2 ^ 12 + f.msg.ounit
      let choice := BitVec.ofNat 64 (sender + s.reqCount p f.msg.lid 2 cu sender * 2 ^ 20)
      match s.choose p f.msg.lid 2 cu choice (fun c => decide (c.toNat / 2 ^ 20 % 2 ^ 32 < s.reqCount p f.msg.lid 2 cu (c.toNat % 2 ^ 20))) with
      | none => idle s
      | some t =>
        let t1 := t.countReq p f.msg.lid 2 cu sender
        let y := t1.getUnit f.dst
        .next (State.setUnit { t1 with flights := t1.flights.eraseIdx k } f.dst { y with inbox := y.inbox ++ [f.msg], latch := true })
def execReplyArrival (k : Nat) (s : State) : Out :=
  match s.replies[k]? with
  | none => idle s
  | some r =>
    if s.suspended r.part then idle s
    else
      let s1 := { s with replies := s.replies.eraseIdx k }
      let x := s1.getUnit r.dst
      let sl := look slot0 x.slots r.slot
      let now := (s1.atimeOf (dieOf r.dst)).toNat
      if x.part = r.part ∧ sl.st = .waiting ∧ sl.gen.toNat = r.gen ∧ now ≤ sl.deadline then
        .next (s1.setUnit r.dst { x with slots := put slot0 x.slots r.slot { sl with st := .ready, status := r.status, pay := r.pay }, latch := true })
      else .next (s1.setUnit r.dst { x with late := if x.late = 0xFFFF#16 then x.late else x.late + 1 })
/-- A slot that has timed out becomes READY (R103). -/
def execReplyTimeout (u slot : Nat) (s : State) : Out :=
  let x := s.getUnit u
  if (look slot0 x.slots slot).st = .waiting ∧ (s.slotNow u slot).st = .ready then
    .next (s.setUnit u { x with slots := put slot0 x.slots slot (s.slotNow u slot), latch := true })
  else idle s

end Sys2Proof.Machine
end

