-- ==== Sys2Proof/Machine/Sync.lean ====
section
/-! DEFINITION. The synchronisation unit's instructions (R286-R288) and the fences (R45, R173, R318). -/

namespace Sys2Proof.Machine

/-- The cluster of the unit in focus. -/
def State.myCluster (s : State) : Nat := s.focus / 16

-- semaphores, barriers, bitmaps (R288)

def execSemwait (i : Fin 64) (rs1 : Reg) (s : State) : Out :=
  guardU (.semwait i rs1) false s (
    let w := s.sem s.myCluster i
    if semFault w then raise s 0x0F (BitVec.ofNat 64 (0x1001000 + 32 * i.val))
    else if semValue w ≥ (s.x rs1).toNat % 2 ^ 32 then .next s.observe.retire
    else .next s)
def execSemadd (i : Fin 64) (rs1 : Reg) (s : State) : Out :=
  guardU (.semadd i rs1) false s (
    let w := s.sem s.myCluster i
    let v := clampInt 0 (2 ^ 32 - 1) (semValue w + ((s.x rs1).extractLsb' 0 32).toInt)
    .next (s.setSem s.myCluster i (mkSem (semFault w) v.toNat)).retire)
def execSemset (i : Fin 64) (rs1 : Reg) (s : State) : Out :=
  guardU (.semset i rs1) false s (.next (s.setSem s.myCluster i (mkSem false ((s.x rs1).toNat % 2 ^ 32))).retire)
def execSemrd (rd : Reg) (i : Fin 64) (s : State) : Out :=
  guardU (.semrd rd i) false s (.next (s.observe.done 1 rd (s.sem s.myCluster i)))
def setBar (u : Unit) (i : Nat) (v : Word) : Unit := { u with eng := { u.eng with bars := put word0 u.eng.bars i v } }
def setCbm (u : Unit) (i : Nat) (v : Word) : Unit := { u with eng := { u.eng with cbms := put word0 u.eng.cbms i v } }
def execBardecl (i : Fin 16) (rs1 : Reg) (s : State) : Out :=
  guardU (.bardecl i rs1) false s (
    let v := (s.x rs1).extractLsb' 0 40
    let u := setBar s.cur i (v.setWidth 64)
    let rest := u.eng.declared.filter (fun j => j != i.val)
    .next (State.retire { s with cur := { u with eng := { u.eng with declared := if v = 0#40 then rest else i.val :: rest } } }))
/-- An accepted operation of the cluster has arrivals to make at barrier i of the unit in focus. -/
def State.arrivalsDue (s : State) (i : Nat) : Bool :=
  (s.getCluster s.myCluster).chans.any (fun ch => ch.2.any (fun o => o.cmpl == 3 && o.cidx == i && o.fail.isNone && o.part == s.cur.part
    && s.coreOf o.part s.myCluster o.ccore == some s.focus))
/-- BARWAIT (R288). DESIGN CHOICE (log 94): on a barrier that was declared with some bytes it also waits while an accepted operation has
arrivals to make there, so that bytes beyond the pending count trap (R7 and the table OVERRUN of 17_transfer_sync). -/
def execBarwait (i : Fin 16) (s : State) : Out :=
  guardU (.barwait i) false s (
    let w := look word0 s.cur.eng.bars i
    if w.extractLsb' 0 40 ≠ 0#40 then .next s
    else if s.cur.eng.declared.contains i.val && s.arrivalsDue i.val then .next s
    else if w.msb then raise s 0x0E ((w.extractLsb' 40 23).setWidth 64)
    else .next s.observe.retire)
def execChkwait (i : Fin 8) (rs1 : Reg) (s : State) : Out :=
  guardU (.chkwait i rs1) false s (
    let w := look word0 s.cur.eng.cbms i
    let m := s.x rs1
    if w &&& m = m then .next (State.retire { s with cur := setCbm (emptyCache s.cur) i (w &&& ~~~m) }) else .next s)
def execChktest (rd : Reg) (i : Fin 8) (rs1 : Reg) (s : State) : Out :=
  guardU (.chktest rd i rs1) false s (.next (s.observe.done 1 rd (look word0 s.cur.eng.cbms i &&& s.x rs1)))

-- fences (R173)

/-- Every journal entry of the core, and every posted atomic and release without an entry, is performed. -/
def State.allStoresDone (s : State) : Bool := s.allDrained s.focus (fun _ _ => true)
/-- FENCE.G: a core has no load outstanding between instructions, so only the invalidation is left. -/
def fenceG (s : State) : Out := .next (State.retire { s with cur := emptyCache s.cur })
def execFence (_pred _succ : BitVec 4) (s : State) : Out := fenceG s
def execFenceG (s : State) : Out := fenceG s
def execFenceJ (s : State) : Out := if s.allStoresDone then .next s.retire else .next s
/-- An engine operation of the current firing has not completed. -/
def State.opsPending (s : State) (u fid : Nat) : Bool :=
  let mine := fun (o : EOp) => o.src == some u && o.fid == fid
  (if isCore u then (List.range 8).any (fun ch => (chanOf (s.getCluster (u / 16)) ch).any mine) else false)
    || (List.range 8).any (fun g => (s.getStack g).redq.any mine || (s.getStack g).swq.any mine)
def execFenceE (s : State) : Out :=
  if s.allStoresDone && !s.opsPending s.focus s.cur.firing.fid then .next s.retire else .next s

/-- Bank commands of unit u outstanding at a pseudo-channel. -/
def State.bankOut (s : State) (u g c : Nat) : Bool := (s.getPch g c).cmds.any (fun b => b.src == u && b.part == (s.getUnit u).part)
/-- The stacks at which an access to a node's offset is served: the home, or that of the frame's node of a remote-mapped leaf. -/
def State.stacksOf (s : State) (p node off : Nat) : List Nat :=
  let at_ := fun (n o : Nat) => match s.home p n o with
    | some (.stack h) => [h]
    | _ => []
  at_ node off ++ (match s.forwardsTo p node off with
    | some (n, o) => at_ n o
    | none => [])
/-- The journal entries of a firing that are homed at a stack. -/
def State.stackEntry (s : State) (e : JEntry) (g : Option Nat) : Bool :=
  match classify (isSc s.focus) e.addr with
  | .global node off => (s.stacksOf e.part node off).any (fun h => g.all (· == h))
  | _ => false
/-- Stack, pseudo-channel and site that the address of a bank instruction names (R298), and the state after their walk; a failure with its
tval and state. -/
def State.bankPlace (s : State) (addr : Word) (need : Need) : Except (TFail × Word × State) (Nat × Nat × Site × State) :=
  match classify (isSc s.focus) addr with
  | .global node off =>
    if (isStackNode node || isStripeNode node) && (s.home s.cur.part node off).isSome then
      match s.translate s.cur.part node off 1 need with
      | .error e => .error (e, failTval e node addr, s.noteFail s.focus e node off addr (if isSc s.focus then 1 else 0))
      | .ok t => match s.pchOf s.cur.part t with
        | some (g, c) => .ok (g, c, t, s.fill s.cur.part node off)
        | none => .error (⟨5, 0⟩, BitVec.ofNat 64 node, s)
    else .error (⟨5, 0⟩, BitVec.ofNat 64 node, s)
  | _ => .error (⟨5, 0⟩, addr, s)
/-- FENCE.B (R173, R318): a timed store's entry must be FREE (R150), since R159 does not name the fence. -/
def execFenceB (rs1 : Reg) (s : State) : Out :=
  let a := s.x rs1
  let fin := fun (s : State) => Host.Outcome.next (State.retire { s with cur := emptyCache s.cur })
  if a = 0 then
    (let busy := (List.range 8).any (fun g => (s.getStack g).pch.any (fun kv => kv.2.cmds.any (fun b => b.src == s.focus && b.part == s.cur.part)))
    if freed s.cur (fun e => e.fid == s.cur.firing.fid && s.stackEntry e none) && !busy then fin s else .next s)
  else if s.addrHeld (isSc s.focus) s.cur.part a then .next s
  else match s.bankPlace a .any with
    | .error e => raisePlace e
    | .ok (g, c, _, s) =>
      if freed s.cur (fun e => e.fid == s.cur.firing.fid && s.stackEntry e (some g)) && !s.bankOut s.focus g c then fin s else .next s

end Sys2Proof.Machine
end

