-- ==== Sys2Proof/Machine/Atomics.lean ====
section
/-! DEFINITION. The atomic engines: their requests and rotation (R164-R167, R169, R174, R292, R332), and the atomics (R174-R180). -/

namespace Sys2Proof.Machine

-- what an atomic computes (R175-R179)

def opf {n : Nat} (op : AOp) (old b c : BitVec n) : BitVec n :=
  match op with
  | .add => old + b
  | .and => old &&& b
  | .or => old ||| b
  | .xor => old ^^^ b
  | .min => if old.slt b then old else b
  | .max => if old.slt b then b else old
  | .minu => if old.ult b then old else b
  | .maxu => if old.ult b then b else old
  | .swap => b
  | .cas => if old = c then b else old
  | .faddS => (amoFadd (old.setWidth 32) (b.setWidth 32)).setWidth n
  | .faddBh => (amoFaddBh (old.setWidth 32) (b.setWidth 32)).setWidth n
  | .fmaxS => (amoFmax (old.setWidth 32) (b.setWidth 32)).setWidth n
  -- no atomics: `doRequest` does them
  | .acquire _ _ | .release _ => old
/-- The new bytes of a location, as a word; a 4-byte atomic uses bits 31:0. -/
def atomicNew (r : AReq) (old : Word) : Word :=
  if r.wide then opf r.op old r.b r.c else (opf r.op (old.setWidth 32) (r.b.setWidth 32 : BitVec 32) (r.c.setWidth 32)).setWidth 64
def aSize (r : AReq) : Nat := if r.wide then 8 else 4
/-- x[rd] of a returning atomic. -/
def atomicResult (wide : Bool) (old : Word) : Word := if wide then old else (old.extractLsb' 0 32).signExtend 64

-- objects' and atomics' addresses (R154 rows 2, 3, 7, 8; R165, R174)

/-- A target that has an atomic engine. -/
def State.engineCheck (s : State) (addr : Word) (n : Nat) : Except Cause Spot :=
  match s.access addr n .rw with
  | .error e => .error e
  | .ok (.mmio _) => .error (2, addr)
  | .ok (.sram _ _) => .error (2, addr)
  | .ok (.global node off) => if isHostNode node then .error (4, addr) else .ok (.global node off)
  | .ok t => .ok t
/-- The engine of a home: a cluster, or 4096 + stack; none for a host or a peer. -/
def engineOf : Home → Option Nat
  | .cluster pc _ => some pc
  | .stack g => some (4096 + g)
  | _ => none
/-- A core and byte that a local address of a unit names. -/
def State.localSpot (s : State) (u p : Nat) (a : Word) : Option (Nat × Nat) :=
  match classify (isSc u) a with
  | .own off => some (u, off)
  | .window c off => ((s.logCluster p (u / 16)).bind (fun lc => s.physCore p lc c)).map (fun core => (core, off))
  | _ => none

-- what an engine does with a request (R166, R169, R175)

/-- The result of a request: it was applied and read `old`; it joined a wait list; its translation failed; it belongs to another engine,
to which a changed translation leads; it waits. -/
inductive ARes
  | applied (old : Word) (s : State)
  | parked (s : State)
  | failed (f : TFail) (s : State)
  | moved (e : Nat)
  | wait
def isAcquire : AOp → Bool
  | .acquire _ _ => true
  | _ => false
def isRelease : AOp → Bool
  | .release _ => true
  | _ => false
def reqId (r : AReq) : ReqId :=
  match r.posted with
  | some j => .store r.src j
  | none => .atomic r.src
/-- A request is done at its place: `loc` is the byte of `mem` at which it lies, `name` its global-equivalent address there, `wr` writes
its new bytes raw. -/
def State.doRequest (s : State) (e loc : Nat) (name : Word) (old : Word) (wr : List Byte → Option State) (r : AReq) : ARes :=
  match r.op with
  | .acquire form thr =>
    (match s.acquireAt e { src := r.src, form := form, loc := loc, addr := r.addr, part := r.part, thr := thr, lid := r.lid, name := name } with
    | none => .wait
    | some (true, w, t) => .applied (objValue w) t
    | some (false, _, t) => .parked t)
  | .release v => .applied old (s.releaseAt e r.part name loc v)
  | _ => match wr (bytesOfNat (aSize r) (atomicNew r old).toNat) with
    | none => .wait
    | some t => .applied old t
/-- Engine e does a request, translating a global address (R155, R174). -/
def State.applyRequest (s : State) (e : Nat) (r : AReq) : ARes :=
  match classify (isSc r.src) r.addr with
  | .global node off =>
    if s.walkHeld r.part node off then .wait
    else (match s.translate r.part node off (aSize r) .rw with
    | .error f => .failed f s
    | .ok t =>
      let s1 := s.fill r.part node off
      if !(s1.homeUp r.part t && s1.servesSite r.part t r.src (reqId r) r.posted.isSome) then .wait
      else
        let rd := (s1.dropTicketSite t (reqId r)).readSite r.part t (aSize r)
        let old := BitVec.ofNat 64 (natOfBytes rd.1)
        match t.home with
        | .host _ => .failed ⟨4, 0⟩ s1
        | .peer _ => .applied (if isAcquire r.op then objValue old else old) rd.2
        | h => match engineOf h with
          | some g => if g ≠ e then .moved g
            else if s1.dueOver (s1.siteBase r.part t) (aSize r) then .wait
            else rd.2.doRequest e (s1.siteBase r.part t) (siteAddr t) old (rd.2.writeSite r.part r.lid t) r
          | none => .wait)
  | _ =>
    match s.localSpot r.src r.part r.addr with
    | none => .failed ⟨2, 0⟩ s
    | some (core, a) =>
      if s.suspended r.part || s.dueOver (scratchKey core a) (aSize r) then .wait
      else s.doRequest e (scratchKey core a) (s.geq r.part core a) (s.read (scratchKey core a) (aSize r)) (s.writeScratch r.part r.lid core a) r

-- refusals and answers (R104, R155)

/-- A journal entry of unit u changed; one that goes FREE is outstanding no more (R401). -/
def State.setEntry (s : State) (u j : Nat) (e : JEntry) : State :=
  let x := s.getUnit u
  s.setUnit u { x with journal := put jentry0 x.journal j e, idleSince := if e.st = .free then s.now else x.idleSince }
def State.entry (s : State) (u j : Nat) : JEntry := look jentry0 (s.getUnit u).journal j
/-- Does a block name an entry's home and source? -/
def State.blocks_ (s : State) (u : Nat) (e : JEntry) (b : Blocked) : Bool := b.part == e.part && b.key == s.entryKey u e && b.src == u
/-- The home refuses an entry as BLOCKED: it was sent after one that the home refused or rejected (R104). -/
def State.isBlocked (s : State) (u : Nat) (e : JEntry) : Bool := s.blocked.any (fun b => s.blocks_ u e b && decide (b.ord ≤ e.sent))
/-- A home refuses an entry of unit u with a subcode, and every store and posted atomic that the unit sent after it (R104). -/
def State.refuse (s : State) (u j sub : Nat) : State :=
  let e := s.entry u j
  let ord := (s.blocked.filter (s.blocks_ u e)).foldl (fun n b => min n b.ord) e.sent
  let rest := s.blocked.filter (fun b => !s.blocks_ u e b)
  { s.setEntry u j { e with stage := .refusal sub } with blocked := rest ++ [{ part := e.part, key := s.entryKey u e, src := u, ord := ord }] }
/-- The retryable record of an absent page met by a journal entry, or the successful walk of a page that refuses it (R383). -/
def State.noteEntry (s : State) (u : Nat) (e : JEntry) (f : TFail) : State :=
  let node := e.addr.toNat / 2 ^ 48 % 256
  let off := e.addr.toNat % 2 ^ 48
  if f.cause = 3 then s.reportAbsent e.part node off { s.absentRecord u e.addr (if isSc u then 1 else 0) with lid := e.lid }
  else s.fill e.part node off
def subOf (f : TFail) : Nat := if f.cause = 3 then 1 else 2
/-- The answer to a request that was applied. -/
def State.answerApplied (s : State) (r : AReq) (old : Word) : State :=
  match r.posted with
  | some j => s.setEntry r.src j { s.entry r.src j with stage := .ack }
  | none => if r.returning then s.setUnit r.src { s.getUnit r.src with wait := .value old } else s
/-- The answer to a request whose translation failed. -/
def State.answerFailed (s : State) (r : AReq) (f : TFail) : State :=
  match r.posted with
  | some j => ((s.noteEntry r.src (s.entry r.src j) f)).refuse r.src j (subOf f)
  | none =>
    let node := r.addr.toNat / 2 ^ 48 % 256
    let s1 := s.noteFail r.src f node (r.addr.toNat % 2 ^ 48) r.addr (if isSc r.src then 1 else 0)
    if r.returning then s1.setUnit r.src { s1.getUnit r.src with wait := .refusal f.cause f.sub (failTval f node r.addr) } else s1

-- the engines' rotation (R180, R292, R332)

def State.reqsOf (s : State) (e : Nat) : List AReq := if e < 4096 then (s.getCluster e).aeReqs else (s.getStack (e - 4096)).aeReqs
def State.setReqs (s : State) (e : Nat) (rs : List AReq) : State :=
  if e < 4096 then s.setCluster e { s.getCluster e with aeReqs := rs } else s.setStack (e - 4096) { s.getStack (e - 4096) with aeReqs := rs }
def State.aePosOf (s : State) (e : Nat) : Nat := if e < 4096 then (s.getCluster e).aePos else (s.getStack (e - 4096)).aePos
def State.setAePos (s : State) (e n : Nat) : State :=
  if e < 4096 then s.setCluster e { s.getCluster e with aePos := n } else s.setStack (e - 4096) { s.getStack (e - 4096) with aePos := n }
def positions (e : Nat) : Nat := if e < 4096 then 17 else 33
/-- A request meets RETRY, a closed ticket window or a link that is down, and so does not stand at its requester's head (R303, R333). -/
def State.reqHeld (s : State) (r : AReq) : Bool :=
  match classify (isSc r.src) r.addr with
  | .global node off => s.walkHeld r.part node off || match s.translate r.part node off (aSize r) .rw with
    | .ok t => !(s.homeUp r.part t && s.servesSite r.part t r.src (reqId r) r.posted.isSome)
    | .error _ => false
  | _ => s.suspended r.part
/-- The first request of position k that is not held; none of a source overtakes a held one of it. -/
def State.firstReq (s : State) (e k : Nat) : List AReq → List Nat → Option AReq
  | [], _ => none
  | r :: rs, held =>
    if s.position e r.part r.src ≠ k ∨ held.contains r.src then State.firstReq s e k rs held
    else if s.reqHeld r then State.firstReq s e k rs (r.src :: held)
    else some r
/-- The head request of each position, in the cycle after the last grant (R292). -/
def State.heads (s : State) (e : Nat) : List (Nat × AReq) :=
  let n := positions e
  (List.range n).filterMap (fun i =>
    let k := (s.aePosOf e + 1 + i) % n
    (s.firstReq e k (s.reqsOf e) []).map (fun r => (k, r)))
/-- A request leaves its engine's queue. -/
def State.takeReq (s : State) (e : Nat) (r : AReq) : State := s.setReqs e ((s.reqsOf e).erase r)
/-- A request moves to the queue of another engine. -/
def State.moveReq (s : State) (e g : Nat) (r : AReq) : State :=
  let s1 := s.takeReq e r
  let s2 := s1.setReqs g (s1.reqsOf g ++ [r])
  match r.posted with
  | some j => s2.setEntry r.src j { s2.entry r.src j with engine := g }
  | none => s2
/-- A posted request that its home now refuses as BLOCKED: an earlier one was refused when it came to its turn (R104). -/
def State.lateBlocked (s : State) (r : AReq) : Option Nat :=
  r.posted.bind (fun j => if s.isBlocked r.src (s.entry r.src j) then some j else none)
/-- Takes the first request that can be granted. A request that a replayed log does not name yet, or that cannot be applied yet, is passed
over. An acquire is a grant only when its object is granted; one that joins the wait list frees its requester's head (R167, R292). -/
def State.grantGo (e : Nat) (s : State) : List (Nat × AReq) → State
  | [] => s
  | (k, r) :: rest =>
    match s.lateBlocked r with
    | some j => (s.takeReq e r).refuse r.src j 5
    | none =>
      match (if isAcquire r.op then some s else s.grantChoice e r.part r.lid r.src) with
      | none => State.grantGo e s rest
      | some t =>
        match t.applyRequest e r with
        | .wait => State.grantGo e s rest
        | .moved g => s.moveReq e g r
        | .parked t1 => t1.takeReq e r
        | .applied old t1 => ((t1.takeReq e r).setAePos e k).answerApplied r old
        -- a release by an engine or the dispatcher waits for its page
        | .failed f t1 => if isUnit r.src then ((t1.takeReq e r).setAePos e k).answerFailed r f else State.grantGo e s rest
def State.grant (s : State) (e : Nat) : State := State.grantGo e s (s.heads e)
/-- A request reaches engine e; an engine that has no other takes it at once. -/
def State.submit (s : State) (e : Nat) (r : AReq) : State :=
  let t := s.setReqs e (s.reqsOf e ++ [r])
  if (s.reqsOf e).isEmpty then t.grant e else t

-- the order of one core's requests to one home (R153, R169, R180)

/-- A posted atomic or a release. -/
def isAmoRel : JKind → Bool
  | .store => false
  | _ => true
/-- An untimed journal entry of unit u to home k, issued before `ord` and of a kind that f selects, is not applied there: it is on its way
or at its engine, or its refusal has not been dealt with (log 80). -/
def State.entryBefore (s : State) (u k ord : Nat) (f : JKind → Bool) : Bool :=
  (s.getUnit u).journal.any (fun kv =>
    let e := kv.2
    !e.timed && f e.kind && decide (e.ord < ord) && s.entryKey u e == k &&
    (match e.st with
      | .issued => e.stage != .ack
      | .refused => true
      | .free => false))
/-- A posted atomic or release of the unit in focus to home k has not been applied (R180); with `stores`, a store counts too (R153). -/
def State.amoUnderWay (s : State) (k : Nat) (stores : Bool := false) : Bool :=
  s.entryBefore s.focus k s.cur.jord (fun e => stores || isAmoRel e) || (k == unitHome s.focus && s.releasing s.focus)
/-- The core's cached copy of a local location's line goes (R183). -/
def State.dropOwnLine (s : State) (spot : Spot) : State := { s with cur := dropLine s.cur (s.spotGeq spot) }
/-- The next place in the unit's issue order. -/
def State.bumpOrd (s : State) : State := { s with cur := { s.cur with jord := s.cur.jord + 1 } }
/-- A request of the unit in focus that it waits for: the answer, if the engine has given it at once. -/
def State.requestNow (s : State) (e : Nat) (r : AReq) (w : Wait) (fin : State → Word → Out) : Out :=
  let t := (s.stall w).submit e r
  match t.cur.wait with
  | .value v => fin t v
  | _ => .next t

-- the instructions

/-- An atomic by the unit in focus. A returning one to a global address is sent to the engine that its home's translation leads to, that
of a remote-mapped frame's node included (R174). -/
def amoOp (op : AOp) (wide returning : Bool) (rd : Reg) (addr b c : Word) (s : State) : Out :=
  let r : AReq := { src := s.focus, part := s.cur.part, lid := s.cur.firing.lid, addr := addr, wide := wide, op := op, b := b, c := c,
                    returning := returning, fid := s.cur.firing.fid, ord := s.cur.jord }
  -- the core's cached line of the location goes with the answer: its next load reads what the atomic wrote (R151, R184)
  let fin := fun (t : State) (old : Word) =>
    let t1 := { t with cur := dropLine t.cur addr }
    Host.Outcome.next (if returning then t1.done 1 rd (atomicResult wide old) else t1.retire)
  match s.cur.wait with
  | .value v => fin s v
  | .refusal cs sub tv => raise s cs tv (sub := sub)
  | .atomic _ => .next s
  | _ =>
    match s.engineCheck addr (aSize r) with
    | .error e => raise s e.1 e.2
    | .ok (.global node off) =>
      if !returning then
        takeEntry s 1 { kind := .amo (opCode op), addr := addr, data := lowBytes b (aSize r), size := aSize r, node := node }
      else if s.writePending addr.toNat (aSize r) || s.amoUnderWay (s.addrKey s.focus s.cur.part addr) || s.walkHeld s.cur.part node off then .next s
      else (match s.translate s.cur.part node off (aSize r) .rw with
        | .error f => raise (s.noteFail s.focus f node off addr s.accKind) f.cause (failTval f node addr) (sub := f.sub)
        | .ok t => match engineOf t.home with
          | some e => .next ((s.setReqs e (s.reqsOf e ++ [r])).stall (.atomic r))
          | none => match s.applyRequest 0 r with
            | .applied old t => fin t old
            | .failed f t => raise (t.noteFail s.focus f node off addr s.accKind) f.cause (failTval f node addr) (sub := f.sub)
            | _ => .next (s.stall (.retry addr)))
    | .ok spot =>
      if s.ownPending spot (aSize r) || s.amoUnderWay (0x10 + s.myCluster) (!returning) then .next s
      else
        let t := s.bumpOrd.dropOwnLine spot
        if returning then t.requestNow s.myCluster r (.atomic r) fin else .next (t.submit s.myCluster r).retire

def execAmoaddW (rd rs2 rs1 : Reg) (s : State) : Out := amoOp .add false true rd (s.x rs1) (s.x rs2) 0 s
def execAmoaddWP (rs2 rs1 : Reg) (s : State) : Out := amoOp .add false false 0 (s.x rs1) (s.x rs2) 0 s
def execAmoaddD (rd rs2 rs1 : Reg) (s : State) : Out := amoOp .add true true rd (s.x rs1) (s.x rs2) 0 s
def execAmoaddDP (rs2 rs1 : Reg) (s : State) : Out := amoOp .add true false 0 (s.x rs1) (s.x rs2) 0 s
def execAmoandW (rd rs2 rs1 : Reg) (s : State) : Out := amoOp .and false true rd (s.x rs1) (s.x rs2) 0 s
def execAmoandWP (rs2 rs1 : Reg) (s : State) : Out := amoOp .and false false 0 (s.x rs1) (s.x rs2) 0 s
def execAmoandD (rd rs2 rs1 : Reg) (s : State) : Out := amoOp .and true true rd (s.x rs1) (s.x rs2) 0 s
def execAmoandDP (rs2 rs1 : Reg) (s : State) : Out := amoOp .and true false 0 (s.x rs1) (s.x rs2) 0 s
def execAmoorW (rd rs2 rs1 : Reg) (s : State) : Out := amoOp .or false true rd (s.x rs1) (s.x rs2) 0 s
def execAmoorWP (rs2 rs1 : Reg) (s : State) : Out := amoOp .or false false 0 (s.x rs1) (s.x rs2) 0 s
def execAmoorD (rd rs2 rs1 : Reg) (s : State) : Out := amoOp .or true true rd (s.x rs1) (s.x rs2) 0 s
def execAmoorDP (rs2 rs1 : Reg) (s : State) : Out := amoOp .or true false 0 (s.x rs1) (s.x rs2) 0 s
def execAmoxorW (rd rs2 rs1 : Reg) (s : State) : Out := amoOp .xor false true rd (s.x rs1) (s.x rs2) 0 s
def execAmoxorWP (rs2 rs1 : Reg) (s : State) : Out := amoOp .xor false false 0 (s.x rs1) (s.x rs2) 0 s
def execAmoxorD (rd rs2 rs1 : Reg) (s : State) : Out := amoOp .xor true true rd (s.x rs1) (s.x rs2) 0 s
def execAmoxorDP (rs2 rs1 : Reg) (s : State) : Out := amoOp .xor true false 0 (s.x rs1) (s.x rs2) 0 s
def execAmominW (rd rs2 rs1 : Reg) (s : State) : Out := amoOp .min false true rd (s.x rs1) (s.x rs2) 0 s
def execAmominWP (rs2 rs1 : Reg) (s : State) : Out := amoOp .min false false 0 (s.x rs1) (s.x rs2) 0 s
def execAmominD (rd rs2 rs1 : Reg) (s : State) : Out := amoOp .min true true rd (s.x rs1) (s.x rs2) 0 s
def execAmominDP (rs2 rs1 : Reg) (s : State) : Out := amoOp .min true false 0 (s.x rs1) (s.x rs2) 0 s
def execAmomaxW (rd rs2 rs1 : Reg) (s : State) : Out := amoOp .max false true rd (s.x rs1) (s.x rs2) 0 s
def execAmomaxWP (rs2 rs1 : Reg) (s : State) : Out := amoOp .max false false 0 (s.x rs1) (s.x rs2) 0 s
def execAmomaxD (rd rs2 rs1 : Reg) (s : State) : Out := amoOp .max true true rd (s.x rs1) (s.x rs2) 0 s
def execAmomaxDP (rs2 rs1 : Reg) (s : State) : Out := amoOp .max true false 0 (s.x rs1) (s.x rs2) 0 s
def execAmominuW (rd rs2 rs1 : Reg) (s : State) : Out := amoOp .minu false true rd (s.x rs1) (s.x rs2) 0 s
def execAmominuWP (rs2 rs1 : Reg) (s : State) : Out := amoOp .minu false false 0 (s.x rs1) (s.x rs2) 0 s
def execAmominuD (rd rs2 rs1 : Reg) (s : State) : Out := amoOp .minu true true rd (s.x rs1) (s.x rs2) 0 s
def execAmominuDP (rs2 rs1 : Reg) (s : State) : Out := amoOp .minu true false 0 (s.x rs1) (s.x rs2) 0 s
def execAmomaxuW (rd rs2 rs1 : Reg) (s : State) : Out := amoOp .maxu false true rd (s.x rs1) (s.x rs2) 0 s
def execAmomaxuWP (rs2 rs1 : Reg) (s : State) : Out := amoOp .maxu false false 0 (s.x rs1) (s.x rs2) 0 s
def execAmomaxuD (rd rs2 rs1 : Reg) (s : State) : Out := amoOp .maxu true true rd (s.x rs1) (s.x rs2) 0 s
def execAmomaxuDP (rs2 rs1 : Reg) (s : State) : Out := amoOp .maxu true false 0 (s.x rs1) (s.x rs2) 0 s
def execAmoswapW (rd rs2 rs1 : Reg) (s : State) : Out := amoOp .swap false true rd (s.x rs1) (s.x rs2) 0 s
def execAmoswapWP (rs2 rs1 : Reg) (s : State) : Out := amoOp .swap false false 0 (s.x rs1) (s.x rs2) 0 s
def execAmoswapD (rd rs2 rs1 : Reg) (s : State) : Out := amoOp .swap true true rd (s.x rs1) (s.x rs2) 0 s
def execAmoswapDP (rs2 rs1 : Reg) (s : State) : Out := amoOp .swap true false 0 (s.x rs1) (s.x rs2) 0 s
def execAmocasW (rd rs2 rs3 rs1 : Reg) (s : State) : Out := amoOp .cas false true rd (s.x rs1) (s.x rs2) (s.x rs3) s
def execAmocasD (rd rs2 rs3 rs1 : Reg) (s : State) : Out := amoOp .cas true true rd (s.x rs1) (s.x rs2) (s.x rs3) s
def execAmofaddS (rd rs2 rs1 : Reg) (s : State) : Out := amoOp .faddS false true rd (s.x rs1) (s.x rs2) 0 s
def execAmofaddBh (rd rs2 rs1 : Reg) (s : State) : Out := amoOp .faddBh false true rd (s.x rs1) (s.x rs2) 0 s
def execAmofmaxS (rd rs2 rs1 : Reg) (s : State) : Out := amoOp .fmaxS false true rd (s.x rs1) (s.x rs2) 0 s

-- steps

/-- The atomic engine of cluster c grants one request (R292). -/
def execAtomicEngineGrant (c : Nat) (s : State) : Out := if c < 128 then .next (s.grant c) else .fault (.noSuchPlace c)
/-- The atomic engine of stack g grants one request (R332). -/
def execStackAtomicGrant (g : Nat) (s : State) : Out := if g < 8 then .next (s.grant (4096 + g)) else .fault (.noSuchPlace g)

end Sys2Proof.Machine
end

