-- ==== Sys2Proof/Machine/Objects.lean ====
section
/-! DEFINITION. Synchronisation objects (R164-R172): acquires, releases, bindings, and the steps of the engines that grant them. -/

namespace Sys2Proof.Machine

/-- The request of an acquire by unit u (R166). -/
def State.acqReq (s : State) (u : Nat) (form : AcqForm) (a : Word) (thr : Nat) : AReq :=
  let x := s.getUnit u
  { src := u, part := x.part, lid := x.firing.lid, addr := a, wide := true, op := .acquire form thr, b := 0, returning := true,
    fid := x.firing.fid }
/-- The three acquires (R166). -/
def acquireOp (form : AcqForm) (rd rs1 : Reg) (thr : Nat) (s : State) : Out :=
  let fin := fun (t : State) (v : Word) => Host.Outcome.next (State.done { t with cur := emptyCache t.cur } 1 rd v)
  match s.cur.wait with
  | .value v => fin s v
  | .refusal c sub tv => raise s c tv (sub := sub)
  | .acquire _ _ _ => .next s
  | .parked _ => .next s
  | _ =>
    let a := s.x rs1
    match s.engineCheck a 8 with
    | .error e => raise s e.1 e.2
    | .ok (.scratch core off) =>
      if s.ownPending (.scratch core off) 8 then .next s
      else s.requestNow (core / 16) (s.acqReq s.focus form a thr) (.parked a) fin
    | .ok t => if s.underWay (s.spotGeq t).toNat 8 then .next s else .next (s.stall (.acquire form a thr))
def execAcqX (rd rs1 : Reg) (s : State) : Out := acquireOp .x rd rs1 0 s
def execAcqS (rd rs1 : Reg) (s : State) : Out := acquireOp .s rd rs1 0 s
def execAcqw (rd rs2 rs1 : Reg) (s : State) : Out := acquireOp .w rd rs1 ((s.x rs2).toNat % 2 ^ 48) s

-- bindings (R170, R171)

/-- An address lies in a region bound to an object. -/
def inBound (bs : List Binding) (obj a : Word) (n : Nat) : Bool :=
  bs.any (fun b => b.obj == obj && overlaps b.base.toNat (2 ^ b.log2) a.toNat n)
/-- The drain of a release (R169). -/
def State.releaseDrained (s : State) (obj : Word) : Bool :=
  let bs := (s.getPart s.cur.part).bindings
  drained s.cur (fun e => e.fid == s.cur.firing.fid && inBound bs obj (s.addrGeq s.focus e.part e.addr) e.size)
    && !s.pendingAtomic s.focus (fun r => r.fid == s.cur.firing.fid && inBound bs obj (s.addrGeq s.focus r.part r.addr) 8)
/-- REL and RELV. -/
def releaseOp (rs1 : Reg) (v : Option (BitVec 48)) (s : State) : Out :=
  let a := s.x rs1
  match s.engineCheck a 8 with
  | .error e => raise s e.1 e.2
  | .ok spot =>
    if !s.releaseDrained (s.spotGeq spot) then .next s
    else match spot with
      | .global node _ =>
        takeEntry s 1 { kind := if v.isSome then .relv else .rel, addr := a, data := (v.getD 0).setWidth 64, size := 8, node := node }
      | _ =>
        let r : Release := { src := s.focus, part := s.cur.part, lid := s.cur.firing.lid, addr := a, value := v, fid := s.cur.firing.fid, ord := s.cur.jord }
        let t := s.bumpOrd.dropOwnLine spot
        .next (State.retire { t with releases := t.releases ++ [r] })
def execRel (rs1 : Reg) (s : State) : Out := releaseOp rs1 none s
def execRelv (rs2 rs1 : Reg) (s : State) : Out := releaseOp rs1 (some ((s.x rs2).extractLsb' 0 48)) s

/-- The region a descriptor names; none when it is malformed (R170). -/
def State.regionOf (s : State) (d : Word) : Option (Word × Nat) :=
  let n := (d.extractLsb' 0 6).toNat
  let base := d &&& 0x01FFFFFFFFFFF000#64
  if d.extractLsb' 56 8 = 1#8 ∧ d.extractLsb' 6 6 = 0#6 ∧ 12 ≤ n ∧ n ≤ 48 ∧ base.toNat % 2 ^ 48 % 2 ^ n = 0
    ∧ nodeValid (s.node s.cur.part (base.toNat / 2 ^ 48 % 256)) then some (base, n) else none
/-- BIND and UNBIND. DESIGN CHOICE (log 76): BIND reports subcode 9 before 7, and 7 before 8. -/
def bindOp (rs1 rs2 : Reg) (add : Bool) (s : State) : Out :=
  match s.engineCheck (s.x rs1) 8 with
  | .error e => raise s e.1 e.2
  | .ok spot =>
    let obj := s.spotGeq spot
    let p := s.getPart s.cur.part
    match s.regionOf (s.x rs2) with
    | none => raise s 0x13 9
    | some (base, n) =>
      let same := fun (b : Binding) => b.obj == obj && b.base == base && b.log2 == n
      if add then
        (if p.bindings.any same then .next s.retire
        else if p.bindings.length ≥ 8192 then raise s 0x13 7
        else if (p.bindings.filter (fun b => b.obj == obj)).length ≥ 16 then raise s 0x13 8
        else .next (s.setPart s.cur.part { p with bindings := p.bindings ++ [{ obj := obj, base := base, log2 := n, lid := s.cur.firing.lid }] }).retire)
      else .next (s.setPart s.cur.part { p with bindings := p.bindings.filter (fun b => !same b) }).retire
def execBind (rs1 rs2 : Reg) (s : State) : Out := bindOp rs1 rs2 true s
def execUnbind (rs1 rs2 : Reg) (s : State) : Out := bindOp rs1 rs2 false s

-- steps

/-- Unit u's acquire arrives at its object's engine (R166, R167). A peer grants what it holds. -/
def execAcquireRequest (u : Nat) (s : State) : Out :=
  let x := s.getUnit u
  match x.wait with
  | .acquire form a thr =>
    let node := a.toNat / 2 ^ 48 % 256
    let off := a.toNat % 2 ^ 48
    if (youngest x a.toNat 8).isSome || s.walkHeld x.part node off then idle s
    else (match s.translate x.part node off 8 .rw with
      | .error e =>
        let s1 := s.noteFail u e node off a (if isSc u then 1 else 0)
        .next (s1.setUnit u { s1.getUnit u with wait := .refusal e.cause e.sub (failTval e node a) })
      | .ok t =>
        let s1 := s.fill x.part node off
        if !s.homeUp x.part t then idle s
        else match t.home with
        | .peer _ =>
          let r := s1.freeBytes 6
          .next (r.2.setUnit u { r.2.getUnit u with wait := .value (BitVec.ofNat 64 (natOfBytes r.1)) })
        | _ => match engineOf t.home with
          | none => .next (s1.setUnit u { s1.getUnit u with wait := .refusal 4 0 a })
          | some e => .next ((s1.setUnit u { s1.getUnit u with wait := .parked a }).submit e (s1.acqReq u form a thr)))
  | _ => idle s
/-- The engines in a fixed order: clusters 0-127, then stacks. -/
def engines : List Nat := List.range 128 ++ (List.range 8).map (· + 4096)
/-- The k-th waiting acquire of the package, counted engine by engine, has its object scanned (R167). -/
def execObjectGrant (k : Nat) (s : State) : Out :=
  match (engines.flatMap (fun e => (s.waitersOf e).map (fun w => (e, w.loc))))[k]? with
  | some (e, loc) => .next (s.scan e loc)
  | none => idle s
/-- The engine that holds unit u's acquire in its queue; or in a wait list, with its object's place. -/
def State.acquireIn (s : State) (u : Nat) : Option (Nat × Option Nat) :=
  engines.findSome? (fun e => match (s.waitersOf e).find? (fun w => w.src == u) with
    | some w => some (e, some w.loc)
    | none => if (s.reqsOf e).any (fun r => r.src == u && isAcquire r.op) then some (e, none) else none)
/-- A trap or stop cancels unit u's waiting acquire or BMODE at its home, which scans the object again (R167, R168, R306). -/
def execAcquireCancel (u : Nat) (s : State) : Out :=
  let x := s.getUnit u
  if !s.breaks u then idle s
  else match x.wait with
  | .parked _ =>
    let free := fun (t : State) => t.setUnit u { t.getUnit u with wait := .none }
    (match s.acquireIn u with
    | none => idle s
    | some (e, some loc) => .next ((free (s.setWaiters e ((s.waitersOf e).filter (fun w => w.src != u)))).scan e loc)
    | some (e, none) => .next (free (s.setReqs e ((s.reqsOf e).filter (fun r => !(r.src == u && isAcquire r.op))))))
  | .bmode g _ =>
    let h := s.getStack g
    let s1 := s.setStack g { h with entering := h.entering.filter (fun e => e.2.2 != u) }
    .next (s1.setUnit u { s1.getUnit u with wait := .none })
  | _ => idle s
/-- A release in flight may not yet be applied: an earlier release, posted atomic or journalled write of its unit to the same home goes
first (R153, R169). -/
def State.releaseBehind (s : State) (k : Nat) (r : Release) : Bool :=
  (s.releases.take k).any (fun q => q.src == r.src) || s.pendingAtomic r.src (fun q => decide (q.ord < r.ord))
    || s.entryBefore r.src (unitHome r.src) r.ord (fun _ => true)
/-- The k-th release without a journal entry reaches its engine (R169). -/
def execReleaseApply (k : Nat) (s : State) : Out :=
  match s.releases[k]? with
  | none => idle s
  | some r =>
    if s.suspended r.part ∨ s.releaseBehind k r then idle s
    else
      let s1 := { s with releases := s.releases.eraseIdx k }
      match s1.localSpot r.src r.part r.addr with
      | none => .next s1
      | some (core, _) =>
        .next (s1.submit (core / 16) { src := r.src, part := r.part, lid := r.lid, addr := r.addr, wide := true, op := .release r.value, b := 0,
                                       returning := false, fid := r.fid, ord := r.ord })

end Sys2Proof.Machine
end

