-- ==== Sys2Proof/Machine/Ecmd.lean ====
section
/-! DEFINITION. ECMD and ESEQ: validation and queueing of engine commands (R65, R66, R274-R285, R325, R326). -/

namespace Sys2Proof.Machine

/-- A little-endian doubleword of a byte list. -/
def dwAt (bs : List Byte) (o : Nat) : Word := BitVec.ofNat 64 (natOfBytes ((bs.drop o).take 8))
/-- n bytes of the local memory of the unit in focus. -/
def State.localBytes (s : State) (a n : Nat) : List Byte :=
  if isSc s.focus then s.readBytes (fun i => sramKey (s.focus - 2048) (a + i)) n
  else s.readBytes (fun i => scratchKey s.focus (a + i)) n
def localSize (u : Nat) : Nat := if isSc u then 0x10000 else 0x80000
/-- An own write to n bytes of the local memory is not performed (R182). -/
def State.localPending (s : State) (a n : Nat) : Bool := isCore s.focus && s.writePending (s.geq s.cur.part s.focus a).toNat n

/-- Every bank that n bytes of an endpoint touch is RAW or INT32. -/
def State.intBanks (s : State) (x : Endp) (n : Nat) : Bool :=
  match x with
  | .scratch _ _ a => ((s.endpBanks x).take ((a % 4096 + n + 4095) / 4096)).all (fun r => fmtOfReg r == 0 || fmtOfReg r == 6)
  | .glob _ => false
def isWindow (a : Word) : Bool :=
  match classify false a with
  | .window _ _ => true
  | _ => false
/-- A walk's row pointers lie in one endpoint: `n` bytes from byte `b` of it on. -/
def State.rowsOk (s : State) (p c : Nat) (addr : Word) (e : Endp) (b n : Nat) : Bool :=
  match e with
  | .scratch u k a => s.spanOk p c addr (.scratch u k (a + b)) n false
  | .glob a => decide (a.toNat % 2 ^ 48 + b + n ≤ 2 ^ 48)
/-- CSRWALK's body (R283); none breaks the table or an address condition of R278. The spans of COLIDX and VALS are known only once the
row pointers have been read, so the walk itself checks what lies after their first element (log 26); the banks of VALS are checked for STATE over the first MAXE elements
(log 79). -/
def State.formWalk (s : State) (p c : Nat) (e : Ecw) : Option EKind :=
  let own := some s.focus
  let da := e.w1.toNat
  let nrows := (e.w2.extractLsb' 32 32).toNat
  let row0 := (e.w2.extractLsb' 0 32).toNat
  if da % 64 ≠ 0 ∨ da + 64 > 0x80000 ∨ e.w3 ≠ 0 ∨ nrows = 0 ∨ nrows > 65535 then none
  else
    let d := s.localBytes da 64
    let w := fun i => dwAt d (8 * i)
    let maxe := (w 7).toNat
    match s.endpoint p c own (w 0), s.endpoint p c own (w 1), s.endpoint p c own (w 2), s.endpoint p c own (w 4), s.endpoint p c own (w 5) with
    | some rp, some ci, some va, some di, some dv =>
      let dp : Option (Option Endp) := if w 6 = 0 then some none else (s.endpoint p c own (w 6)).map some
      let dptr := match dp with
        | some (some x) => endpAddr x
        | _ => 0
      let k : WalkOp := { rowptr := endpAddr rp, colidx := endpAddr ci, vals := endpAddr va, didx := endpAddr di, dval := endpAddr dv, dptr := dptr,
                          row0 := row0, nrows := nrows, maxe := maxe, vfmt := (w 3).toNat, sbanks := s.endpBanks va, dbanks := s.endpBanks dv,
                          cwin := isWindow (w 1), vwin := isWindow (w 2) }
      let o := (walkValues k).1
      let rs := copyRuns o
      let es := match rs with
        | r :: _ => max 1 (bitsBytes (elemBits r.f r.g))
        | [] => 1
      let rn := 4 * (nrows + 1)
      let clear := fun (x : Endp) (n : Nat) => !overlaps (s.endpGeq p rp + 4 * row0) rn (s.endpGeq p x) n
      let dpOk := match dp with
        | none => false
        | some none => true
        | some (some x) => s.intBanks x rn && (w 6).toNat % 4 == 0 && s.spanOk p c (w 6) x rn true && clear x rn
      let ok := decide (maxe < 2 ^ 32) && decide ((w 3).toNat < 9) && (isGlob va || w 3 == 0) && !isGlob dv && s.intBanks di (4 * maxe) && dpOk
        && (w 0).toNat % 4 == 0 && (w 1).toNat % 4 == 0 && (w 4).toNat % 4 == 0
        && rs.all (fun r => r.sb % max 1 (elemBits r.f r.g) == 0 && r.db % max 1 (elemBits r.g r.f) == 0 && !(converts r.f r.g && (r.f == 8 || r.g == 8)))
        && (rs.map (·.n)).sum == maxe
        && s.rowsOk p c (w 0) rp (4 * row0) rn && s.spanOk p c (w 1) ci 4 false && s.spanOk p c (w 2) va es false
        && s.spanOk p c (w 4) di (4 * maxe) true && s.spanOk p c (w 5) dv (dstSpan o) true
        && clear di (4 * maxe) && clear dv (dstSpan o)
      if ok then some (.csrwalk k) else none
    | _, _, _, _, _ => none
/-- SWREG's body (R285). -/
def formSwreg (e : Ecw) : Option EKind :=
  if e.w1.toNat / 2 ^ 48 = 256 + e.unit ∧ e.w1.toNat % 16 = 0 ∧ 1 ≤ e.w2.toNat ∧ e.w2.toNat < 2 ^ 32 ∧ e.w3.toNat ≤ 1 then
    some (.swreg e.w1 e.w2.toNat (e.w3 = 0))
  else none
/-- A stack node or stripe set that the partition's place table holds (R24, R25). -/
def State.stackNodeOk (s : State) (p n : Nat) : Bool :=
  nodeValid (s.node p n) && (isStackNode n || (isStripeNode n && !(s.stripe p (nodeTarget (s.node p n) % 16)).isEmpty))
/-- REDUCE's parameter block (R325, R326). -/
def State.formReduce (s : State) (e : Ecw) : Option EKind :=
  let a := e.w1.toNat
  if a % 128 ≠ 0 ∨ a + 128 > localSize s.focus ∨ e.w2 ≠ 0 ∨ e.w3 ≠ 0 then none
  else
    let b := s.localBytes a 128
    let w0 := dwAt b 0
    let dst := dwAt b 8
    let obj := dwAt b 16
    let v := dwAt b 24
    let len := (w0.extractLsb' 32 32).toNat
    let fmt := (w0.extractLsb' 8 4).toNat
    let count := (w0.extractLsb' 0 5).toNat
    let src := fun i => natOfBytes ((b.drop (32 + 6 * i)).take 6)
    let addr := fun i => globalAddr (src i / 2 ^ 40) (src i % 2 ^ 40 * 256)
    let p := s.cur.part
    let es := if fmt = 2 then 2 else 4
    let n := len * es
    let isG := fun (x : Word) => x.toNat / 2 ^ 56 == 1
    let nodeOf := fun (x : Word) => x.toNat / 2 ^ 48 % 256
    let ok := w0.extractLsb' 12 20 == 0#20 && w0.extractLsb' 5 3 == 0#3 && (fmt == 1 || fmt == 2) && decide (1 ≤ count) && decide (count ≤ 16)
      && len != 0 && decide (v.toNat ≤ 0xFFFFFFFFFFFE) && isG dst && s.stackNodeOk p (nodeOf dst) && dst.toNat % es == 0
      && (obj == 0 || (isG obj && obj.toNat % 8 == 0 && (s.stackNodeOk p (nodeOf obj) || (isClusterNode (nodeOf obj) && nodeValid (s.node p (nodeOf obj))))))
      && (List.range 16).all (fun i => if i < count then s.stackNodeOk p (src i / 2 ^ 40) else src i == 0)
      && (addr 0 == dst || (List.range count).all (fun i => !overlaps dst.toNat n (addr i).toNat n))
    if ok then some (.reduce len fmt ((List.range count).map addr) dst obj v.toNat) else none
/-- COPY and COPYT (R277, R281). -/
def State.formKind (s : State) (p c : Nat) (e : Ecw) : Option EKind :=
  let own := some s.focus
  match e.type with
  | 1 => (s.formCopy p c own e.cmpl e.w1 e.w2 e.w3).map .copy
  | 2 => if e.w3.extractLsb' 32 32 = 0#32 then (s.formTempl p c own e.cmpl e.aux e.w1 e.w2 (e.w3.toNat % 2 ^ 32)).map .copyt else none
  | 3 => s.formWalk p c e
  | 0x20 => formSwreg e
  | _ => s.formReduce e

/-- Source ranges of an operation, as global-equivalent address and length; none: every range may be a source. -/
def State.sourceRanges (s : State) (p c : Nat) : EKind → Option (List (Nat × Nat))
  | .copy k | .copyt k => some [(match s.windowCore p c k.src with
      | some (u, a) => (s.geq p u a).toNat
      | none => k.src.toNat, srcSpan k)]
  | .csrwalk .. => none
  | .swreg b n _ => some [(b.toNat, 16 * n)]
  | .reduce len fmt srcs _ _ _ => some (srcs.map (fun a => (a.toNat, len * (if fmt = 2 then 2 else 4))))
/-- The stores that ECMD waits for are performed (R274). -/
def State.ecmdDrained (s : State) (k : EKind) : Bool :=
  let p := s.cur.part
  let rs := s.sourceRanges p s.myCluster k
  let hit := fun (e : JEntry) => (isCore s.focus && s.entryKey s.focus e == unitHome s.focus) ||
    (match rs with
      | none => true
      | some l => l.any (fun r => overlaps r.1 r.2 (s.addrGeq s.focus p e.addr).toNat e.size))
  drained s.cur (fun e => e.fid == s.cur.firing.fid && hit e) && s.localDrained s.focus (fun f _ => f == s.cur.firing.fid)

/-- Queues a validated operation; none while its unit's queue or the lock table has no room (R274, R289). -/
def State.queueOp (s : State) (e : Ecw) (k : EKind) : Option (Nat × State) :=
  let u := s.cur
  let seq := u.eng.issued + 1
  let o : EOp := { src := some s.focus, unit := e.unit, part := u.part, lid := u.firing.lid, fid := u.firing.fid, seq := seq, kind := k,
                   cmpl := e.cmpl, cidx := e.cidx, ccore := e.ccore }
  let s1 := { s with cur := { u with eng := { u.eng with issued := seq } } }
  if e.type = 0x10 ∨ e.type = 0x20 then
    match s.physStack u.part e.unit with
    | none => none
    | some g =>
      let x := s1.getStack g
      if e.type = 0x20 then some (seq, s1.setStack g { x with swq := x.swq ++ [o] })
      else if x.redq.length < 64 then some (seq, s1.setStack g { x with redq := x.redq ++ [o] })
      else none
  else
    let c := s.myCluster
    let x := s1.getCluster c
    let ls := s.locksFor c o
    if (chanOf x e.unit).length < 16 ∧ x.locks.length + ls.length ≤ 64 then
      let s2 := s1.setCluster c { x with locks := x.locks ++ ls, chans := put chan0 x.chans e.unit (chanOf x e.unit ++ [o]) }
      some (seq, match k with
        | .copy q | .copyt q => s2.enterSwap u.part c (some s.focus) q
        | _ => s2)
    else none

/-- The first failed check of R66 after the address checks; none when the word is valid. -/
def State.ecwCheck (s : State) (e : Ecw) : Option Nat :=
  let p := s.cur.part
  let c := s.myCluster
  let stackUnit := e.type == 0x10 || e.type == 0x20
  if !isEcwType e.type || (isSc s.focus && e.type != 0x10) then some 1
  else if e.rsvd then some 2
  else if !s.cmplOk p c e then some 3
  else if (if e.type = 2 then decide (e.aux ≥ 64) else e.aux != 0) || (stackUnit && (s.physStack p e.unit).isNone) then some 4
  else if (s.formKind p c e).isNone then some 6
  else none
def execEcmd (rd rs1 : Reg) (s : State) : Out :=
  let a := s.x rs1
  let fail := fun (sub : Nat) => raise s 0x13 ((a <<< 8) ||| BitVec.ofNat 64 sub)
  if a.toNat > localSize s.focus - 32 then fail 5
  else if a.toNat % 32 ≠ 0 then raise s 1 a
  else
    let b := s.localBytes a.toNat 32
    let e := ecwOf (dwAt b 0) (dwAt b 8) (dwAt b 16) (dwAt b 24)
    if s.localPending a.toNat 32 || ((e.type == 3 || e.type == 0x10) && s.localPending e.w1.toNat 128) then .next s
    else match s.ecwCheck e with
    | some n => fail n
    | none => match s.formKind s.cur.part s.myCluster e with
      | none => fail 6
      | some k =>
        if !s.ecmdDrained k then .next s
        else match s.queueOp e k with
          | none => .next s
          | some (seq, t) => .next (t.done 1 rd (BitVec.ofNat 64 seq))
/-- ESEQ (R275). -/
def execEseq (rd rs1 : Reg) (s : State) : Out :=
  guardU (.eseq rd rs1) false s (
    let g := s.cur.eng
    if g.finished < min ((s.x rs1).toNat % 2 ^ 63) g.issued then .next s
    else
      let v := BitVec.ofNat 64 (g.finished % 2 ^ 63 + if g.efault then 2 ^ 63 else 0)
      .next (State.done { s with cur := { emptyCache s.cur with eng := { g with efault := false } } } 1 rd v))

end Sys2Proof.Machine
end

