-- ==== Sys2Proof/Machine/Engines.lean ====
section
/-! DEFINITION. The steps of the transfer channels, of SWREG and of the reduction engines (R274, R279-R285, R287-R291, R303, R325-R328,
R333). The head of a queue does its elements part by part, in any order, until all are done or one fails. -/

namespace Sys2Proof.Machine

-- the head of an engine's queue

/-- An engine's queue. -/
def State.engineOps (s : State) : EngineQueue → List EOp
  | .chan c ch => chanOf (s.getCluster c) ch
  | .red g => (s.getStack g).redq
  | .swreg g => (s.getStack g).swq
def State.setEngineOps (s : State) (e : EngineQueue) (l : List EOp) : State :=
  match e with
  | .chan c ch => s.setChan c ch l
  | .red g => s.setStack g { s.getStack g with redq := l }
  | .swreg g => s.setStack g { s.getStack g with swq := l }
/-- An operation may run: its partition is not suspended. An accepted REDUCE runs to completion all the same (R359). -/
def State.engineOn (s : State) (e : EngineQueue) (o : EOp) : Bool :=
  match e with
  | .red _ => true
  | _ => !s.suspended o.part
/-- The place of an engine's head: its oldest operation that may run. A suspended partition's keep their places (R359). -/
def State.headIx (s : State) (e : EngineQueue) : Option Nat := (s.engineOps e).findIdx? (s.engineOn e)
def State.engineHead (s : State) (e : EngineQueue) : Option EOp := (s.headIx e).bind (fun k => (s.engineOps e)[k]?)
/-- The head leaves its queue. -/
def State.popEngine (s : State) (e : EngineQueue) : State := s.setEngineOps e ((s.engineOps e).eraseIdx ((s.headIx e).getD 0))
/-- The head of a queue changed. -/
def State.setEngineHead (s : State) (e : EngineQueue) (o : EOp) : State := s.setEngineOps e ((s.engineOps e).set ((s.headIx e).getD 0) o)
/-- The source number of an engine's requests. -/
def engineSrc : EngineQueue → Nat
  | .chan c _ => 16384 + c
  | .red g | .swreg g => 20480 + g
/-- Runs k on a queue's head when it has not failed. -/
def State.withHead (s : State) (e : EngineQueue) (k : EOp → Out) : Out :=
  match s.engineHead e with
  | none => idle s
  | some o => if o.fail.isNone then k o else idle s

-- ranges that a part of an operation touches, and RETRY (R303, R333)

/-- The global ranges that some moves touch; a scratchpad that a window address names never answers RETRY. -/
def moveRanges (ms : List Move) : List (Word × Nat) :=
  ms.flatMap (fun m =>
    let side := fun (a : Word) (b n : Nat) => if isGlobAddr a then [(BitVec.ofNat 64 (b / 8), bitsBytes (b % 8 + n))] else []
    side m.src m.sb (m.n * elemBits m.f m.g) ++ side m.dst m.db (m.n * elemBits m.g m.f))
/-- The global ranges of elements i to i + n - 1 of an operation. -/
def opRanges (k : EKind) (i n : Nat) : List (Word × Nat) :=
  match k with
  | .reduce _ fmt srcs dst _ _ => (dst :: srcs).map (fun a => (a + BitVec.ofNat 64 (redBytes fmt * i), redBytes fmt * n))
  | .swreg base _ _ => [(base + BitVec.ofNat 64 (16 * i), 16 * n)]
  | k => moveRanges (movesOf k i n)
/-- Every range is served to an engine now. -/
def State.rangesServe (s : State) (e : EngineQueue) (p : Nat) (rs : List (Word × Nat)) : Bool :=
  rs.all (fun r => s.rangeServes p r.1 r.2 (engineSrc e) (.engine e) && (s.rangeSites p r.1 r.2).all (s.homeUp p))
def State.dropTickets (s : State) (e : EngineQueue) (p : Nat) (rs : List (Word × Nat)) : State :=
  rs.foldl (fun t r => t.dropTicketRange p r.1 r.2 (.engine e)) s
/-- The head does elements i to i + n - 1, when they are still to be done and served: `go` does them. -/
def State.runPart (s : State) (e : EngineQueue) (o : EOp) (i n : Nat) (go : State → EngRes) : Out :=
  let rs := opRanges o.kind i n
  if !toDo o i n || !s.rangesServe e o.part rs then idle s
  else match go (s.dropTickets e o.part rs) with
    | .wait => idle s
    | .ok t k fail => .next (t.setEngineHead e (advanceOp o i k fail))

-- copies and walks (R279, R284)

/-- The elements that a step of an engine does, as the first and their number (log 42): what its agenda entry chooses, else the lowest one
still to be done. -/
def State.chosen (s : State) (o : EOp) : Nat × Nat := (s.decided 0 ((nextElem o).getD 0), s.decided 1 1)
/-- The head of a channel moves elements i to i + n - 1. -/
def State.runCopy (s : State) (c ch i n : Nat) (o : EOp) : Out :=
  s.runPart (.chan c ch) o i n (fun t => t.moveAll o.part o.lid c (movesOf o.kind i n))
def execCopy (c ch : Nat) (s : State) : Out :=
  s.withHead (.chan c ch) (fun o => match o.kind with
    | .copy _ => s.runCopy c ch (s.chosen o).1 (s.chosen o).2 o
    | _ => idle s)
def execCopyt (c ch : Nat) (s : State) : Out :=
  s.withHead (.chan c ch) (fun o => match o.kind with
    | .copyt _ => s.runCopy c ch (s.chosen o).1 (s.chosen o).2 o
    | _ => idle s)
/-- A row pointer of a walk. -/
def State.rowAt (s : State) (p c : Nat) (w : WalkOp) (i : Nat) : Except RFail Nat × State :=
  match s.readAt p c w.rowptr (endBit w.rowptr / 8 + 4 * i) 4 with
  | (.ok bs, t) => (.ok (natOfBytes bs), t)
  | (.error e, t) => (.error e, t)
/-- The first and the last row pointer of a walk, where they are read over the network. -/
def walkPtrs (w : WalkOp) : List (Word × Nat) :=
  let ptr := fun (i : Nat) => (BitVec.ofNat 64 (endBit w.rowptr / 8 + 4 * i), 4)
  if isGlobAddr w.rowptr then [ptr w.row0, ptr (w.row0 + w.nrows)] else []
/-- A walk reads its first and last row pointer. One whose bound fails ends FAULTED, and nothing is written (R284). -/
def State.walkBound (s : State) (c ch : Nat) (o : EOp) (w : WalkOp) : Out :=
  let e := EngineQueue.chan c ch
  let rs := walkPtrs w
  let failed := fun (t : State) (f : RFail) => Host.Outcome.next (t.setEngineHead e (advanceOp o 0 0 (some f)))
  if !s.rangesServe e o.part rs then idle s
  else match (s.dropTickets e o.part rs).rowAt o.part c w w.row0 with
    | (.error f, t) => failed t f
    | (.ok p0, t) => match t.rowAt o.part c w (w.row0 + w.nrows) with
      | (.error f, t1) => failed t1 f
      | (.ok p1, t1) =>
        if p1 < p0 ∨ p1 - p0 > w.maxe then
          .next (t1.setEngineHead e { o with done := [(0, opSize o.kind)], fail := some { cause := openCause, sub := 0, addr := w.rowptr, progress := 0 } })
        else .next (t1.setEngineHead e { o with kind := .csrwalk { w with rows := some (p0, p1) } })
/-- CSRWALK: the first step reads the bound, each further one moves some elements. -/
def execCsrwalk (c ch : Nat) (s : State) : Out :=
  s.withHead (.chan c ch) (fun o => match o.kind with
    | .csrwalk w => if w.rows.isNone then s.walkBound c ch o w else s.runCopy c ch (s.chosen o).1 (s.chosen o).2 o
    | _ => idle s)
/-- A walk that has not read its bound has done none of its elements. -/
def started (o : EOp) : Bool :=
  match o.kind with
  | .csrwalk w => w.rows.isSome
  | _ => true
/-- The global ranges that the head of a queue needs next: those of its lowest element still to be done. -/
def headRanges (o : EOp) : List (Word × Nat) :=
  let next := match nextElem o with
    | some i => opRanges o.kind i 1
    | none => []
  match o.kind with
  | .csrwalk w => if w.rows.isNone then walkPtrs w else next
  | _ => next
/-- The locks that go before chunk i is signalled: all of the operation's once every write of it is performed (R274), else, where chunks set
bits, the chunk leaves the entry of its destination (R289). -/
def State.cutChunk (s : State) (c : Nat) (o : EOp) (i : Nat) : State :=
  let x := s.getCluster c
  if allDone o then s.dropLocks c o
  else if o.cmpl = 2 then s.setCluster c { x with locks := x.locks.map (cutLock o (512 * i) (chunkLen o.kind i)) }
  else s
/-- Chunk i of a channel's head is performed and signalled (R279, R286, R289); a CSRWALK has one, of every byte it writes (R284). -/
def execChunkComplete (c ch i : Nat) (s : State) : Out :=
  s.withHead (.chan c ch) (fun o =>
    if (o.cmpl ≠ 2 ∧ o.cmpl ≠ 3) ∨ !started o ∨ i ≥ chunksOf o.kind ∨ o.told.contains i ∨ !chunkDone o i then idle s
    else
      let s1 := (s.setEngineHead (.chan c ch) { o with told := o.told ++ [i] }).cutChunk c o i
      if o.cmpl = 3 then .next (s1.barSignal o.part c o.ccore o.cidx (chunkLen o.kind i))
      else
        let base := match o.kind with
          | .copy k | .copyt k => k.cbase
          | _ => 0
        .next (s1.chunkSignal o.part c o.ccore o.cidx (base + i)))

-- SWREG (R285)

/-- The registration is accepted: no overlap, a free entry, and the word total. -/
def regFits (rs : List SwReg) (p : Nat) (base : Word) (n : Nat) : Bool :=
  decide ((rs.filter (fun r => r.part == p)).length < 64) && decide ((rs.map (·.nwords)).sum + n ≤ 2 ^ 32)
    && !rs.any (fun r => r.part == p && overlaps r.base.toNat (16 * r.nwords) base.toNat (16 * n))
/-- The operation fails before any word (R290). -/
def regFailed (o : EOp) (a : Word) : EOp :=
  { o with fail := some { cause := openCause, sub := 0, addr := a, progress := 0 } }
/-- Evaluates up to n words from word i on of a registration, as far as the post queue has room: how many, and the first that does not
translate. -/
def State.regPass (g p lid : Nat) (base : Word) : Nat → State → Nat → Nat → State × Nat × Option RFail
  | 0, s, _, k => (s, k, none)
  | n + 1, s, i, k =>
    let a := base + BitVec.ofNat 64 (16 * i)
    match s.translate p (a.toNat / 2 ^ 48 % 256) (a.toNat % 2 ^ 48) 16 .rw with
    | .error e => (s, k, some ⟨e, a, k⟩)
    | .ok t => match s.evalRaw lid { l := 4096 + g, part := p, addr := a, key := s.siteBase p t } with
      | none => (s, k, none)
      | some u => State.regPass g p lid base n u (i + 1) (k + 1)
/-- A region leaves the table of stack g; the Rooster entries and swap-out records in it go without posting. -/
def State.dropRegion (s : State) (g : Nat) (r : SwReg) : State :=
  let l := s.getLaw (4096 + g)
  let inside := fun (a : Nat) => decide (r.base.toNat ≤ a) && decide (a < r.base.toNat + 16 * r.nwords)
  let s1 := s.setLaw (4096 + g) { l with
    rooster := l.rooster.filter (fun e => !(e.part == r.part && inside e.addr.toNat)),
    swaps := l.swaps.filter (fun w => !(w.part == r.part && overlaps w.base.toNat w.len r.base.toNat (16 * r.nwords))) }
  let y := s1.getStack g
  let s2 := s1.setStack g { y with regs := y.regs.erase r }
  -- the sweep goes on with the word it would have visited, or with the region after this one (R331)
  let before := ((s.sweptRegs g).takeWhile (fun q => q != r)).map (·.nwords) |>.sum
  let at_ := l.sweep
  let moved := if !(s.sweptRegs g).contains r || at_ < before then at_ else if at_ < before + r.nwords then before else at_ - r.nwords
  s2.setLaw (4096 + g) { s2.getLaw (4096 + g) with sweep := moved }
/-- A registration first passes its table check; then each step evaluates the next words of it, as many as its agenda entry chooses. One
that meets a page it cannot translate leaves the table again. -/
def execSwregRegister (g : Nat) (s : State) : Out :=
  let e := EngineQueue.swreg g
  s.withHead e (fun o => match o.kind with
    | .swreg base len true =>
      let r : SwReg := { part := o.part, base := base, nwords := len }
      if !o.entered then
        (let x := s.getStack g
        if regFits x.regs o.part base len then
          .next ((s.setStack g { x with regs := x.regs ++ [r] }).setEngineHead e { o with entered := true })
        else .next (s.setEngineHead e (regFailed o base)))
      else match nextElem o with
        | none => idle s
        | some i => s.runPart e o i (s.decided 0 1) (fun t =>
          let q := State.regPass g o.part o.lid base (s.decided 0 1) t i 0
          match q.2.2 with
          | some f => .ok (q.1.dropRegion g r) q.2.1 (some f)
          | none => if q.2.1 = 0 then .wait else .ok q.1 q.2.1 none)
    | _ => idle s)
def execSwregUnregister (g : Nat) (s : State) : Out :=
  let e := EngineQueue.swreg g
  s.withHead e (fun o => match o.kind with
    | .swreg base len false =>
      let r : SwReg := { part := o.part, base := base, nwords := len }
      if allDone o then idle s
      else if !(s.getStack g).regs.contains r then .next (s.setEngineHead e (regFailed o base))
      else .next ((s.dropRegion g r).setEngineHead e { o with done := [(0, len)] })
    | _ => idle s)

-- REDUCE (R325-R328)

/-- The reduction engine works on some elements of its head. -/
def execReduce (g : Nat) (s : State) : Out :=
  s.withHead (.red g) (fun o => match o.kind with
    | .reduce _ fmt srcs dst _ _ =>
      let q := s.chosen o
      s.runPart (.red g) o q.1 q.2 (fun t => t.reduceSome o.part o.lid fmt srcs dst q.1 q.2)
    | _ => idle s)
/-- An engine's release reaches its object's engine, as RELV does (R169, R174, R327); the failure of its translation. -/
def State.engineRelease (s : State) (e : EngineQueue) (o : EOp) (obj : Word) (v : Nat) : Except TFail State :=
  if obj = 0 then .ok s
  else match s.translate o.part (obj.toNat / 2 ^ 48 % 256) (obj.toNat % 2 ^ 48) 8 .rw with
    | .error f => .error f
    | .ok t => match engineOf t.home with
      | none => .error ⟨4, 0⟩
      | some g => .ok (s.submit g { src := engineSrc e, part := o.part, lid := o.lid, addr := obj, wide := true,
                                    op := .release (some (BitVec.ofNat 48 v)), b := 0, returning := false })

-- the end of an operation (R274, R287, R290)

/-- Every write of the head is performed and signalled: locks are released, completion is signalled, and it counts as done. -/
def execEngineOpComplete (e : EngineQueue) (s : State) : Out :=
  s.withHead e (fun o =>
    let told := (o.cmpl ≠ 2 ∧ o.cmpl ≠ 3) ∨ (List.range (chunksOf o.kind)).all (fun i => o.told.contains i)
    if !started o ∨ !allDone o ∨ !told then idle s
    else match e with
      | .chan c _ =>
        let s1 := (s.popEngine e).dropLocks c o
        let s2 := if o.cmpl = 1 then s1.semInc o.part c o.cidx o.ccore else s1
        .next (s2.countDone o false)
      | .swreg _ => .next ((s.popEngine e).countDone o false)
      | .red _ => match o.kind with
        | .reduce _ _ _ _ obj v => (match s.engineRelease e o obj v with
          | .ok t => .next ((t.popEngine e).countDone o false)
          | .error f => .next (s.setEngineHead e (advanceOp o 0 0 (some ⟨f, obj, 0⟩))))
        | _ => .next ((s.popEngine e).countDone o false))
/-- A REDUCE that faults or is aborted still releases its object, with all ones (R328). -/
def State.faultRelease (s : State) (e : EngineQueue) (o : EOp) : State :=
  match o.kind with
  | .reduce _ _ _ _ obj _ => (match s.engineRelease e o obj 0xFFFFFFFFFFFF with
    | .ok t => t
    | .error _ => s)
  | _ => s
/-- The head of an engine's queue ends FAULTED, once what it had still to write is undefined (R290). -/
def execEngineOpFaulted (e : EngineQueue) (s : State) : Out :=
  match s.engineHead e with
  | none => idle s
  | some o =>
    match o.fail with
    | none => idle s
    | some f =>
      let r := match o.kind with
        | .swreg .. => (s, { o with done := [(0, opSize o.kind)] })
        | _ => State.openRest (engineCluster e) (opSize o.kind + 1) s o
      if !allDone r.2 then .next (r.1.setEngineHead e r.2)
      else .next (((r.1.popEngine e).failOp e o f true).faultRelease e o)
/-- A host agent's store to the copy aperture of a cluster (R282); one of a host that does not own the device is discarded (R394, R397,
R398). The agenda's entry says over which link it comes, the owner's where it says none. -/
def execApertureStart (c part ch : Nat) (v : Word) (s : State) : Out :=
  if !s.ownerLink (s.decided 0 s.ringLink) then idle s else
  match s.logCluster part c with
  | none => idle s
  | some lc =>
    if ch < 8 ∧ s.grantedRange part lc (0x1004000 + 8 * ch) 8 false true then .next ((s.aperture part c ch v).getD s) else idle s

end Sys2Proof.Machine
end

