-- ==== Sys2Proof/Machine/LawInstr.lean ====
section
/-! DEFINITION. The law instructions (spec 12_law_instructions R218-R232) and the steps of the law units (R209-R214, R331, R333). -/

namespace Sys2Proof.Machine

-- where a law instruction acts (R219, R220)

/-- FORMAT-MISMATCH with its tval. -/
def mismatch (s : State) (tv : Word) : Except (TFail × Word × State) (WordAt × Option Site) := .error (⟨0x18, 0⟩, tv, s)
/-- The base of the bank that holds an address, in the address's own form. -/
def bankBase (a : Word) : Word := a &&& 0xFFFFFFFFFFFFF000#64
/-- A translation failure of a law instruction. -/
def lawFail (s : State) (f : TFail) (node off : Nat) (a : Word) : Except (TFail × Word × State) (WordAt × Option Site) :=
  .error (f, failTval f node a, s.noteFail s.focus f node off a (if isSc s.focus then 1 else 0))
/-- The word that an address names, with its site when it is in a stack; or the trap of the first check that fails. -/
def State.lawPlace (s : State) (a : Word) : Except (TFail × Word × State) (WordAt × Option Site) :=
  let p := s.cur.part
  match s.access a 16 .rw with
  | .error e => .error (⟨e.1, 0⟩, e.2, s)
  | .ok (.mmio _) => mismatch s a
  | .ok (.sram _ _) => mismatch s a
  | .ok (.scratch core off) => if s.isState core off then .ok (s.scratchWord p core off, none) else mismatch s (bankBase a)
  | .ok (.global node off) =>
    match s.home p node off with
    | some (.cluster _ lc) =>
      (match (if off < 0x800000 then s.physCore p lc (off / 0x80000) else none) with
      | none => lawFail s ⟨4, 0⟩ node off a
      | some core =>
        if !s.isState core (off % 0x80000) then mismatch s (bankBase a)
        else match s.translate p node off 16 .rw with
          | .error f => lawFail s f node off a
          | .ok _ => .ok (s.scratchWord p core (off % 0x80000), none))
    | some (.stack g) =>
      -- on a remote-mapped frame, the condition of the frame's node
      let there := (s.forwardsTo p node off).getD (node, off)
      let b := globalAddr there.1 there.2
      let at_ := if there.1 = node then some g else match s.home p there.1 there.2 with
        | some (.stack h) => some h
        | _ => none
      (match at_.filter (fun h => s.registered h p b) with
      | none => mismatch s a
      | some h => match s.translate p node off 16 .rw with
        | .error f => lawFail s f node off a
        | .ok t => .ok ({ l := 4096 + h, part := p, addr := b, key := s.siteBase p t }, some t))
    | _ => mismatch s a

-- the mould (R221, R222)

/-- A law operation has come to its word: the state after the delivery check, the word, its law, the time, and the advanced coordinate. -/
structure LawCtx where
  s : State
  w : WordAt
  v : Sw
  e : LawEntry
  t : Nat
  c : Word
/-- What an operation does: a result, or a wait for the post queue. -/
inductive LawRes
  | ok (s : State) (r : Word)
  | wait
/-- A law instruction waits at the home. -/
def lawStall (s : State) (a : Word) : Out := .next (s.stall (.law a))
/-- Units since the word's last re-base (R200). -/
def elapsed (t : Nat) (v : Sw) : Nat := (t + 2 ^ 40 - v.stamp) % 2 ^ 40
/-- A law instruction: the checks of R220 and R221, with `own` the subcode of the operation's own check (0: none), the delivery check,
then the operation. -/
def lawOp (a : Word) (rd : Reg) (raw : Bool) (own : State → WordAt → LawEntry → Nat) (op : LawCtx → LawRes) (s : State) : Out :=
  if s.addrHeld (isSc s.focus) s.cur.part a then lawStall s a
  else match s.lawPlace a with
  | .error e => raisePlace e
  | .ok (w, site) =>
    let s0 := s.fill s.cur.part (a.toNat / 2 ^ 48 % 256) (a.toNat % 2 ^ 48)
    let served := match site with
      | some t => s.servesSite s.cur.part t s.focus (.atomic s.focus) false
      | none => true
    if (youngest s.cur w.addr.toNat 16).isSome ∨ (youngest s.cur a.toNat 16).isSome then .next s
    else if !served then lawStall s a
    else
      let s1 := match site with
        | some t => s0.dropTicketSite t (.atomic s.focus)
        | none => s
      let v := s1.wordOf w
      let e := s1.lawEntry w.part v.law
      let sub := if s1.swapped w then 8 else if v.top then 7 else if !raw && !e.valid then 1 else own s1 w e
      if sub ≠ 0 then raise s1 0x12 (BitVec.ofNat 64 sub)
      else
        -- while its post queue is full the operation waits, with no effect (R212, R231)
        match s1.deliveryCheck w 1 false with
        | none => lawStall s a
        | some d =>
          let t := d.nowu w.l w.part e
          let v1 := d.wordOf w
          match op { s := d, w := w, v := v1, e := e, t := t, c := advance e v1.coord (elapsed t v1) } with
          | .wait => lawStall s a
          | .ok s2 r => .next (State.done { s2 with cur := dropLine (dropLine s2.cur w.addr) a } 1 rd r)
def noCheck (_ : State) (_ : WordAt) (_ : LawEntry) : Nat := 0
/-- Writes the word after an input or a write of COORD and applies those rows of R210. -/
def LawCtx.written (x : LawCtx) (v : Sw) : Option State :=
  let th := x.s.thrEntry x.w.l x.w.part v.alarm
  if v.armed && !v.fired then
    if th.valid && thrMet x.e th v.coord then
      if x.s.postRoom x.w.l then
        let r := x.s.post x.w x.e th v x.t v.coord 2 false
        some (r.1.putWord x.w r.2)
      else none
    else
      let v1 := { v with gen := v.gen + 1 }
      let s1 := x.s.putWord x.w v1
      match (if th.valid then crossing x.e th v1.coord else none) with
      | some (d, r) =>
        some (if s1.roosterRoom x.w then s1.putRooster x.w (mkRooster x.w x.e v1 (x.t + dcOf d r 1) 1 d r x.t) else s1)
      | none => some (s1.dropRooster x.w)
  else some (x.s.putWord x.w v)

-- the operations (R223-R227)

/-- SWST's coordinate, normalised and clamped (R224). -/
def storedCoord (e : LawEntry) (x : Word) : InRes :=
  match e.kind with
  | 1 => if leakLam x = leakMin then ⟨mkLeak false leakMin, false⟩ else ⟨x, false⟩
  | 2 =>
    let n := clampInt (rampLo e) (rampHi e) x.toInt
    ⟨BitVec.ofInt 64 n, decide (n ≠ x.toInt)⟩
  | _ => ⟨x, false⟩
def swstOp (b : Word) (x : LawCtx) : LawRes :=
  let r := storedCoord x.e b
  match x.written { rebase x.v r.c x.t with sat := x.v.sat || r.sat } with
  | some t => .ok t 0
  | none => .wait
/-- An FP32 code that is a NaN or an infinity. -/
def notFinite (x : BitVec 32) : Bool := x.extractLsb' 23 8 == 255#8
/-- SWADD's own checks (R221). -/
def swaddCheck (b : Word) (_ : State) (_ : WordAt) (e : LawEntry) : Nat :=
  if e.kind = 0 then 2
  else if notFinite (b.extractLsb' 0 32) || (e.kind == 3 && notFinite (b.extractLsb' 32 32)) then 3
  else 0
def swaddOp (b : Word) (x : LawCtx) : LawRes :=
  let r := input x.e x.c b
  match x.written { rebase x.v r.c x.t with sat := x.v.sat || r.sat } with
  | some t => .ok t (obs x.e r.c)
  | none => .wait
/-- A THR bit that R207 requires to be 0 is set. -/
def thrBits (e : LawEntry) (th : ThrEntry) : Bool :=
  e.kind == 3 && (if th.sel then th.thr.extractLsb' 32 32 != 0#32 else th.thr.extractLsb' 0 32 != 0#32)
/-- SWARM's own checks (R221, R226). -/
def swarmCheck (b : Word) (s : State) (w : WordAt) (e : LawEntry) : Nat :=
  let idx := (b.extractLsb' 0 8).toNat
  let th := s.thrEntry w.l w.part idx
  if idx = 0 ∨ b.extractLsb' 9 55 ≠ 0#55 ∨ !th.valid then 4
  else if e.kind = 0 ∨ (th.sel ∧ e.kind ≠ 3) ∨ (b.getLsbD 8 ∧ !th.sel) ∨ thrBits e th then 5
  else 0
/-- SWARM (R226, the arming rows of R210). DESIGN CHOICE (log 91): status 1 is for a crossing that would need an entry; a threshold met already
answers 2, and one without a time-driven crossing 0, whether or not the Rooster is full. -/
def swarmOp (b : Word) (x : LawCtx) : LawRes :=
  let idx := (b.extractLsb' 0 8).toNat
  let th := x.s.thrEntry x.w.l x.w.part idx
  let v0 := rebase x.v x.c x.t
  let v1 := { v0 with armed := true, fired := false, alarm := idx, gen := v0.gen + 1, rearm := b.getLsbD 8 }
  let arm := some (x.s.cur.firing.lid, x.s.cur.firing.phase)
  if thrMet x.e th x.c then
    if x.s.postRoom x.w.l then
      let r := x.s.post x.w x.e th v1 x.t x.c 1 false
      .ok ((r.1.putWord x.w r.2).setArm x.w arm) 2
    else .wait
  else match crossing x.e th x.c with
    | none => .ok (((x.s.putWord x.w v1).dropRooster x.w).setArm x.w arm) 0
    | some (d, r) =>
      if x.s.roosterRoom x.w then
        .ok (((x.s.putWord x.w v1).putRooster x.w (mkRooster x.w x.e v1 (x.t + dcOf d r 1) 1 d r x.t)).setArm x.w arm) 0
      else .ok (x.s.putWord x.w v0) 1
def swdisOp (x : LawCtx) : LawRes := .ok ((x.s.putWord x.w { x.v with armed := false }).dropRooster x.w) 0
def swrawCheck (b : Word) (_ : State) (_ : WordAt) (_ : LawEntry) : Nat := if b.toNat > 1 then 6 else 0

def execSwldC (rd rs1 : Reg) (s : State) : Out := lawOp (s.x rs1) rd false noCheck (fun x => .ok x.s x.c) s
def execSwldV (rd rs1 : Reg) (s : State) : Out := lawOp (s.x rs1) rd false noCheck (fun x => .ok x.s (obs x.e x.c)) s
def execSwst (rs2 rs1 : Reg) (s : State) : Out := lawOp (s.x rs1) 0 false noCheck (swstOp (s.x rs2)) s
def execSwadd (rd rs2 rs1 : Reg) (s : State) : Out := lawOp (s.x rs1) rd false (swaddCheck (s.x rs2)) (swaddOp (s.x rs2)) s
def execSwarm (rd rs2 rs1 : Reg) (s : State) : Out := lawOp (s.x rs1) rd false (swarmCheck (s.x rs2)) (swarmOp (s.x rs2)) s
def execSwdis (rs1 : Reg) (s : State) : Out := lawOp (s.x rs1) 0 false noCheck swdisOp s
/-- SWRAW (R227): the delivery check looks at the word only when its law is valid. -/
def execSwraw (rd rs2 rs1 : Reg) (s : State) : Out :=
  lawOp (s.x rs1) rd true (swrawCheck (s.x rs2)) (fun x => .ok x.s (x.s.read (x.w.key + 8 * (s.x rs2).toNat) 8)) s

-- steps of a law unit (R209-R214, R331, R333)

/-- A burst keeps the law unit from a word (R333), or its page cannot be walked yet (R377). -/
def State.wordBusy (s : State) (l p : Nat) (addr : Word) : Bool := decide (l ≥ 4096) && (s.rangeBursting p addr 16 || s.addrHeld false p addr)
/-- The state after law unit l has found a word's page. -/
def State.wordFill (s : State) (l p : Nat) (addr : Word) : State :=
  if l < 4096 then s else s.fill p (addr.toNat / 2 ^ 48 % 256) (addr.toNat % 2 ^ 48)
def State.roosterIsDue (s : State) (l : Nat) (r : Rooster) : Bool :=
  match r.ctr with
  | none => decide (r.due ≤ (s.atimeOf (dieOfLaw l)).toNat)
  | some j => decide (r.due ≤ (look word0 (s.getPart r.part).ctrs j).toNat)
/-- Entry k of law unit l's Rooster is checked (R209, R210, R216). DESIGN CHOICE (log 92): an entry whose word's page does not translate is
discarded. -/
def execRoosterDue (l k : Nat) (s : State) : Out :=
  match (s.getLaw l).rooster[k]? with
  | none => idle s
  | some r =>
    if !s.roosterIsDue l r || !s.postRoom l || s.wordBusy l r.part r.addr then idle s
    else
      let gone := s.setLaw l { s.getLaw l with rooster := (s.getLaw l).rooster.eraseIdx k }
      match s.wordAt l r.part r.addr with
      | none => .next gone
      | some w =>
        let v := s.wordOf w
        let e := s.lawEntry w.part v.law
        let th := s.thrEntry l w.part v.alarm
        if v.armed && !v.fired && v.gen == r.gen && e.valid && !v.top && th.valid then
          let tc := dueUnits e r
          let p := (s.wordFill l r.part r.addr).post w e th v tc (coordAt e (s.nowu l w.part e) v tc) 0 r.late
          .next (p.1.putWord w p.2)
        else .next gone
/-- Whether bank b of a core is a STATE bank. -/
def State.stateBank (s : State) (u b : Nat) : Bool := fmtOfReg (s.bfmt u b) == 8
/-- The next word of a core's sweep from word i on: the first in a STATE bank. -/
def State.nextSwept (s : State) (u i : Nat) : Option Nat :=
  (firstBelow (fun j => s.stateBank u ((i / 256 + j) % 128)) 129 0).map (fun j => if j = 0 then i % 32768 else (i / 256 + j) % 128 * 256)
/-- Word i of the registered words of a stack, region by region. -/
def regWord : List SwReg → Nat → Option (Nat × Word)
  | [], _ => none
  | r :: rs, i => if i < r.nwords then some (r.part, r.base + BitVec.ofNat 64 (16 * i)) else regWord rs (i - r.nwords)
/-- The word that law unit l's sweep visits next, with the cursor after it. -/
def State.sweepWord (s : State) (l : Nat) : Option (Nat × Word × Nat) :=
  let i := (s.getLaw l).sweep
  if l < 4096 then
    (s.nextSwept l i).map (fun j => ((s.getUnit l).part, (s.scratchWord (s.getUnit l).part l (16 * j)).addr, (j + 1) % 32768))
  else
    let rs := s.sweptRegs (l - 4096)
    let n := (rs.map (·.nwords)).sum
    if n = 0 then none else (regWord rs (i % n)).map (fun pa => (pa.1, pa.2, (i % n + 1) % n))
/-- A sweep visit of one word (R213, R214). One that meets a full post queue ends after the crossings it has posted, true, and its word is
visited again. -/
def State.visit (s : State) (w : WordAt) : State × Bool :=
  let v := s.wordOf w
  let e := s.lawEntry w.part v.law
  if s.swapped w || v.top || !e.valid then (s, false)
  else
    let d := s.deliverSome w 1 (s.roosterOf w).isNone
    if d.2 then d
    else
      let t := d.1.nowu w.l w.part e
      let v1 := d.1.wordOf w
      let s1 := d.1.putWord w (rebase v1 (advance e v1.coord (elapsed t v1)) t)
      (if (s1.roosterOf w).isSome then s1 else s1.enterRooster w, false)
/-- The background sweep of law unit l visits its next word. DESIGN CHOICE (log 92): it passes over a word whose page does not translate. -/
def execSweepVisit (l : Nat) (s : State) : Out :=
  match s.sweepWord l with
  | none => idle s
  | some (p, a, i) =>
    if s.wordBusy l p a then idle s
    else
      let moved := fun (t : State) => t.setLaw l { t.getLaw l with sweep := i }
      match s.wordAt l p a with
      | none => .next (moved s)
      | some w =>
        let r := (s.wordFill l p a).visit w
        .next (if r.2 then r.1 else moved r.1)
/-- The sender number of law unit l's posts. -/
def lawSender (l : Nat) : Nat := 8192 + l
/-- The head of law unit l's post queue leaves for its target core (R211, R212). -/
def execAlarmPost (l : Nat) (s : State) : Out :=
  match (s.getLaw l).posts with
  | [] => idle s
  | q :: rest =>
    let s1 := s.setLaw l { s.getLaw l with posts := rest }
    let at_ := s.destUnit q.msg.part (.core q.dest)
    let f : Flight := { src := lawSender l, dst := at_.getD 0, dest := .core q.dest, msg := q.msg }
    -- a suspended partition's post drains to the pen, and its target is looked up at resume (R21, R360)
    if s.suspended q.msg.part then .next { s1 with pens := { s1.pens with flights := s1.pens.flights ++ [f] } }
    else match at_ with
    | some _ => .next { s1 with flights := s1.flights ++ [f] }
    | none => .next (s1.discard (if l < 4096 then l else 2048 + 32 * (l - 4096)) q.msg)

-- stores to the tables (R199, R201, R206, R313, R330), by the unit in focus

/-- A doubleword store of v to local MMIO. -/
def mmioStore (addr : Nat) (v : Word) (s : State) : Out :=
  if !isCore s.focus then idle s
  else match s.access (BitVec.ofNat 64 addr) 8 .w with
    | .error e => raise s e.1 e.2
    | .ok (.mmio a) => (match s.mmioWrite a 8 v with
      | .done t => .next t.retire
      | .trap c tv => raise s c tv
      | .wait => .next s)
    | .ok _ => idle s
def execLawTableCommit (i : Fin 256) (v : Word) (s : State) : Out := mmioStore (0x1FD0000 + 32 * i.val) v s
def execThresholdCommit (stack : Option (Fin 8)) (i : Fin 256) (v : Word) (s : State) : Out :=
  match stack with
  | none => mmioStore (0x1FD4000 + 32 * i.val + 24) v s
  | some n => mmioStore (0x1FE0000 + 0x2000 * n.val + 32 * i.val + 24) v s
def execStepCounterWrite (j : Fin 4096) (v : Word) (s : State) : Out := mmioStore (0x1FD8000 + 8 * j.val) v s
def execHandlerTableCommit (i : Fin 64) (v : Word) (s : State) : Out := mmioStore (0x1FC0000 + 32 * i.val) v s

end Sys2Proof.Machine
end

