-- ==== Sys2Proof/Machine/Base.lean ====
section
/-! DEFINITION. The base instructions (R43-R48): integer arithmetic, M, Zba, jumps and branches, ECALL and EBREAK. Every unit runs them
(R109). -/

namespace Sys2Proof.Machine

/-- The sign-extended low word of a result. -/
def sxw (v : Word) : Word := (v.extractLsb' 0 32).signExtend 64
def low32 (v : Word) : BitVec 32 := v.extractLsb' 0 32
def ofBool64 (b : Bool) : Word := if b then 1 else 0

-- M (R44): no division traps

/-- Signed division; by zero -1, overflow the dividend. -/
def sdiv {n : Nat} (a b : BitVec n) : BitVec n := if b = 0 then BitVec.allOnes n else BitVec.sdiv a b
def udiv' {n : Nat} (a b : BitVec n) : BitVec n := if b = 0 then BitVec.allOnes n else BitVec.udiv a b
/-- Signed remainder; by zero the dividend, overflow 0. -/
def srem' {n : Nat} (a b : BitVec n) : BitVec n := if b = 0 then a else BitVec.srem a b
def urem' {n : Nat} (a b : BitVec n) : BitVec n := if b = 0 then a else BitVec.umod a b
def mulHigh (a b : Int) : Word := BitVec.ofInt 64 (a * b / 2 ^ 64)

-- jumps (R47)

/-- A taken transfer of an instruction of n words to t: bit 1 set traps MISALIGNED with the target. -/
def takeJump (s : State) (n : Nat) (rd : Reg) (t : Word) : Out :=
  if t.getLsbD 1 then raise s 1 t else .next ((s.setReg rd (s.cur.pc + BitVec.ofNat 64 (4 * n))).jump n t)
/-- A conditional branch. -/
def branch (s : State) (taken : Bool) (imm : BitVec 12) : Out :=
  if taken then
    (let t := s.cur.pc + branchOff imm
    if t.getLsbD 1 then raise s 1 t else .next (s.jump 1 t))
  else .next s.retire
/-- JALR with its immediate extended. -/
def jalrOp (s : State) (n : Nat) (rd rs1 : Reg) (imm : Word) : Out := takeJump s n rd ((s.x rs1 + imm) &&& 0xFFFFFFFFFFFFFFFE#64)

-- register operations, with the immediate extended (R43, R60); EXT forms have two words

def addiOp (s : State) (n : Nat) (rd rs1 : Reg) (imm : Word) : Out := .next (s.done n rd (s.x rs1 + imm))
def sltiOp (s : State) (n : Nat) (rd rs1 : Reg) (imm : Word) : Out := .next (s.done n rd (ofBool64 ((s.x rs1).slt imm)))
def sltiuOp (s : State) (n : Nat) (rd rs1 : Reg) (imm : Word) : Out := .next (s.done n rd (ofBool64 ((s.x rs1).ult imm)))
def xoriOp (s : State) (n : Nat) (rd rs1 : Reg) (imm : Word) : Out := .next (s.done n rd (s.x rs1 ^^^ imm))
def oriOp (s : State) (n : Nat) (rd rs1 : Reg) (imm : Word) : Out := .next (s.done n rd (s.x rs1 ||| imm))
def andiOp (s : State) (n : Nat) (rd rs1 : Reg) (imm : Word) : Out := .next (s.done n rd (s.x rs1 &&& imm))
def addiwOp (s : State) (n : Nat) (rd rs1 : Reg) (imm : Word) : Out := .next (s.done n rd (sxw (s.x rs1 + imm)))
/-- An immediate follower under EXT. -/
def immOp (k : ImmKind) (s : State) (n : Nat) (rd rs1 : Reg) (imm : Word) : Out :=
  match k with
  | .addi => addiOp s n rd rs1 imm
  | .slti => sltiOp s n rd rs1 imm
  | .sltiu => sltiuOp s n rd rs1 imm
  | .xori => xoriOp s n rd rs1 imm
  | .ori => oriOp s n rd rs1 imm
  | .andi => andiOp s n rd rs1 imm
  | .addiw => addiwOp s n rd rs1 imm

-- meanings

def execLui (rd : Reg) (imm : BitVec 20) (s : State) : Out := .next (s.done 1 rd (upper imm))
def execAuipc (rd : Reg) (imm : BitVec 20) (s : State) : Out := .next (s.done 1 rd (s.cur.pc + upper imm))
def execJal (rd : Reg) (imm : BitVec 20) (s : State) : Out := takeJump s 1 rd (s.cur.pc + jumpOff imm)
def execJalr (rd rs1 : Reg) (imm : BitVec 12) (s : State) : Out := jalrOp s 1 rd rs1 (sx12 imm)
def execBeq (rs1 rs2 : Reg) (imm : BitVec 12) (s : State) : Out := branch s (s.x rs1 == s.x rs2) imm
def execBne (rs1 rs2 : Reg) (imm : BitVec 12) (s : State) : Out := branch s (s.x rs1 != s.x rs2) imm
def execBlt (rs1 rs2 : Reg) (imm : BitVec 12) (s : State) : Out := branch s ((s.x rs1).slt (s.x rs2)) imm
def execBge (rs1 rs2 : Reg) (imm : BitVec 12) (s : State) : Out := branch s (!(s.x rs1).slt (s.x rs2)) imm
def execBltu (rs1 rs2 : Reg) (imm : BitVec 12) (s : State) : Out := branch s ((s.x rs1).ult (s.x rs2)) imm
def execBgeu (rs1 rs2 : Reg) (imm : BitVec 12) (s : State) : Out := branch s (!(s.x rs1).ult (s.x rs2)) imm
def execAddi (rd rs1 : Reg) (imm : BitVec 12) (s : State) : Out := addiOp s 1 rd rs1 (sx12 imm)
def execSlti (rd rs1 : Reg) (imm : BitVec 12) (s : State) : Out := sltiOp s 1 rd rs1 (sx12 imm)
def execSltiu (rd rs1 : Reg) (imm : BitVec 12) (s : State) : Out := sltiuOp s 1 rd rs1 (sx12 imm)
def execXori (rd rs1 : Reg) (imm : BitVec 12) (s : State) : Out := xoriOp s 1 rd rs1 (sx12 imm)
def execOri (rd rs1 : Reg) (imm : BitVec 12) (s : State) : Out := oriOp s 1 rd rs1 (sx12 imm)
def execAndi (rd rs1 : Reg) (imm : BitVec 12) (s : State) : Out := andiOp s 1 rd rs1 (sx12 imm)
def execAddiw (rd rs1 : Reg) (imm : BitVec 12) (s : State) : Out := addiwOp s 1 rd rs1 (sx12 imm)
def execSlli (rd rs1 : Reg) (sh : BitVec 6) (s : State) : Out := .next (s.done 1 rd (s.x rs1 <<< sh.toNat))
def execSrli (rd rs1 : Reg) (sh : BitVec 6) (s : State) : Out := .next (s.done 1 rd (s.x rs1 >>> sh.toNat))
def execSrai (rd rs1 : Reg) (sh : BitVec 6) (s : State) : Out := .next (s.done 1 rd ((s.x rs1).sshiftRight sh.toNat))
def execSlliw (rd rs1 : Reg) (sh : BitVec 5) (s : State) : Out := .next (s.done 1 rd ((low32 (s.x rs1) <<< sh.toNat).signExtend 64))
def execSrliw (rd rs1 : Reg) (sh : BitVec 5) (s : State) : Out := .next (s.done 1 rd ((low32 (s.x rs1) >>> sh.toNat).signExtend 64))
def execSraiw (rd rs1 : Reg) (sh : BitVec 5) (s : State) : Out := .next (s.done 1 rd (((low32 (s.x rs1)).sshiftRight sh.toNat).signExtend 64))
def execSlliUw (rd rs1 : Reg) (sh : BitVec 6) (s : State) : Out := .next (s.done 1 rd ((low32 (s.x rs1)).setWidth 64 <<< sh.toNat))
def execAdd (rd rs1 rs2 : Reg) (s : State) : Out := .next (s.done 1 rd (s.x rs1 + s.x rs2))
def execSub (rd rs1 rs2 : Reg) (s : State) : Out := .next (s.done 1 rd (s.x rs1 - s.x rs2))
def execSll (rd rs1 rs2 : Reg) (s : State) : Out := .next (s.done 1 rd (s.x rs1 <<< ((s.x rs2).toNat % 64)))
def execSlt (rd rs1 rs2 : Reg) (s : State) : Out := .next (s.done 1 rd (ofBool64 ((s.x rs1).slt (s.x rs2))))
def execSltu (rd rs1 rs2 : Reg) (s : State) : Out := .next (s.done 1 rd (ofBool64 ((s.x rs1).ult (s.x rs2))))
def execXor (rd rs1 rs2 : Reg) (s : State) : Out := .next (s.done 1 rd (s.x rs1 ^^^ s.x rs2))
def execSrl (rd rs1 rs2 : Reg) (s : State) : Out := .next (s.done 1 rd (s.x rs1 >>> ((s.x rs2).toNat % 64)))
def execSra (rd rs1 rs2 : Reg) (s : State) : Out := .next (s.done 1 rd ((s.x rs1).sshiftRight ((s.x rs2).toNat % 64)))
def execOr (rd rs1 rs2 : Reg) (s : State) : Out := .next (s.done 1 rd (s.x rs1 ||| s.x rs2))
def execAnd (rd rs1 rs2 : Reg) (s : State) : Out := .next (s.done 1 rd (s.x rs1 &&& s.x rs2))
def execAddw (rd rs1 rs2 : Reg) (s : State) : Out := .next (s.done 1 rd (sxw (s.x rs1 + s.x rs2)))
def execSubw (rd rs1 rs2 : Reg) (s : State) : Out := .next (s.done 1 rd (sxw (s.x rs1 - s.x rs2)))
def execSllw (rd rs1 rs2 : Reg) (s : State) : Out := .next (s.done 1 rd ((low32 (s.x rs1) <<< ((s.x rs2).toNat % 32)).signExtend 64))
def execSrlw (rd rs1 rs2 : Reg) (s : State) : Out := .next (s.done 1 rd ((low32 (s.x rs1) >>> ((s.x rs2).toNat % 32)).signExtend 64))
def execSraw (rd rs1 rs2 : Reg) (s : State) : Out := .next (s.done 1 rd (((low32 (s.x rs1)).sshiftRight ((s.x rs2).toNat % 32)).signExtend 64))
def execMul (rd rs1 rs2 : Reg) (s : State) : Out := .next (s.done 1 rd (s.x rs1 * s.x rs2))
def execMulh (rd rs1 rs2 : Reg) (s : State) : Out := .next (s.done 1 rd (mulHigh (s.x rs1).toInt (s.x rs2).toInt))
def execMulhsu (rd rs1 rs2 : Reg) (s : State) : Out := .next (s.done 1 rd (mulHigh (s.x rs1).toInt (s.x rs2).toNat))
def execMulhu (rd rs1 rs2 : Reg) (s : State) : Out := .next (s.done 1 rd (mulHigh (s.x rs1).toNat (s.x rs2).toNat))
def execDiv (rd rs1 rs2 : Reg) (s : State) : Out := .next (s.done 1 rd (sdiv (s.x rs1) (s.x rs2)))
def execDivu (rd rs1 rs2 : Reg) (s : State) : Out := .next (s.done 1 rd (udiv' (s.x rs1) (s.x rs2)))
def execRem (rd rs1 rs2 : Reg) (s : State) : Out := .next (s.done 1 rd (srem' (s.x rs1) (s.x rs2)))
def execRemu (rd rs1 rs2 : Reg) (s : State) : Out := .next (s.done 1 rd (urem' (s.x rs1) (s.x rs2)))
def execMulw (rd rs1 rs2 : Reg) (s : State) : Out := .next (s.done 1 rd (sxw (s.x rs1 * s.x rs2)))
def execDivw (rd rs1 rs2 : Reg) (s : State) : Out := .next (s.done 1 rd ((sdiv (low32 (s.x rs1)) (low32 (s.x rs2))).signExtend 64))
def execDivuw (rd rs1 rs2 : Reg) (s : State) : Out := .next (s.done 1 rd ((udiv' (low32 (s.x rs1)) (low32 (s.x rs2))).signExtend 64))
def execRemw (rd rs1 rs2 : Reg) (s : State) : Out := .next (s.done 1 rd ((srem' (low32 (s.x rs1)) (low32 (s.x rs2))).signExtend 64))
def execRemuw (rd rs1 rs2 : Reg) (s : State) : Out := .next (s.done 1 rd ((urem' (low32 (s.x rs1)) (low32 (s.x rs2))).signExtend 64))
def execSh1add (rd rs1 rs2 : Reg) (s : State) : Out := .next (s.done 1 rd ((s.x rs1 <<< 1) + s.x rs2))
def execSh2add (rd rs1 rs2 : Reg) (s : State) : Out := .next (s.done 1 rd ((s.x rs1 <<< 2) + s.x rs2))
def execSh3add (rd rs1 rs2 : Reg) (s : State) : Out := .next (s.done 1 rd ((s.x rs1 <<< 3) + s.x rs2))
def execAddUw (rd rs1 rs2 : Reg) (s : State) : Out := .next (s.done 1 rd ((low32 (s.x rs1)).setWidth 64 + s.x rs2))
def execSh1addUw (rd rs1 rs2 : Reg) (s : State) : Out := .next (s.done 1 rd (((low32 (s.x rs1)).setWidth 64 <<< 1) + s.x rs2))
def execSh2addUw (rd rs1 rs2 : Reg) (s : State) : Out := .next (s.done 1 rd (((low32 (s.x rs1)).setWidth 64 <<< 2) + s.x rs2))
def execSh3addUw (rd rs1 rs2 : Reg) (s : State) : Out := .next (s.done 1 rd (((low32 (s.x rs1)).setWidth 64 <<< 3) + s.x rs2))
/-- ECALL traps from U mode (R46); in S mode it asks firmware for a service, stalls, and resumes with a0 written; a number
without a service is answered at once (R98, R392). -/
def execEcall (s : State) : Out :=
  if s.cur.priv = .s then
    match s.cur.wait with
    | .value v => .next (s.done 1 10 v)
    | _ =>
      let n := (s.x 17).toNat
      if 1 ≤ n ∧ n ≤ 9 then .next (s.stall .service) else .next (s.done 1 10 1)
  else raise s 0x14 0
def execEbreak (s : State) : Out := raise s 0x15 0
/-- A word that is not an instruction (R40). -/
def execIllegalWord (w : Code) (s : State) : Out := illegal s 0 w

end Sys2Proof.Machine
end

