-- ==== Sys2Proof/Machine/Tensor.lean ====
section
/-! DEFINITION. The tensor engine: vector registers and accumulators, bank-formatted accesses (R237-R250), and the matrix instructions
(R251-R257). -/

namespace Sys2Proof.Machine

-- registers (R238)

def vKey (r : VReg) (l : Nat) : Nat := 32 * r.val + l
def accKey (n : Acc) (k : Nat) : Nat := 1024 * n.val + k
/-- A lane of a vector register of the unit in focus. -/
def State.lane (s : State) (r : VReg) (l : Nat) : BitVec 32 := look lane0 s.cur.ten.v (vKey r l)
/-- The 32 lanes of a vector register. -/
def State.lanes (s : State) (r : VReg) : List (BitVec 32) := (List.range 32).map (s.lane r)
def putLanes (m : SMap (BitVec 32)) (k : Nat) : List (BitVec 32) → SMap (BitVec 32)
  | [] => m
  | v :: vs => putLanes (put lane0 m k v) (k + 1) vs
def State.setTen (s : State) (t : Tensor) : State := { s with cur := { s.cur with ten := t } }
/-- Writes the lanes of a vector register. -/
def State.setLanes (s : State) (r : VReg) (vs : List (BitVec 32)) : State :=
  s.setTen { s.cur.ten with v := putLanes s.cur.ten.v (vKey r 0) (vs.take 32) }
def State.accElem (s : State) (n : Acc) (k : Nat) : BitVec 32 := look lane0 s.cur.ten.acc (accKey n k)
/-- Writes elements of an accumulator from number k on. -/
def State.setAcc (s : State) (n : Acc) (k : Nat) (vs : List (BitVec 32)) : State :=
  s.setTen { s.cur.ten with acc := putLanes s.cur.ten.acc (accKey n k) vs }
def isInf32 (x : BitVec 32) : Bool := x &&& 0x7FFFFFFF#32 == 0x7F800000#32
/-- A flag of MSTAT set or cleared (R257). -/
def setFlag (f : BitVec 4) (n : Acc) (b : Bool) : BitVec 4 :=
  let m : BitVec 4 := 1#4 <<< n.val
  if b then f ||| m else f &&& ~~~m
/-- MSTAT's flags after values were written to an accumulator; `only` clears what the values do not set. -/
def State.noteAcc (s : State) (n : Acc) (vs : List (BitVec 32)) (only : Bool) : State :=
  let t := s.cur.ten
  let a := vs.any isNan32
  let b := vs.any isInf32
  s.setTen { t with nan := if a || only then setFlag t.nan n a else t.nan, inf := if b || only then setFlag t.inf n b else t.inf }

-- accesses to the own scratchpad (R241, R242, R249, R250)

def spadBytes : Nat := 0x80000
/-- FMT of the bank that holds a byte of the own scratchpad. -/
def State.bankFmt (s : State) (a : Nat) : Nat := fmtOfReg (s.bfmt s.focus (a / 4096))
def State.bankSat (s : State) (a : Nat) : Bool := satOfReg (s.bfmt s.focus (a / 4096))
/-- Whole bytes of an element. -/
def wholeBytes (f : Nat) : Nat := max 1 (fmtBits f / 8)
/-- The address of the first element, of e bytes each, of n bytes from byte a on that a range lock stops (R241, R289). -/
def State.lockedElem (s : State) (a n e : Nat) (write : Bool) : Option Nat :=
  let g := (s.geq s.cur.part s.focus a).toNat
  if !s.locked g n write then none
  else ((List.range ((n + e - 1) / e)).find? (fun i => s.locked (g + i * e) e write)).map (fun i => a + i * e)
/-- An own write to bytes of a span is not performed (R182, R246). -/
def State.spanPending (s : State) (a n : Nat) : Bool := s.writePending (s.geq s.cur.part s.focus a).toNat n
/-- The unit's cached copies of a span of its own scratchpad go. -/
def State.dropSpan (s : State) (a n : Nat) : State :=
  { s with cur := (List.range (n / 128 + 2)).foldl (fun u i =>
      dropLine u (s.geq s.cur.part s.focus (min (a + 128 * i) (a + n)))) s.cur }

/-- As `dropSpan` for several spans: what an instruction has read there may be newer than a cached copy (R151, R182, R246). -/
def State.dropSpans (s : State) (xs : List (Nat × Nat)) : State := xs.foldl (fun t x => t.dropSpan x.1 x.2) s
/-- How an access names its elements: their byte addresses for an element format, and whether INT4G is allowed. -/
structure Elems where
  addrs : Nat → List Word
  packed : Bool
/-- Elements one after another from an address (VLD, VST, ACCST). -/
def inRow (b : Word) (n : Nat) : Elems where
  addrs := fun f => (List.range n).map (fun i => b + BitVec.ofNat 64 (i * fmtBits f / 8))
  packed := true
/-- Elements at addresses of their own. -/
def apart (as : List Word) : Elems where
  addrs := fun _ => as
  packed := false
/-- The format that governs an access, and the first failed check of R250 in R241's order. -/
def State.elemCheck (s : State) (x : Elems) (write : Bool) : Except Cause Nat :=
  let first := (x.addrs 3).headD 0
  let gov := if first.toNat < spadBytes then some (s.bankFmt first.toNat) else none
  let f := gov.getD 3
  let f1 := if f = 8 then 3 else f
  let e := wholeBytes f1
  let as := x.addrs f1
  match as.find? (fun a => a.toNat % e != 0) with
  | some a => .error (1, a)
  | none => match as.find? (fun a => decide (a.toNat ≥ spadBytes)) with
    | some a => .error (2, a)
    | none => match as.findSome? (fun a => s.lockedElem a.toNat e e write) with
      | some a => .error (0xD, BitVec.ofNat 64 a)
      | none =>
        match as.find? (fun a => s.bankFmt a.toNat != f || f == 8 || decide (f > 8) || (f == 7 && !x.packed)) with
        | some a => .error (0x18, a &&& 0xFFFFFFFFFFFFF000#64)
        | none => .ok f
def seen0 (_ : Nat) : Option Byte := none
/-- Byte a of the own scratchpad as the instruction reads it: as it stood when the instruction read it ahead, where it has (R246). -/
def State.spadByte (s : State) (a : Nat) : Byte := (look seen0 s.cur.tile.seen a).getD (s.byte (scratchKey s.focus a))
/-- n bytes of the own scratchpad as a number, as the instruction reads them. -/
def State.spadNat (s : State) (a n : Nat) : Nat :=
  if s.cur.tile.seen = [] then readNat s.mem (scratchKey s.focus a) n else natOfBytes ((List.range n).map (fun i => s.spadByte (a + i)))
/-- Element i of an access, decoded (R89); `f` is its format and a its byte. -/
def State.readElem (s : State) (f i a : Nat) : BitVec 32 :=
  let v := s.spadNat a (wholeBytes f)
  widenElem f (BitVec.ofNat 32 (if f = 7 then v / 16 ^ (i % 2) % 16 else v))
/-- Bytes of the own scratchpad are written by the engine, in banks that are not STATE, where no write waits (R242). -/
def State.writeBank (s : State) (a : Nat) (bs : List Byte) : State :=
  ((s.writeScratch s.cur.part s.cur.firing.lid s.focus a bs).getD s).dropSpan a bs.length
/-- An instruction's bytes are written, but for those that it has written ahead (R246). -/
def State.writeSpad (s : State) (a : Nat) (bs : List Byte) : State :=
  if s.cur.tile.put = [] then s.writeBank a bs
  else ((bs.mapIdx (fun i b => (a + i, b))).filter (fun x => !s.cur.tile.put.contains x.1)).foldl (fun t x => t.writeBank x.1 [x.2]) s
/-- Elements encoded one after another from byte a on; `enc` takes a format, a SAT bit and a value. -/
def State.storeRow (s : State) (f a : Nat) (enc : Nat → Bool → BitVec 32 → BitVec 32) (vs : List (BitVec 32)) : State :=
  let b := fmtBits f
  let es := vs.mapIdx (fun i v => enc f (s.bankSat (a + i * b / 8)) v)
  s.writeSpad a (bytesOfNat (vs.length * b / 8) (packElems b es))
/-- Elements encoded at addresses of their own, in lane order (R269). -/
def State.storeApart (f : Nat) : State → List (Word × BitVec 32) → State
  | s, [] => s
  | s, (a, v) :: r =>
    State.storeApart f (s.writeSpad a.toNat (bytesOfNat (wholeBytes f) (narrowElem f (s.bankSat a.toNat) v).toNat)) r

-- MMA (R244, R251-R253)

/-- The weight block at an offset, as a number (R79). -/
def State.block (s : State) (o len : Nat) : Nat := readNat s.mem (weightKey s.focus o) len
def State.blockHeader (s : State) (o : Nat) : Nat := s.block o 8
def hdrLen (h : Nat) : Nat := h / 2 ^ 32 % 2 ^ 16
def hdrKeep (h : Nat) : Nat := h / 2 ^ 8 % 2 ^ 8
def hdrFmt (h : Nat) : Nat := h % 16
/-- Bits of a kept value (R80). -/
def keptBits (f : Nat) : Nat := [4, 3, 8, 16].getD f 4
def recBits (f n : Nat) : Nat := 12 + n * keptBits f
/-- LEN (R81). -/
def blockLen (f n : Nat) : Nat := (24 + 16 * recBits f n + 31) / 32 * 32
/-- Kept positions by NCODE (R251). -/
def keepOf (c : Nat) : Nat := [4, 6, 8, 12].getD c 4
/-- The record of group g of a block (R80). -/
def blockRec (b f n g : Nat) : Nat := b / 2 ^ (192 + g * recBits f n) % 2 ^ recBits f n
def bitCount (m : Nat) : Nat → Nat
  | 0 => 0
  | k + 1 => m % 2 + bitCount (m / 2) k
/-- A block is well formed and of the format and density that the control register names (R82). -/
def blockOk (h b f n : Nat) : Bool :=
  hdrFmt h == f && hdrKeep h == n && hdrLen h == blockLen f n && h / 2 ^ 48 == 0 && h / 2 ^ 16 % 2 ^ 16 == 0 && h / 16 % 16 == 0
    && (decide (f < 2) || b / 2 ^ 64 % 2 ^ 128 == 0)
    && b / 2 ^ (192 + 128 * recBits f n) == 0
    && (List.range 128).all (fun g => bitCount (blockRec b f n g) 12 == n)
/-- The offsets of the blocks of an MMA from o on, or the offset of the first bad one (R253, 5c). -/
def State.blocks (s : State) (f n : Nat) : Nat → Nat → Except Nat (List Nat)
  | 0, _ => .ok []
  | m + 1, o =>
    let len := blockLen f n
    if o + len > 0x40000 ∨ !blockOk (s.blockHeader o) (s.block o len) f n then .error o
    else match s.blocks f n m (o + len) with
      | .error e => .error e
      | .ok os => .ok (o :: os)
/-- A kept value as an exact real (R78). -/
def keptValue (f v : Nat) (scale : Int) : Fp :=
  match f with
  | 2 => unpackE4m3 v
  | 3 => unpack 8 7 v
  | _ =>
    let half := 2 ^ (keptBits f - 1)
    if v = 0 then .fin false 0 0 else if v < half then .fin false v scale else .fin true (2 * half - v) scale
/-- The B operand of position kb (0-47) and column j of a block (R244). -/
def weightOf (b f n : Nat) (ebase : Int) (kb j : Nat) : Fp :=
  let r := blockRec b f n (4 * j + kb / 12)
  let i := kb % 12
  if r / 2 ^ i % 2 = 0 then .fin false 0 0
  else keptValue f (r / 2 ^ (12 + bitCount r i * keptBits f) % 2 ^ keptBits f) (ebase - (b / 2 ^ (64 + 4 * j) % 16 : Nat))
/-- The value of an A element (R242). -/
def aValue (f v : Nat) : Fp :=
  match f with
  | 2 => unpack 8 7 v
  | 3 => unpackE4m3 v
  | _ => unpack 5 2 v
/-- A dot product in steps of 16 positions (R84). -/
def dotGo : Nat → BitVec 32 → List Fp → List Fp → BitVec 32
  | 0, t, _, _ => t
  | n + 1, t, as, bs =>
    if as.isEmpty then t else dotGo n (dotStep t ((as.take 16).zipWith mulFp (bs.take 16))) (as.drop 16) (bs.drop 16)
/-- The fields of the control register (R251). -/
structure MmaCtl where
  zf : Bool
  lda : Nat
  ebase : Int
  ncode : Nat
  bfmt : Nat
  k : Nat
  rsvd : Bool
def mmaCtl (w : Word) : MmaCtl where
  zf := w.getLsbD 48
  lda := (w.extractLsb' 32 16).toNat
  ebase := (w.extractLsb' 24 8).toInt
  ncode := (w.extractLsb' 20 2).toNat
  bfmt := (w.extractLsb' 16 2).toNat
  k := (w.extractLsb' 0 16).toNat
  rsvd := w.extractLsb' 49 15 != 0#15 || w.extractLsb' 22 2 != 0#2 || w.extractLsb' 18 2 != 0#2
def isAFmt (f : Nat) : Bool := f == 2 || f == 3 || f == 4
/-- A row of the A tile: its start and length in bytes. -/
def rowsOf (a : Word) (stride n : Nat) : List (Word × Nat) := (List.range 32).map (fun i => (a + BitVec.ofNat 64 (i * stride), n))
/-- The first byte of a span outside the own scratchpad. -/
def outside (a : Word) (n : Nat) : Option Word :=
  if n = 0 then none
  else if a.toNat ≥ spadBytes then some a
  else if a.toNat + n > spadBytes then some (BitVec.ofNat 64 spadBytes)
  else none
/-- The banks that rows touch, in ascending order. -/
def rowBanks (rs : List (Word × Nat)) : List Nat :=
  rs.flatMap (fun r => if r.2 = 0 then [] else (List.range ((r.1.toNat + r.2 - 1) / 4096 - r.1.toNat / 4096 + 1)).map (· + r.1.toNat / 4096))
/-- The checks of R253 after decode: the tile's format, element size and the blocks' offsets. -/
def State.mmaCheck (s : State) (a b : Word) (c : MmaCtl) (a0 : Word) : Except Cause (Nat × Nat × List Nat) :=
  let f := if a.toNat < spadBytes then s.bankFmt a.toNat else 0
  let e := if isAFmt f then fmtBits f / 8 else 1
  let stride := if c.lda ≠ 0 then c.lda else c.k * e
  let rows := rowsOf a stride (c.k * e)
  if a.toNat % e ≠ 0 then .error (1, a)
  else if stride % e ≠ 0 then .error (1, a + BitVec.ofNat 64 stride)
  else if b.toNat % 32 ≠ 0 then .error (1, b)
  else match rows.findSome? (fun r => outside r.1 r.2) with
    | some x => .error (2, x)
    | none => match rows.findSome? (fun r => if r.2 = 0 then none else s.lockedElem r.1.toNat r.2 e false) with
      | some x => .error (0xD, BitVec.ofNat 64 x)
      | none =>
        if c.rsvd then .error (0x18, a0)
        else match (rowBanks rows).find? (fun k => !isAFmt (s.bankFmt (4096 * k)) || s.bankFmt (4096 * k) != f) with
          | some k => .error (0x18, BitVec.ofNat 64 (4096 * k))
          | none => match s.blocks c.bfmt (keepOf c.ncode) ((c.k + 47) / 48) b.toNat with
            | .error o => .error (0x18, BitVec.ofNat 64 o)
            | .ok os => .ok (f, e, os)
/-- The 1,024 results of an MMA (R252). -/
def State.mmaResult (s : State) (n : Acc) (a : Word) (c : MmaCtl) (f e : Nat) (os : List Nat) : List (BitVec 32) :=
  let stride := if c.lda ≠ 0 then c.lda else c.k * e
  let keep := keepOf c.ncode
  let bs := os.map (fun o => s.block o (blockLen c.bfmt keep))
  let row := fun (i : Nat) => (List.range c.k).map (fun k => aValue f (s.spadNat (a.toNat + i * stride + k * e) e))
  let col := fun (j : Nat) => (List.range c.k).map (fun k => weightOf (bs.getD (k / 48) 0) c.bfmt keep c.ebase (k % 48) j)
  let cols := (List.range 32).map col
  (List.range 32).flatMap (fun i =>
    let r := row i
    cols.mapIdx (fun j cl => dotGo (c.k / 16 + 1) (if c.zf then 0#32 else s.accElem n (32 * i + j)) r cl))
def execMma (acc : Acc) (rs1 rs2 rs3 : Reg) (s : State) : Out :=
  guardU (.mma acc rs1 rs2 rs3) false s (
    let a := s.x rs1
    let b := s.x rs2
    let c := mmaCtl (s.x rs3)
    match s.mmaCheck a b c b with
    | .error x => raise s x.1 x.2
    | .ok (f, e, os) =>
      let stride := if c.lda ≠ 0 then c.lda else c.k * e
      if (List.range 32).any (fun i => s.spanPending (a.toNat + i * stride) (c.k * e)) && c.k != 0 then .next s
      else
        let res := s.mmaResult acc a c f e os
        let s1 := (s.setAcc acc 0 res).noteAcc acc res c.zf
        let t := s1.cur.ten
        let s2 := s1.setTen { t with cyc := Config.mmaCycles s1.free, mmas := if t.mmas = 0xFFFF#16 then t.mmas else t.mmas + 1 }
        .next (State.retire (State.dropSpans { s2 with free := s2.free + 1 } ((List.range 32).map (fun i => (a.toNat + i * stride, c.k * e))))))

-- WLD (R254)

/-- The lengths of n blocks from byte a on, by their headers; or the first byte outside the scratchpad; none: an own earlier write to a
header is not performed, and the walk waits (R246). -/
def State.headerWalk (s : State) : Nat → Word → Except (Option Word) (List Nat)
  | 0, _ => .ok []
  | n + 1, a =>
    match outside a 8 with
    | some x => .error (some x)
    | none =>
      if s.spanPending a.toNat 8 then .error none
      else
        let l := hdrLen (s.spadNat a.toNat 8) / 32 * 32
        let l := if l = 0 then 32 else l
        match s.headerWalk n (a + BitVec.ofNat 64 l) with
        | .error x => .error x
        | .ok ls => .ok (l :: ls)
/-- The offset of the first block that crosses the end of the weight buffer. -/
def crossing_ : Nat → List Nat → Option Nat
  | _, [] => none
  | o, l :: ls => if o + l > 0x40000 then some o else crossing_ (o + l) ls
/-- What a WLD will do: a trap, a wait, or copying so many bytes. -/
inductive WldRes
  | trap (c : Nat) (tval : Word)
  | wait
  | copy (total : Nat)
/-- The checks of R254, in its order. -/
def State.wldCheck (s : State) (n : Nat) (src dst : Word) : WldRes :=
  if src.toNat % 32 ≠ 0 then .trap 1 src
  else if dst.toNat % 32 ≠ 0 then .trap 1 dst
  else match s.headerWalk n src with
    | .error none => .wait
    | .error (some x) => .trap 2 x
    | .ok ls =>
      let total := ls.sum
      match outside src total with
      | some x => .trap 2 x
      | none => match s.lockedElem src.toNat total 1 false with
        | some x => .trap 0xD (BitVec.ofNat 64 x)
        | none => match crossing_ dst.toNat ls with
          | some o => .trap 0x18 (BitVec.ofNat 64 o)
          | none => if s.spanPending src.toNat total then .wait else .copy total
/-- k bytes reach the weight buffer. -/
def State.wldCopy (s : State) (src dst : Word) (k : Nat) : State :=
  s.writeBytes (fun i => weightKey s.focus (dst.toNat + i)) (if s.cur.tile.seen = [] then s.readBytes (fun i => scratchKey s.focus (src.toNat + i)) k
    else (List.range k).map (fun i => s.spadByte (src.toNat + i)))
def execWld (n : Fin 32) (rs1 rs2 : Reg) (s : State) : Out :=
  guardU (.wld n rs1 rs2) false s (
    match s.wldCheck n.val (s.x rs1) (s.x rs2) with
    | .trap c tv => raise s c tv
    | .wait => .next s
    | .copy k => .next ((s.wldCopy (s.x rs1) (s.x rs2) k).dropSpan (s.x rs1).toNat k).retire)
/-- A trap or stop that is due abandons the WLD that unit u is executing, after k bytes; it will be re-executed whole (R245). -/
def State.abandon (s : State) (u k : Nat) : Out :=
  if u ≥ 2048 then .fault (.noSuchPlace u)
  else
    let t := s.refocus u
    if t.cur.run ≠ .running ∨ !t.breaks u ∨ t.cur.wait ≠ .none ∨ t.fetchHeld then idle s
    else match t.fetch with
      | .ok (.wld n rs1 rs2, r) => (match r.wldCheck n.val (r.x rs1) (r.x rs2) with
        | .copy total => .next (r.wldCopy (r.x rs1) (r.x rs2) (min k total))
        | _ => idle s)
      | _ => idle s

-- accumulator moves (R255-R257)

def rowOf (v : Word) : Nat := v.toNat % 32
def execAccz (acc : Acc) (s : State) : Out :=
  guardU (.accz acc) false s (.next ((s.setAcc acc 0 (List.replicate 1024 0#32)).noteAcc acc [] true).retire)
def execAccrd (vd : VReg) (acc : Acc) (rs1 : Reg) (s : State) : Out :=
  guardU (.accrd vd acc rs1) false s (.next (s.setLanes vd ((List.range 32).map (fun l => s.accElem acc (32 * rowOf (s.x rs1) + l)))).retire)
def execAccwr (acc : Acc) (vs : VReg) (rs1 : Reg) (s : State) : Out :=
  guardU (.accwr acc vs rs1) false s (
    .next ((s.setAcc acc (32 * rowOf (s.x rs1)) (s.lanes vs)).noteAcc acc (s.lanes vs) false).retire)
/-- An accumulator element in a bank's format (R256). -/
def accStored (f : Nat) (sat : Bool) (x : BitVec 32) : BitVec 32 :=
  match f with
  | 5 => BitVec.ofInt 32 (cvtInt (-128) 127 x)
  | 6 => BitVec.ofInt 32 (cvtInt (-2147483648) 2147483647 x)
  | 7 => BitVec.ofInt 32 (cvtInt (-8) 7 x)
  | _ => narrowElem f sat x
def execAccst (acc : Acc) (rs1 : Reg) (s : State) : Out :=
  guardU (.accst acc rs1) false s (
    let a := s.x rs1
    match s.elemCheck (inRow a 1024) true with
    | .error e => raise s e.1 e.2
    | .ok f =>
      if s.spanPending a.toNat (1024 * fmtBits f / 8) then .next s
      else .next (s.storeRow f a.toNat accStored ((List.range 1024).map (s.accElem acc))).retire)
/-- MSTAT (R257). -/
def mstatWord (t : Tensor) : Word := (t.cyc ++ t.mmas ++ 0#8 ++ t.nan ++ t.inf : BitVec 48).setWidth 64
def execMstat (rd : Reg) (s : State) : Out := guardU (.mstat rd) false s (.next (s.done 1 rd (mstatWord s.cur.ten)))

end Sys2Proof.Machine
end

