-- ==== Sys2Proof/Machine/Vector.lean ====
section
/-! DEFINITION. The vector instructions (R258-R271), and EXT with what follows it (R59-R63, R128). -/

namespace Sys2Proof.Machine

-- moulds

/-- Every lane of vd from the lanes of va. -/
def lanes1 (i : Instr) (vd va : VReg) (f : BitVec 32 → BitVec 32) (s : State) : Out :=
  guardU i false s (.next (s.setLanes vd ((s.lanes va).map f)).retire)
/-- Every lane of vd from the lanes of va and vb. -/
def lanes2 (i : Instr) (vd va vb : VReg) (f : BitVec 32 → BitVec 32 → BitVec 32) (s : State) : Out :=
  guardU i false s (.next (s.setLanes vd ((s.lanes va).zipWith f (s.lanes vb))).retire)
/-- Every lane of vd from the lanes of va, vb and vc. -/
def lanes3 (i : Instr) (vd va vb vc : VReg) (f : BitVec 32 → BitVec 32 → BitVec 32 → BitVec 32) (s : State) : Out :=
  guardU i false s (.next (s.setLanes vd ((List.range 32).map (fun l => f (s.lane va l) (s.lane vb l) (s.lane vc l)))).retire)
/-- A mask lane (R259, R261). -/
def mask32 (b : Bool) : BitVec 32 := if b then BitVec.allOnes 32 else 0#32

-- floating point (R258, R259, R262, R263)

/-- A condition on FP32 lanes; the zeros compare equal, and a NaN makes every one but ne false. -/
def fcmp (c : FCond) (a b : BitVec 32) : Bool :=
  let nan := isNan32 a || isNan32 b
  let za := a &&& 0x7FFFFFFF#32 == 0#32
  let zb := b &&& 0x7FFFFFFF#32 == 0#32
  let eq := (a == b) || (za && zb)
  let lt := !(za && zb) && decide (key32 a < key32 b)
  match c with
  | .eq => !nan && eq
  | .ne => nan || !eq
  | .lt => !nan && lt
  | .le => !nan && (lt || eq)
def fneg (x : BitVec 32) : BitVec 32 := x ^^^ 0x80000000#32
def fabs (x : BitVec 32) : BitVec 32 := x &&& 0x7FFFFFFF#32
def execVfadd (vd va vb : VReg) (s : State) : Out := lanes2 (.vfadd vd va vb) vd va vb fadd s
def execVfsub (vd va vb : VReg) (s : State) : Out := lanes2 (.vfsub vd va vb) vd va vb fsub s
def execVfmul (vd va vb : VReg) (s : State) : Out := lanes2 (.vfmul vd va vb) vd va vb fmul s
def execVfmax (vd va vb : VReg) (s : State) : Out := lanes2 (.vfmax vd va vb) vd va vb fmax s
def execVfmin (vd va vb : VReg) (s : State) : Out := lanes2 (.vfmin vd va vb) vd va vb fmin s
def execVfabs (vd va : VReg) (s : State) : Out := lanes1 (.vfabs vd va) vd va fabs s
def execVfneg (vd va : VReg) (s : State) : Out := lanes1 (.vfneg vd va) vd va fneg s
def execVfcmp (cond : FCond) (vd va vb : VReg) (s : State) : Out :=
  lanes2 (.vfcmp cond vd va vb) vd va vb (fun a b => mask32 (fcmp cond a b)) s
def execVfma (vd va vb vc : VReg) (s : State) : Out := lanes3 (.vfma vd va vb vc) vd va vb vc fma32 s
def execVfms (vd va vb vc : VReg) (s : State) : Out := lanes3 (.vfms vd va vb vc) vd va vb vc (fun a b c => fma32 a b (fneg c)) s
def execVsel (vd va vb vc : VReg) (s : State) : Out := lanes3 (.vsel vd va vb vc) vd va vb vc (fun a b c => if c ≠ 0 then a else b) s

-- integers (R260, R261)

def icmp (c : ICond) (a b : BitVec 32) : Bool :=
  match c with
  | .eq => a == b
  | .ne => a != b
  | .lt => a.slt b
  | .le => a.sle b
  | .ltu => a.ult b
  | .leu => a.ule b
def execViadd (vd va vb : VReg) (s : State) : Out := lanes2 (.viadd vd va vb) vd va vb (· + ·) s
def execVisub (vd va vb : VReg) (s : State) : Out := lanes2 (.visub vd va vb) vd va vb (· - ·) s
def execVimul (vd va vb : VReg) (s : State) : Out := lanes2 (.vimul vd va vb) vd va vb (· * ·) s
def execVand (vd va vb : VReg) (s : State) : Out := lanes2 (.vand vd va vb) vd va vb (· &&& ·) s
def execVor (vd va vb : VReg) (s : State) : Out := lanes2 (.vor vd va vb) vd va vb (· ||| ·) s
def execVxor (vd va vb : VReg) (s : State) : Out := lanes2 (.vxor vd va vb) vd va vb (· ^^^ ·) s
def execVsll (vd va vb : VReg) (s : State) : Out := lanes2 (.vsll vd va vb) vd va vb (fun a b => a <<< (b.toNat % 32)) s
def execVsrl (vd va vb : VReg) (s : State) : Out := lanes2 (.vsrl vd va vb) vd va vb (fun a b => a >>> (b.toNat % 32)) s
def execVsra (vd va vb : VReg) (s : State) : Out := lanes2 (.vsra vd va vb) vd va vb (fun a b => a.sshiftRight (b.toNat % 32)) s
def execVimin (vd va vb : VReg) (s : State) : Out := lanes2 (.vimin vd va vb) vd va vb (fun a b => if a.slt b then a else b) s
def execVimax (vd va vb : VReg) (s : State) : Out := lanes2 (.vimax vd va vb) vd va vb (fun a b => if a.slt b then b else a) s
def execVicmp (cond : ICond) (vd va vb : VReg) (s : State) : Out :=
  lanes2 (.vicmp cond vd va vb) vd va vb (fun a b => mask32 (icmp cond a b)) s

-- special functions and conversions (R264, R265)

def execVexp2 (vd va : VReg) (s : State) : Out := lanes1 (.vexp2 vd va) vd va exp2Lane s
def execVrcp (vd va : VReg) (s : State) : Out := lanes1 (.vrcp vd va) vd va rcpLane s
def execVrsq (vd va : VReg) (s : State) : Out := lanes1 (.vrsq vd va) vd va rsqLane s
def execVlog2 (vd va : VReg) (s : State) : Out := lanes1 (.vlog2 vd va) vd va log2Lane s
def cvtLane (k : CvtKind) (x : BitVec 32) : BitVec 32 :=
  match k with
  | .toi32 => BitVec.ofInt 32 (cvtInt (-2147483648) 2147483647 x)
  | .fromi32 => ofInt32 x.toInt
  | .tobf16 => (cvtBf16 x).setWidth 32
  | .frombf16 => widenBf16 (x.extractLsb' 0 16)
  | .toe4m3 => (cvtE4m3 x false).setWidth 32
  | .frome4m3 => widenE4m3 (x.extractLsb' 0 8)
  | .toe5m2 => (cvtE5m2 x false).setWidth 32
  | .frome5m2 => widenE5m2 (x.extractLsb' 0 8)
def execVcvt (kind : CvtKind) (vd va : VReg) (s : State) : Out := lanes1 (.vcvt kind vd va) vd va (cvtLane kind) s

-- reductions (R266)

/-- One level of the tree. -/
def pairUp (f : BitVec 32 → BitVec 32 → BitVec 32) : List (BitVec 32) → List (BitVec 32)
  | a :: b :: r => f a b :: pairUp f r
  | r => r
/-- The pairwise tree over 32 lanes. -/
def reduceTree (f : BitVec 32 → BitVec 32 → BitVec 32) (vs : List (BitVec 32)) : BitVec 32 :=
  (pairUp f (pairUp f (pairUp f (pairUp f (pairUp f vs))))).headD 0
def reduceOp (i : Instr) (vd va : VReg) (f : BitVec 32 → BitVec 32 → BitVec 32) (s : State) : Out :=
  guardU i false s (.next (s.setLanes vd (List.replicate 32 (reduceTree f (s.lanes va)))).retire)
def execVfsum (vd va : VReg) (s : State) : Out := reduceOp (.vfsum vd va) vd va fadd s
def execVfmaxr (vd va : VReg) (s : State) : Out := reduceOp (.vfmaxr vd va) vd va fmax s
def execVisum (vd va : VReg) (s : State) : Out := reduceOp (.visum vd va) vd va (· + ·) s

-- moves (R267)

def execVperm (vd va vb : VReg) (s : State) : Out :=
  guardU (.vperm vd va vb) false s (.next (s.setLanes vd ((s.lanes vb).map (fun b => s.lane va (b.toNat % 32)))).retire)
def execVbcast (vd : VReg) (rs1 : Reg) (s : State) : Out :=
  guardU (.vbcast vd rs1) false s (.next (s.setLanes vd (List.replicate 32 ((s.x rs1).extractLsb' 0 32))).retire)
def execVmvx (rd : Reg) (va : VReg) (lane : Fin 32) (s : State) : Out :=
  guardU (.vmvx rd va lane) false s (.next (s.done 1 rd ((s.lane va lane.val).signExtend 64)))
def execVmvv (vd va : VReg) (s : State) : Out := lanes1 (.vmvv vd va) vd va id s
def execVslide (vd va : VReg) (amt : BitVec 5) (s : State) : Out :=
  guardU (.vslide vd va amt) false s (.next (s.setLanes vd ((List.range 32).map (fun (l : Nat) =>
    let i := (l : Int) + amt.toInt
    if 0 ≤ i ∧ i ≤ 31 then s.lane va i.toNat else 0#32))).retire)
/-- VREC's lanes from lane l on (R270). -/
def recGo (s : State) (va vb : VReg) : Nat → Nat → BitVec 32 → List (BitVec 32)
  | 0, _, _ => []
  | n + 1, l, h =>
    let r := fma32 (s.lane va l) h (s.lane vb l)
    r :: recGo s va vb n (l + 1) r
def execVrec (vd va vb vc : VReg) (s : State) : Out :=
  guardU (.vrec vd va vb vc) false s (.next (s.setLanes vd (recGo s va vb 32 0 (s.lane vc 31))).retire)

-- vector memory (R268, R269)

/-- A vector load of n words of instruction text. -/
def vecLoad (n : Nat) (vd : VReg) (x : Elems) (s : State) : Out :=
  match s.elemCheck x false with
  | .error e => raise s e.1 e.2
  | .ok f =>
    let as := x.addrs f
    if as.any (fun a => s.spanPending a.toNat (wholeBytes f)) then .next s
    else .next (((s.setLanes vd (as.mapIdx (fun i a => s.readElem f i a.toNat))).dropSpans (as.map (fun a => (a.toNat, wholeBytes f)))).retireN n)
/-- A vector store of lanes in a row. -/
def vecStore (n : Nat) (vs : VReg) (b : Word) (s : State) : Out :=
  match s.elemCheck (inRow b 32) true with
  | .error e => raise s e.1 e.2
  | .ok f =>
    if s.spanPending b.toNat (32 * fmtBits f / 8) then .next s
    else .next ((s.storeRow f b.toNat narrowElem (s.lanes vs)).retireN n)
def strided (s : State) (rs1 rs2 : Reg) : List Word := (List.range 32).map (fun l => s.x rs1 + BitVec.ofNat 64 l * s.x rs2)
def execVld (vd : VReg) (rs1 : Reg) (imm : BitVec 12) (s : State) : Out :=
  guardU (.vld vd rs1 imm) false s (vecLoad 1 vd (inRow (s.x rs1 + sx12 imm) 32) s)
def execVst (vs : VReg) (rs1 : Reg) (imm : BitVec 12) (s : State) : Out :=
  guardU (.vst vs rs1 imm) false s (vecStore 1 vs (s.x rs1 + sx12 imm) s)
def execVlds (vd : VReg) (rs1 rs2 : Reg) (s : State) : Out :=
  guardU (.vlds vd rs1 rs2) false s (vecLoad 1 vd (apart (strided s rs1 rs2)) s)
def execVsts (vs : VReg) (rs1 rs2 : Reg) (s : State) : Out :=
  guardU (.vsts vs rs1 rs2) false s (
    let as := strided s rs1 rs2
    match s.elemCheck (apart as) true with
    | .error e => raise s e.1 e.2
    | .ok f =>
      if as.any (fun a => s.spanPending a.toNat (wholeBytes f)) then .next s
      else .next (State.storeApart f s (as.zip (s.lanes vs))).retire)
def execVldx (vd : VReg) (rs1 : Reg) (vb : VReg) (s : State) : Out :=
  guardU (.vldx vd rs1 vb) false s (vecLoad 1 vd (apart ((s.lanes vb).map (fun o => s.x rs1 + o.setWidth 64))) s)

-- EXT (R60-R63)

/-- A vector follower on a stack core is outside its subset (R40). -/
def coreOnly (i : Instr) (s : State) (k : Out) : Out := if isSc s.focus then illegal s 4 (firstWord i) else k
/-- A follower of EXT; n words in all, t is the time of an AT between (R61, R128). -/
def extOp (e : BitVec 20) (n : Nat) (f : Follower) (t : Option Word) (s : State) (other : Out) : Out :=
  match f, t with
  | .load k rd rs1 i, _ => loadOp k n rd (s.x rs1 + sxExt e i) t s
  | .store k rs2 rs1 i, _ => storeOp k n rs2 (s.x rs1 + sxExt e i) t s
  | .opImm k rd rs1 i, none => immOp k s n rd rs1 (sxExt e i)
  | .jalr rd rs1 i, none => jalrOp s n rd rs1 (sxExt e i)
  | .vld vd rs1 i, none => coreOnly (.vld vd rs1 i) s (vecLoad n vd (inRow (s.x rs1 + sxExt e i) 32) s)
  | .vst vs rs1 i, none => coreOnly (.vst vs rs1 i) s (vecStore n vs (s.x rs1 + sxExt e i) s)
  | _, _ => other
/-- EXT and what follows it. -/
def execExtPfx (e : BitVec 20) (tail : Tail) (s : State) : Out :=
  let second := (encode (.extPfx e tail)).getD 1 0
  match tail with
  | .one f => extOp e 2 f none s (illegal s 1 second)
  | .viaAt rs1 f => extOp e 3 f (some (s.x rs1)) s (illegal s 1 second)
  | .bad w => illegal s (badTval w) w
  | .badAt _ w => illegal s (badTval w) w
  | .viaExt _ _ | .badExt _ _ => illegal s 2 second

end Sys2Proof.Machine
end

