-- ==== Sys2Proof/Machine/Bank.lean ====
section
/-! DEFINITION. The pseudo-channels and their Beads (spec 18_stack_banks R298-R321): the bank instructions, all-bank mode, bursts, BMV,
BEXPR, RETRY and its tickets, BEAD-FAULT. -/

namespace Sys2Proof.Machine

-- shared checks (R298, R305)

/-- R298: the address names a stack node or a stripe set. -/
def State.bankNode (s : State) (a : Word) : Option Cause :=
  match classify (isSc s.focus) a with
  | .global node off =>
    if (isStackNode node || isStripeNode node) && (s.home s.cur.part node off).isSome then none else some (5, BitVec.ofNat 64 node)
  | _ => some (5, a)
/-- The page that a bank instruction's address names cannot be walked yet (R377). -/
def State.bankHeld (s : State) (a : Word) : Bool := s.addrHeld (isSc s.focus) s.cur.part a
/-- ILLEGAL-COMMAND of a bank instruction. -/
def bankIllegal (s : State) (sub : Nat) : Out := raise s 0x13 (BitVec.ofNat 64 sub)
/-- Reads n bytes of the unit's own local memory: the first failed check, in the order alignment, address class, range lock. -/
def State.localOperand (s : State) (a : Word) (align n : Nat) : Option Cause :=
  let lim := localSize s.focus
  if a.toNat % align ≠ 0 then some (1, a)
  else if a.toNat + n > lim then some (2, if a.toNat < lim then BitVec.ofNat 64 lim else a)
  else if isCore s.focus && (s.lockedElem a.toNat n n false).isSome then some (0xD, a)
  else none
/-- The logical name of the unit in focus, as a holder is known (R301). -/
def State.holderName (s : State) (u : Nat) : Nat × Nat := ((s.getUnit u).part, s.unitField (s.getUnit u).part u)
def State.holds (s : State) (u g c : Nat) : Bool :=
  (s.getPch g c).allbank && (s.getPch g c).holder == some (s.holderName u)
/-- Pseudo-channels of a stack that count against CAP (R301, R302). -/
def State.activePchs (s : State) (g : Nat) : Nat := ((s.getStack g).pch.filter (fun kv => kv.2.allbank || kv.2.burst.isSome)).length
def State.belowCap (s : State) (g : Nat) : Bool := decide (s.activePchs g < (s.getStack g).cap)

-- BMODE (R306)

/-- Unit u's entry into ALLBANK. -/
def State.enterAllbank (s : State) (u g c : Nat) : State :=
  s.setPch g c { s.getPch g c with allbank := true, holder := some (s.holderName u), hold := ((s.getUnit u).firing.lid, (s.getUnit u).firing.fid), x := [], p := [], retries := 0, fault := false }
def execBmode (rd rs2 rs1 : Reg) (s : State) : Out :=
  match s.cur.wait with
  | .value v => .next (s.done 1 rd v)
  | .bmode _ _ => .next s
  | _ =>
    let a := s.x rs1
    let v := s.x rs2
    match s.bankNode a with
    | some e => raise s e.1 e.2
    | none =>
      if v.toNat > 1 then bankIllegal s 0x0B
      else if s.bankHeld a then .next s
      else match s.bankPlace a .any with
        | .error e => raisePlace e
        | .ok (g, c, _, s) =>
          let h := s.getPch g c
          let mine := s.holds s.focus g c
          if v = 1 then
            (if mine then .next (s.done 1 rd 1)
            else if h.allbank then .next (s.done 1 rd 2)
            else if (s.getStack g).entering.isEmpty && s.belowCap g && h.burst.isNone then .next ((s.enterAllbank s.focus g c).done 1 rd 0)
            else
              let x := s.getStack g
              .next ((s.setStack g { x with entering := x.entering ++ [(c, s.cur.part, s.focus)] }).stall (.bmode g c)))
          else if !mine then .next (s.done 1 rd 1)
          else if h.cmds.any (·.held) then .next s
          else .next ((s.setPch g c { h with allbank := false, holder := none, hold := (0, 0) }).done 1 rd 0)
/-- The first waiting entry of stack g is granted, or finds its pseudo-channel taken (R301, R306). -/
def execBmodeGrant (g pch : Nat) (s : State) : Out :=
  let x := s.getStack g
  match x.entering with
  | [] => idle s
  | (c, _, u) :: rest =>
    let answer := fun (t : State) (v : Word) => Host.Outcome.next (t.setUnit u { t.getUnit u with wait := .value v })
    let t := s.setStack g { x with entering := rest }
    if c ≠ pch then idle s
    else if (s.getPch g c).allbank then answer t (if s.holds u g c then 1 else 2)
    else if s.belowCap g && (s.getPch g c).burst.isNone then answer (t.enterAllbank u g c) 0
    else idle s

-- commands: acceptance and completion (R305)

/-- An accepted command joins its pseudo-channel's queue, with the frames found for it. -/
def State.acceptCmd (s : State) (g c : Nat) (k : BankKind) (frames dframes : List Site) : State :=
  let h := s.getPch g c
  let b : BankCmd := { src := s.focus, part := s.cur.part, lid := s.cur.firing.lid, fid := s.cur.firing.fid, kind := k,
                       held := s.holds s.focus g c, frames := frames, dframes := dframes, ord := s.fids }
  State.setPch { s with fids := s.fids + 1 } g c { h with cmds := h.cmds ++ [b] }
/-- A command that the pseudo-channel accepted before the last one of the unit in focus; none of the earlier ones is left. -/
def State.dropCmd (s : State) (g c : Nat) (b : BankCmd) : State :=
  s.setPch g c { s.getPch g c with cmds := (s.getPch g c).cmds.filter (fun x => x.ord != b.ord) }
/-- The semaphore of a command and its completion (R286, R309). -/
def semOf : BankKind → Option Nat
  | .bmv _ _ _ _ _ _ _ _ _ sem => sem
  | .bexpr _ _ _ _ sem _ _ => sem
  | _ => none
/-- Logical core number of a core in its cluster. -/
def State.coreIndex (s : State) (p u : Nat) : Nat := s.cidOf p u % 16
def State.cmdSem (s : State) (b : BankCmd) : State :=
  match semOf b.kind with
  | some n => (s.semInc b.part (b.src / 16) n (s.coreIndex b.part b.src)).setLatch b.src
  | none => s
def cmdCode : BankKind → Nat
  | .bcast .. => 0x81
  | .bmv .. => 0x82
  | .bexpr .. => 0x83
  | .bget _ => 0x84
def cmdAddr : BankKind → Word
  | .bmv m .. => m
  | .bexpr a .. => a
  | .bget d => d
  | .bcast .. => 0
/-- The answer to a REPLY-mode BEXPR (R316). -/
def State.cmdReply (s : State) (b : BankCmd) (status : Nat) (a0 a1 : Word) : State :=
  match b.kind with
  | .bexpr _ _ _ (some (slot, gen)) _ _ _ =>
    { s with replies := s.replies ++ [{ dst := b.src, part := b.part, node := s.originNode b.part b.src, ounit := s.cidOf b.part b.src, slot := slot, gen := gen, status := status, pay := [a0, a1, 0, 0, 0, 0] }] }
  | _ => s
/-- A command ends FAULTED (R287, R311, R317). -/
def State.failCmd (s : State) (g c : Nat) (b : BankCmd) (cause sub : Nat) (addr : Word) (progress : Nat) : State :=
  let s1 := s.dropCmd g c b
  let s2 := s1.setPch g c { s1.getPch g c with fault := true }
  let s3 := match semOf b.kind with
    | some n =>
      let d0 := BitVec.ofNat 64 (cause + sub * 2 ^ 8 + cmdCode b.kind * 2 ^ 16 + s.cidOf b.part b.src * 2 ^ 24)
      s2.semFail b.part (b.src / 16) n (s.coreIndex b.part b.src) d0 0 addr (BitVec.ofNat 64 progress)
    | none => s2
  let r : FaultRec := { cause := cause, sub := sub, kind := 6, lid := b.lid, unit := s.unitField b.part b.src, addr := addr,
                        val := match semOf b.kind with
                          | some n => BitVec.ofNat 64 (0x1001000 + 32 * n)
                          | none => 0,
                        time := (s.atimeOf (4 + g)).toNat, src := some b.src }
  let s4 := if cause = 3 then s3.reportAbsent b.part (addr.toNat / 2 ^ 48 % 256) (addr.toNat % 2 ^ 48) r else s3.report b.part true r
  s4.cmdReply b 1 (BitVec.ofNat 64 cause) (BitVec.ofNat 64 sub)

-- BCAST and BGET (R307, R311)

def putBytes (m : SMap Byte) (k : Nat) : List Byte → SMap Byte
  | [] => m
  | b :: bs => putBytes (put byte0 m k b) (k + 1) bs
/-- The X registers after a broadcast. -/
def castX (full : Bool) (xoff : Nat) (bytes : List Byte) (m : SMap Byte) : SMap Byte :=
  let n := bytes.length / 16
  (List.range 16).foldl (fun m b => putBytes m (1024 * b + 32 * xoff) (if full then bytes else (bytes.drop (b * n)).take n)) m
/-- P0-P63 of Bead 15 as bytes. -/
def beadBytes (h : Pch) : List Byte := (List.range 64).flatMap (fun r => bytesOfNat 4 (look lane0 h.p (64 * 15 + r)).toNat)
/-- The ports that BGET's destination meets (R303, R364): those of a global range, or the core's of a local one. -/
def State.getPorts (s : State) (b : BankCmd) (dst : Word) : List (Nat × Nat) :=
  match s.localSpot b.src b.part dst with
  | some (core, _) => if isCore core then [(8192 + core / 16, 16 * b.part + core % 16)] else []
  | none => s.rangePorts b.part dst 256
/-- The source number of a pseudo-channel's own requests. -/
def bankSrc (g c : Nat) : Nat := 24576 + 128 * g + c
/-- BGET's write: none while it meets a burst, a suspended partition, a link that is down or a full post queue. A failure at its home
ends the command FAULTED, as an engine operation, and what is not written is undefined (R290, R311). -/
def State.runBget (s : State) (g c : Nat) (b : BankCmd) (dst : Word) : Option State :=
  let bs := beadBytes (s.getPch g c)
  let ports := s.getPorts b dst
  let q := ReqId.bank g c
  if !ports.all (fun k => s.serves k.1 k.2 (bankSrc g c) q false) then none
  else
    let s0 := ports.foldl (fun t k => t.dropTicket k.1 q) s
    match s.localSpot b.src b.part dst with
    | some (core, a) =>
      if isCore core then (s0.writeScratch b.part b.lid core a bs).map (fun t => t.dropCmd g c b)
      else some ((s0.writeBytes (fun i => sramKey (core - 2048) (a + i)) bs).dropCmd g c b)
    | none =>
      if !(s.rangeSites b.part dst 256).all (s.homeUp b.part) then none
      else match s0.writeGlobal b.part b.lid dst bs with
        | none => none
        | some (t, none) => some (t.dropCmd g c b)
        | some (t, some e) =>
          let rest := (List.range 4).filterMap (fun i =>
            if 64 * i < e.done then none else some (dst + BitVec.ofNat 64 (64 * i), 8 * (dst.toNat + 64 * i), 512))
          (t.openElems b.part b.lid 0 rest).map (fun t0 =>
            let t1 := t0.failCmd g c b e.f.cause e.f.sub e.addr 0
            let x := t1.getUnit b.src
            t1.setUnit b.src { x with eng := { x.eng with efault := true } })
/-- BCAST and BGET at the head of a queue complete at once, if they can. -/
def State.settleCmds : Nat → State → Nat → Nat → State
  | 0, s, _, _ => s
  | n + 1, s, g, c =>
    match (s.getPch g c).cmds with
    | [] => s
    | b :: _ =>
      match b.kind with
      | .bcast full xoff bytes =>
        let h := s.getPch g c
        State.settleCmds n ((s.setPch g c { h with x := castX full xoff bytes h.x }).dropCmd g c b) g c
      | .bget dst => match s.runBget g c b dst with
        | some t => State.settleCmds n t g c
        | none => s
      | _ => s
def State.settled (s : State) (g c : Nat) : State := State.settleCmds ((s.getPch g c).cmds.length + 1) s g c
/-- A command is accepted, and completes at once when it can. -/
def State.takeCmd (s : State) (g c : Nat) (k : BankKind) (frames : List Site := []) (dframes : List Site := []) : State :=
  (s.acceptCmd g c k frames dframes).settled g c

def execBcast (rs2 rs1 : Reg) (s : State) : Out :=
  let a := s.x rs1
  let v := s.x rs2
  match s.bankNode a with
  | some e => raise s e.1 e.2
  | none =>
    let full := v.msb
    let xoff := (v.extractLsb' 46 5).toNat
    let len := (v.extractLsb' 36 10).toNat
    let src := (v.extractLsb' 0 19).setWidth 64
    let bad := v.extractLsb' 51 12 != 0#12 || v.extractLsb' 19 17 != 0#17 || len == 0 || decide (len > 512)
      || (if full then decide (xoff + len > 32) else len % 16 != 0 || decide (xoff + len / 16 > 32))
    if bad then bankIllegal s 0x0B
    else match s.localOperand src 32 (32 * len) with
      | some e => raise s e.1 e.2
      | none =>
        if s.bankHeld a then .next s
        else match s.bankPlace a .any with
        | .error e => raisePlace e
        | .ok (g, c, _, s) =>
          if s.localPending src.toNat (32 * len) then .next s
          else if !s.holds s.focus g c then bankIllegal s 0x0A
          else .next (s.takeCmd g c (.bcast full xoff (s.localBytes src.toNat (32 * len)))).retire
/-- The checks of BGET's destination at the core, in its 64-byte pieces: its class, then range lock and bank (R305, R311). -/
def State.getDest (s : State) (d : Word) : Option Cause :=
  let pieces := (List.range 4).map (fun i => d + BitVec.ofNat 64 (64 * i))
  if d.toNat % 64 ≠ 0 then some (1, d)
  else (pieces.findSome? (fun b => match s.resolve b 64 .w with
      | .error e => some e
      | .ok (.mmio _) => some (2, b)
      | .ok _ => none)).or
    (pieces.findSome? (fun b => match s.access b 64 .w with
      | .error e => some e
      | .ok (.scratch core a) => if s.isState core a then some (0x18, bankBase b) else none
      | .ok _ => none))
def execBget (rs2 rs1 : Reg) (s : State) : Out :=
  let a := s.x rs1
  match s.bankNode a with
  | some e => raise s e.1 e.2
  | none => match s.getDest (s.x rs2) with
    | some e => raise s e.1 e.2
    | none =>
      if s.bankHeld a then .next s
      else match s.bankPlace a .any with
      | .error e => raisePlace e
      | .ok (g, c, _, s) =>
        if !s.holds s.focus g c then bankIllegal s 0x0A
        else .next (s.takeCmd g c (.bget (s.x rs2))).retire
/-- BSTAT (R312). -/
def execBstat (rd rs1 : Reg) (s : State) : Out :=
  let a := s.x rs1
  match s.bankNode a with
  | some e => raise s e.1 e.2
  | none =>
    if s.bankHeld a then .next s
    else match s.bankPlace a .any with
    | .error e => raisePlace e
    | .ok (g, c, _, s) =>
      let h := s.getPch g c
      let out := min 255 (h.cmds.filter (·.held)).length
      .next (s.done 1 rd (BitVec.ofNat 64 (h.retries.toNat * 2 ^ 32 + (s.getStack g).cap % 256 * 2 ^ 24 + s.activePchs g * 2 ^ 16 + out * 2 ^ 8
        + (if h.fault then 8 else 0) + (if s.holds s.focus g c then 4 else 0) + (if h.allbank then 1 else 0))))

-- BMV (R308-R310)

/-- A descriptor's first doubleword is well formed (R308). -/
def bmvWord (d0 d1 d2 d3 : Word) (sc : Bool) : Bool :=
  let wfmt := (d0.extractLsb' 32 2).toNat
  let n := (d0.extractLsb' 16 7).toNat
  d0.extractLsb' 48 16 == 0#16 && d0.extractLsb' 38 2 == 0#2 && d0.extractLsb' 34 2 != 3#2 && d0.extractLsb' 23 9 == 0#9
    && d0.extractLsb' 10 6 == 0#6 && d0.extractLsb' 0 5 == 0#5 && decide (1 ≤ n) && decide (n ≤ 64)
    && d2.extractLsb' 8 56 == 0#56 && !d2.getLsbD 6 && d3 == 0 && !(sc && d2.getLsbD 7) && (decide (wfmt < 2) || d1 == 0)
/-- Elements of a matrix row of r bytes (R308). -/
def rowElems (wfmt r : Nat) : Nat := if wfmt < 2 then 2 * r else if wfmt = 2 then r else r / 2
def aBytes (afmt : Nat) : Nat := if afmt = 0 then 2 else 1
/-- Row bytes of a KBLOCK16 page, and the offset in its page of a site; none for another layout, or behind a STATE leaf (R299, R376). -/
def kblock (t : Site) : Option (Nat × Nat) := if lfLayout t.leaf = 1 ∧ !t.noFill then some (512 * 2 ^ lfRb t.leaf, t.off % 2 ^ t.z) else none
/-- n rows from a site on lie in its KBLOCK16 page, whose rows have r bytes. -/
def rowsFit (t : Site) (r n : Nat) : Bool :=
  match kblock t with
  | some (k, o) => k == r && o % r == 0 && decide (o + n * r ≤ 2 ^ t.z)
  | none => false
/-- The matrix and X fit (R308). -/
def bmvFits (t : Site) (wfmt afmt n xoff : Nat) (xmode : Bool) : Bool :=
  match kblock t with
  | none => false
  | some (r, _) =>
    let k := rowElems wfmt r
    rowsFit t r n && decide (xoff * 32 + (if xmode then k else k / 16) * aBytes afmt ≤ 1024) && (decide (wfmt ≥ 2) || decide (k / 256 ≤ 64))
/-- The delta plane's address has a node of the place table, looked up at the issuing unit (R17, R305); another class of address is an
invalid operand. -/
def State.dplaneCheck (s : State) (wfmt : Nat) (d1 : Word) : Option Cause :=
  if wfmt ≥ 2 then none
  else match classify (isSc s.focus) d1 with
    | .global node off => if (s.home s.cur.part node off).isSome then none else some (5, BitVec.ofNat 64 node)
    | _ => some (0x13, 0x0C)
/-- The home translates the delta plane (R308): none without one; no site where its node is no stack. -/
def State.dplanePlace (s : State) (wfmt : Nat) (d1 : Word) : Except (TFail × Word × State) (Option (Option Site) × State) :=
  if wfmt ≥ 2 then .ok (none, s)
  else match classify (isSc s.focus) d1 with
    | .global node off =>
      if !(isStackNode node || isStripeNode node) then .ok (some none, s)
      else (match s.translate s.cur.part node off 1 .r with
        | .error f => .error (f, failTval f node d1, s.noteFail s.focus f node off d1 (if isSc s.focus then 1 else 0))
        | .ok t => .ok (some (some t), s.fill s.cur.part node off))
    | _ => .ok (some none, s)
/-- An SV command waits for the firing's stores homed at its cluster (R305). -/
def State.svDrained (s : State) : Bool := s.homeDrained s.focus (unitHome s.focus) (fun f _ => f == s.cur.firing.fid)
def execBmv (rd rs2 rs1 : Reg) (s : State) : Out :=
  let a := s.x rs1
  match s.bankNode a with
  | some e => raise s e.1 e.2
  | none => match s.localOperand (s.x rs2) 32 32 with
    | some e => raise s e.1 e.2
    | none =>
      let bs := s.localBytes (s.x rs2).toNat 32
      let d0 := dwAt bs 0
      let d1 := dwAt bs 8
      let d2 := dwAt bs 16
      let wfmt := (d0.extractLsb' 32 2).toNat
      let afmt := (d0.extractLsb' 34 2).toNat
      let n := (d0.extractLsb' 16 7).toNat
      let xoff := (d0.extractLsb' 5 5).toNat
      let xmode := d0.getLsbD 37
      let sem := if d2.getLsbD 7 then some (d2.extractLsb' 0 6).toNat else none
      if s.localPending (s.x rs2).toNat 32 then .next s
      else if !bmvWord d0 d1 d2 (dwAt bs 24) (isSc s.focus) then bankIllegal s 0x0C
      else match s.dplaneCheck wfmt d1 with
      | some e => raise s e.1 e.2
      | none =>
        if sem.isSome && !s.svDrained || s.bankHeld a || (decide (wfmt < 2) && s.bankHeld d1) then .next s
        -- the home translates the matrix, then the delta plane; its layout checks and its hold check follow (R305, R308)
        else match s.bankPlace a .r with
          | .error e => raisePlace e
          | .ok (g, c, t, s1) => match s1.dplanePlace wfmt d1 with
            | .error e => raisePlace e
            | .ok (plane, s2) =>
              let fits := match plane with
                | none => true
                | some none => false
                | some (some td) => s2.pchOf s.cur.part td == some (g, c) && rowsFit td 512 n
              if !bmvFits t wfmt afmt n xoff xmode || !fits then bankIllegal s2 0x0C
              else if !s2.holds s.focus g c then .next (s2.done 1 rd 1)
              else .next ((s2.takeCmd g c (.bmv a d1 (d0.extractLsb' 40 8).toInt xmode (d0.getLsbD 36) afmt wfmt n xoff sem) [t]
                (plane.bind id).toList).done 1 rd 0)
/-- Weight k of a row (R75, R77, R78, R308). -/
def rowWeight (wfmt : Nat) (row : List Byte) (k : Nat) (scale : Int) : Fp :=
  match wfmt with
  | 2 => unpackE4m3 (row.getD k 0).toNat
  | 3 => unpack 8 7 (natOfBytes ((row.drop (2 * k)).take 2))
  | _ =>
    let nib := (row.getD (k / 2) 0).toNat / 16 ^ (k % 2) % 16
    keptValue wfmt (if wfmt = 1 then nib % 8 else nib) scale
/-- Element o of a Bead's X from byte `base` on. -/
def xElem (h : Pch) (b base afmt o : Nat) : Fp :=
  let v := (List.range (aBytes afmt)).foldl (fun v i => v + (look byte0 h.x (1024 * b + base + o * aBytes afmt + i)).toNat * 256 ^ i) 0
  aValue (afmt + 2) v
/-- The steps of one Bead's slice of a row (R309). -/
def beadSteps (h : Pch) (b e wfmt afmt xoff : Nat) (xmode : Bool) (ebase : Int) (row delta : List Byte) : Nat → Nat → BitVec 32 → BitVec 32
  | 0, _, acc => acc
  | n + 1, j, acc =>
    let sc := ebase - ((delta.getD (32 * b + j / 2) 0).toNat / 16 ^ (j % 2) % 16 : Nat)
    let ps := (List.range 16).map (fun i =>
      let o := 16 * j + i
      mulFp (xElem h b (32 * xoff) afmt (if xmode then b * e + o else o)) (rowWeight wfmt row (b * e + o) sc))
    beadSteps h b e wfmt afmt xoff xmode ebase row delta n (j + 1) (dotStep acc ps)
/-- The running sum after each Bead of the chain. -/
def chain (f : Nat → BitVec 32 → BitVec 32) : Nat → Nat → BitVec 32 → List (BitVec 32)
  | 0, _, _ => []
  | n + 1, b, acc =>
    let r := f b acc
    r :: chain f n (b + 1) r
/-- P of every Bead after n rows of a BMV, read at the frames found before its acceptance (R309). -/
def State.runBmv (s : State) (g c : Nat) (b : BankCmd) (rows : Nat) : SMap (BitVec 32) :=
  let h := s.getPch g c
  match b.kind, b.frames with
  | .bmv _ _ ebase xmode seed afmt wfmt _ xoff _, t :: _ =>
    let r := 512 * 2 ^ lfRb t.leaf
    let e := rowElems wfmt r / 16
    let delta := fun (i : Nat) => match b.dframes with
      | td :: _ => s.readBytes (fun j => s.siteKey b.part td (512 * i + j)) 512
      | [] => []
    (List.range rows).foldl (fun ps i =>
      let row := s.readBytes (fun j => s.siteKey b.part t (i * r + j)) r
      let acc0 := if seed then look lane0 h.p (64 * 15 + i) else 0#32
      let vs := chain (fun k acc => beadSteps h k e wfmt afmt xoff xmode ebase row (delta i) (e / 16) 0 acc) 16 0 acc0
      (vs.mapIdx (fun k v => (k, v))).foldl (fun q kv => put lane0 q (64 * kv.1 + i) kv.2) ps) h.p
  | _, _ => h.p

-- bursts (R302, R303)

/-- A burst may start: none runs, and no ticket of the last one holds it up. -/
def State.mayBurst (s : State) (g c : Nat) : Bool := (s.getPch g c).burst.isNone && !s.windowOpen g c
def State.startBurst (s : State) (g c : Nat) (b : BankCmd) : State := s.setPch g c { s.getPch g c with burst := some (s.now, b.ord) }
/-- The running burst is this command's. -/
def runsBurst (h : Pch) (b : BankCmd) : Bool := match h.burst with
  | some (_, o) => o == b.ord
  | none => false
/-- The burst ends; the window of its tickets opens. -/
def State.endBurst (s : State) (g c : Nat) : State :=
  s.setPch g c { s.getPch g c with burst := none, lastBurst := s.now, window := (s.getStack g).tickets.any (fun t => t.pch == c && !t.clear) }
/-- What waited for the end of a burst on a pseudo-channel: scans of its objects' waiters (R167, R333) and walks of its tables (R321). -/
def State.afterBurst (s : State) (g c : Nat) : State :=
  let s1 := ((((s.waitersOf (4096 + g)).map (·.loc)).filter (fun l => l / 256 % 128 == c)).eraseDups).foldl (fun t l => t.scan (4096 + g) l) s
  (List.range 12).foldl (fun t d => if (t.getDie d).walks.isEmpty then t else t.admitWalks d) s1
/-- A BMV at the head of its queue starts its burst, in ALLBANK alone, or ends it with P written; a BGET that had to wait writes. -/
def execBmvBurst (g pch : Nat) (s : State) : Out :=
  let h := s.getPch g pch
  match h.cmds with
  | [] => idle s
  | b :: _ =>
    match b.kind with
    | .bmv _ _ _ _ _ _ _ rows _ _ =>
      if h.burst.isNone then (if h.allbank && s.mayBurst g pch then .next (s.startBurst g pch b) else idle s)
      else if !runsBurst h b then idle s
      else
        let s1 := s.endBurst g pch
        let s2 := s1.setPch g pch { s1.getPch g pch with p := s.runBmv g pch b rows }
        .next ((((s2.dropCmd g pch b).cmdSem b).settled g pch).afterBurst g pch)
    | _ => .next (s.settled g pch)

-- BEXPR (R313-R316)

/-- One operator on the stack, top first. -/
def evalOp (h : Nat) (x : BitVec 32) (idx : Nat) (op : Nat) (st : List (BitVec 32)) : List (BitVec 32) :=
  let k := fun (i : Nat) => BitVec.ofNat 32 (h / 2 ^ (160 + 32 * i))
  let one : Bool → BitVec 32 := fun b => if b then 0x3F800000#32 else 0#32
  match op, st with
  | 1, s => x :: s
  | 2, s => k 0 :: s
  | 3, s => k 1 :: s
  | 4, s => k 2 :: s
  | 5, s => ofInt32 idx :: s
  | 6, a :: s => a :: a :: s
  | 7, b :: a :: s => a :: b :: s
  | 8, _ :: s => s
  | 9, b :: a :: s => a :: b :: a :: s
  | 0x10, b :: a :: s => fadd a b :: s
  | 0x11, b :: a :: s => fsub a b :: s
  | 0x12, b :: a :: s => fmul a b :: s
  | 0x13, b :: a :: s => fmax a b :: s
  | 0x14, b :: a :: s => fmin a b :: s
  | 0x15, c :: b :: a :: s => fma32 a b c :: s
  | 0x18, a :: s => fneg a :: s
  | 0x19, a :: s => fabs a :: s
  | 0x1A, a :: s => exp2Lane a :: s
  | 0x1B, a :: s => rcpLane a :: s
  | 0x1C, a :: s => rsqLane a :: s
  | 0x1D, a :: s => log2Lane a :: s
  | 0x20, b :: a :: s => one (fcmp .lt a b) :: s
  | 0x21, b :: a :: s => one (fcmp .le a b) :: s
  | 0x22, b :: a :: s => one (fcmp .eq a b) :: s
  | 0x23, c :: b :: a :: s => (if c &&& 0x7FFFFFFF#32 ≠ 0#32 then a else b) :: s
  | _, s => s
/-- The handler's value for an element (R316). -/
def evalHandler (h : Nat) (x : BitVec 32) (idx : Nat) : BitVec 32 :=
  (((List.range (hNops h)).map (hOp h)).foldl (fun st op => evalOp h x idx op st) []).headD 0
/-- An element decoded for LDX (R85, R315). -/
def bexprDecode (fmt : Nat) (v : BitVec 32) : BitVec 32 :=
  if fmt = 5 ∨ fmt = 6 then ofInt32 (widenElem fmt v).toInt else widenElem fmt v
/-- ENC (R316). -/
def bexprEncode (fmt : Nat) (sat : Bool) (v : BitVec 32) : BitVec 32 :=
  match fmt with
  | 5 => BitVec.ofInt 32 (cvtInt (-128) 127 v)
  | 6 => BitVec.ofInt 32 (cvtInt (-2147483648) 2147483647 v)
  | _ => narrowElem fmt sat v
/-- Bytes of an element of a handler's format; an entry never written has no format (log 81). -/
def bexprSize (fmt : Nat) : Nat := if fmt = 0 then 0 else fmtBits fmt / 8
/-- The sites of a range from its first byte on, one per 4 KiB; none when a page does not translate, has the STATE layout or is not in a
stack. -/
def State.framesOf (s : State) (p node off n : Nat) (need : Need) : Option (List Site) :=
  (List.range ((off % 4096 + n + 4095) / 4096)).mapM (fun i =>
    match s.translate p node (if i = 0 then off else off / 4096 * 4096 + 4096 * i) 1 need with
    | .ok t => if t.noFill || (s.pchOf p t).isNone then none else some t
    | .error _ => none)
/-- The state after the walks of a range's pages. -/
def State.fillRange (s : State) (p node off n : Nat) : State :=
  (List.range ((off % 4096 + n + 4095) / 4096)).foldl (fun t i => t.fill p node (if i = 0 then off else off / 4096 * 4096 + 4096 * i)) s
def hReplies (h : Nat) : Bool := hMode h == 2
/-- A BEXPR whose entry is not installed: its semaphore or its reply carries the error (R316). -/
def State.notInstalled (s : State) (rd : Reg) (a : Word) (sem : Option Nat) (replies : Bool) : Out :=
  let p := s.cur.part
  let s1 := match sem with
    | some n =>
      let d0 := BitVec.ofNat 64 (0x13 + 0x0E * 2 ^ 8 + 0x83 * 2 ^ 16 + s.cidOf p s.focus * 2 ^ 24)
      s.semFail p (s.focus / 16) n (s.coreIndex p s.focus) d0 0 a 0
    | none => s
  if !replies then .next (s1.done 1 rd 0)
  else match freeSlot s1.cur with
    | none => raise s 7 0
    | some k =>
      let s2 := { s1 with cur := allocSlot s1.cur k s1.atime.toNat }
      let r : ReplyMsg := { dst := s.focus, part := p, node := s.originNode p s.focus, ounit := s.cidOf p s.focus, slot := k,
                            gen := (look slot0 s2.cur.slots k).gen.toNat, status := 1, pay := [0x13, 0x0E, 0, 0, 0, 0] }
      .next (State.done { s2 with replies := s2.replies ++ [r] } 1 rd (BitVec.ofNat 64 k))
def execBexpr (rd rs2 rs1 : Reg) (s : State) : Out :=
  let a := s.x rs1
  let v := s.x rs2
  let p := s.cur.part
  match s.bankNode a with
  | some e => raise s e.1 e.2
  | none =>
    let sv := v.getLsbD 55
    let sem := if sv then some (v.extractLsb' 48 6).toNat else none
    let hw := s.handler p (v.extractLsb' 40 6).toNat
    let h := handlerNat hw
    let count := (v.extractLsb' 0 32).toNat
    let size := bexprSize (hFmt h)
    let span := max 1 (count * size)
    let node := a.toNat / 2 ^ 48 % 256
    let off := a.toNat % 2 ^ 48
    let need : Need := if hReplies h then .r else .rw
    let bad := v.extractLsb' 56 8 != 0#8 || v.getLsbD 54 || v.extractLsb' 46 2 != 0#2 || v.extractLsb' 32 8 != 0#8 || count == 0
      || (sv && isSc s.focus) || a.toNat % max 1 size != 0 || decide (off + span > 2 ^ 48)
    if bad then bankIllegal s 0x0D
    else if hReplies h && (freeSlot s.cur).isNone then raise s 7 0
    else if sv && !s.svDrained || s.rangeWalks p a span then .next s
    else match s.bankPlace a need with
      | .error e => raisePlace e
      | .ok (g, c, _, s1) => let s := s1.fillRange p node off span; match s.framesOf p node off span need with
        | none => bankIllegal s 0x0D
        | some frames =>
          if !hInst h then s.notInstalled rd a sem (hReplies h)
          else if hReplies h then
            match freeSlot s.cur with
            | none => raise s 7 0
            | some k =>
              let s1 := { s with cur := allocSlot s.cur k s.atime.toNat }
              .next ((s1.takeCmd g c (.bexpr a count hw (some (k, (look slot0 s1.cur.slots k).gen.toNat)) sem 0 0) frames).done 1 rd (BitVec.ofNat 64 k))
          else .next ((s.takeCmd g c (.bexpr a count hw none sem 0 0) frames).done 1 rd 0)

/-- The site of an offset of a command's range. -/
def BankCmd.siteAt (b : BankCmd) (first off : Nat) : Option Site :=
  (b.frames[off / 4096 - first / 4096]?).map (fun t => { t with off := t.off / 4096 * 4096 + off % 4096 })
/-- Bytes from an offset of a command's range on, at site t, whose 4 KiB units follow one another in one frame (R316). -/
def BankCmd.runAt (b : BankCmd) (first off : Nat) (t : Site) : Nat :=
  let i := off / 4096 - first / 4096
  let n := ((List.range 16).takeWhile (fun k => match b.frames[i + k + 1]? with
    | some f => f.home == t.home && f.node == t.node && f.leaf == t.leaf && f.z == t.z && f.off / 4096 == t.off / 4096 + k + 1
    | none => false)).length
  4096 - off % 4096 + 4096 * n
/-- The next piece of a BEXPR: its site and elements; consecutive elements in one pseudo-channel and one page, at most 64 KiB. -/
def pieceOf (b : BankCmd) : Option (Site × Nat) :=
  match b.kind with
  | .bexpr addr count hw _ _ next _ =>
    let size := max 1 (bexprSize (hFmt (handlerNat hw)))
    let first := addr.toNat % 2 ^ 48
    (b.siteAt first (first + next * size)).map (fun t =>
      let room := if lfPlace t.leaf then min (min 65536 (2 ^ t.z - t.off % 2 ^ t.z)) (b.runAt first (first + next * size) t) else 256 - t.off % 256
      (t, min (count - next) (room / size)))
  | _ => none
/-- The heads of all queues: stack, pseudo-channel, command. -/
def State.headCmds (s : State) : List (Nat × Nat × BankCmd) :=
  (List.range 8).flatMap (fun g => (s.getStack g).pch.filterMap (fun kv => kv.2.cmds.head?.map (fun b => (g, kv.1, b))))
/-- Where the next piece of a command lies. -/
def State.piecePch (s : State) (b : BankCmd) : Option (Nat × Nat) :=
  (pieceOf b).bind (fun x => s.pchOf b.part x.1)
/-- The oldest BEXPR whose next piece lies in a pseudo-channel with no burst, or the one whose piece runs there. -/
def State.pieceFor (s : State) (g c : Nat) : Option (Nat × Nat × BankCmd) :=
  match (s.getPch g c).burst with
  | some (_, o) => s.headCmds.find? (fun x => x.2.2.ord == o && (pieceOf x.2.2).isSome)
  | none => (s.headCmds.filter (fun x => s.piecePch x.2.2 == some (g, c))).foldl (fun m x => match m with
    | none => some x
    | some y => if x.2.2.ord < y.2.2.ord then some x else some y) none
/-- An earlier BEXPR waits for a piece on a NORMAL pseudo-channel of stack g (R302). -/
def State.earlierPiece (s : State) (g : Nat) (b : BankCmd) : Bool :=
  s.headCmds.any (fun x => decide (x.2.2.ord < b.ord) && (match s.piecePch x.2.2 with
    | some (g1, c1) => g1 == g && !(s.getPch g1 c1).allbank && (s.getPch g1 c1).burst.isNone
    | none => false))
/-- One element of a piece: the stored bytes (none without a write) and the value. -/
def bexprElem (h : Nat) (idx : Nat) (v : BitVec 32) : Option Nat × BitVec 32 :=
  let x := bexprDecode (hFmt h) v
  let r := evalHandler h x idx
  match hMode h with
  | 0 => (some (bexprEncode (hFmt h) (hSat h) r).toNat, r)
  | 1 => (some (bexprEncode (hFmt h) (hSat h) (add32 x r)).toNat, r)
  | _ => (none, r)
/-- The command with its piece done. -/
def BankCmd.advance (b : BankCmd) (k : Nat) (t : BitVec 32) : BankCmd :=
  match b.kind with
  | .bexpr a n h r s next _ => { b with kind := .bexpr a n h r s (next + k) t }
  | _ => b
def State.putCmd (s : State) (g c : Nat) (b : BankCmd) : State :=
  s.setPch g c { s.getPch g c with cmds := (s.getPch g c).cmds.map (fun x => if x.ord = b.ord then b else x) }
/-- Evaluates a piece; `keep` says which of its elements are written. None while a post must wait. -/
def State.runPiece (s : State) (b : BankCmd) (t : Site) (k : Nat) (keep : Nat → Bool) : Option (State × BankCmd) :=
  match b.kind with
  | .bexpr _ _ hw _ _ next total =>
    let h := handlerNat hw
    let size := bexprSize (hFmt h)
    let bytes := (s.readSite b.part t (k * size)).1
    let rs := (wordsOfBytes size k bytes).mapIdx (fun i v => bexprElem h (next + i) (BitVec.ofNat 32 v))
    let tot := rs.foldl (fun t r => add32 t r.2) total
    let out := (rs.mapIdx (fun i r => match r.1 with
      | some w => if keep i then bytesOfNat size w else (bytes.drop (i * size)).take size
      | none => [])).flatten
    (if out.isEmpty then some s else s.writeSite b.part b.lid t out).map (fun u => (u, b.advance k tot))
  | _ => some (s, b)
/-- All of a BEXPR is done: completion, and the reply (R316). -/
def State.finishBexpr (s : State) (g c : Nat) (b : BankCmd) : State :=
  match b.kind with
  | .bexpr _ count _ _ _ _ total => ((s.dropCmd g c b).cmdSem b).cmdReply b 0 (total.setWidth 64) (BitVec.ofNat 64 count)
  | _ => s
def bexprDone (b : BankCmd) : Bool :=
  match b.kind with
  | .bexpr _ count _ _ _ next _ => decide (next ≥ count)
  | _ => false
/-- A piece of a BEXPR in a pseudo-channel starts its burst, or ends it. -/
def execBexprPiece (g pch : Nat) (s : State) : Out :=
  match s.pieceFor g pch with
  | none => idle s
  | some (g0, c0, b) => match pieceOf b with
    | none => idle s
    | some (t, k) =>
      let h := s.getPch g pch
      if h.burst.isNone then
        (if s.mayBurst g pch && (h.allbank || (s.belowCap g && !s.earlierPiece g b)) then .next (s.startBurst g pch b) else idle s)
      else match (s.endBurst g pch).runPiece b t k (fun _ => true) with
        | none => idle s
        | some r =>
          let s1 := r.1.putCmd g0 c0 r.2
          .next ((if bexprDone r.2 then (s1.finishBexpr g0 c0 r.2).settled g0 c0 else s1).afterBurst g pch)
/-- The running piece of a BEXPR faults: a free choice says which of its elements were written. None while a post must wait. -/
def State.faultPiece (s : State) (g pch : Nat) (x : Nat × Nat × BankCmd) : Option State :=
  let b := x.2.2
  let hit : Option State := match pieceOf b with
    | some (t, k) => (s.runPiece b t k (fun i => (Config.freeByte (s.free + i)).getLsbD 0)).map (fun (r : State × BankCmd) => { r.1 with free := r.1.free + k })
    | none => some s
  hit.map (fun s1 =>
    let s2 := s1.setPch g pch { s1.getPch g pch with fault := true }
    (s2.failCmd x.1 x.2.1 b 0x22 0 (cmdAddr b.kind) 0).settled x.1 x.2.1)
/-- A Bead meets an uncorrectable error in the running burst of a pseudo-channel (R317). -/
def execBeadFault (g pch progress : Nat) (s : State) : Out :=
  let h := s.getPch g pch
  match s.headCmds.find? (fun x => runsBurst h x.2.2) with
  | none => idle s
  | some x =>
    let b := x.2.2
    let s0 := (s.endBurst g pch).countLife 0x258 1
    match b.kind with
    | .bmv _ _ _ _ _ _ _ rows _ _ =>
      let n := min progress rows
      let p := s.runBmv g pch b n
      -- rows below `progress` of Bead 15 are valid, every other P is a free value
      let q := (List.range 1024).foldl (fun m k =>
        put lane0 m k (if k / 64 = 15 ∧ k % 64 < n then look lane0 p k else (Config.freeWord (s0.free + k)).setWidth 32)) []
      let s1 := State.setPch { s0 with free := s0.free + 1024 } g pch { s0.getPch g pch with p := q }
      .next (((s1.failCmd g pch b 0x22 0 (cmdAddr b.kind) n).settled g pch).afterBurst g pch)
    | _ => match s0.faultPiece g pch x with
      | some t => .next (t.afterBurst g pch)
      | none => idle s

-- RETRY and tickets (R303, R364)

/-- The ports of a unit's address, global or of its own cluster's scratchpads. -/
def State.addrPorts (s : State) (u p : Nat) (a : Word) (n : Nat) : List (Nat × Nat) :=
  match s.localSpot u p a with
  | some (core, _) => if isCore core then [(8192 + core / 16, 16 * p + core % 16)] else []
  | none => if isGlobAddr a then s.rangePorts p a n else []
/-- The request an id names, while it is outstanding: the ports that serve it, its source, and whether it is an untimed store, a posted
atomic or a release. For an engine it is the next element of its head; the passes of SWREG take no tickets (R333). A number that
is no unit names the release of a reduction engine or of the dispatcher. -/
def State.request (s : State) : ReqId → Option (List (Nat × Nat) × Nat × Bool)
  | .load u =>
    let x := s.getUnit u
    (match x.wait with
    | .load a n _ => some (s.addrPorts u x.part a n, u, false)
    | _ => none)
  | .store u j =>
    let e := s.entry u j
    if e.st = .issued ∧ !e.timed ∧ (e.stage = .toHome ∨ e.stage = .atHome) then some (s.addrPorts u e.part e.addr 1, u, true) else none
  | .atomic u =>
    let x := s.getUnit u
    (match x.wait with
    | .acquire _ a _ | .law a => some (s.addrPorts u x.part a 1, u, false)
    | .parked a => if (s.acquireIn u).any (fun q => q.2.isNone) then some (s.addrPorts u x.part a 1, u, false) else none
    | .atomic r => some (s.addrPorts u r.part r.addr 1, u, false)
    | _ => (engines.findSome? (fun e => (s.reqsOf e).find? (fun r => r.src == u && !isUnit u))).map (fun r => (s.addrPorts 0 r.part r.addr 1, u, false)))
  | .engine e =>
    (match e, s.engineHead e with
    | .swreg _, _ | _, none => none
    | _, some o => if o.fail.isSome then none else some (((headRanges o).flatMap (fun r => s.rangePorts o.part r.1 r.2)), engineSrc e, false))
  | .bank g c =>
    (match (s.getPch g c).cmds with
    | b :: _ => (match b.kind with
      | .bget dst => some (s.getPorts b dst, bankSrc g c, false)
      | _ => none)
    | [] => none)
/-- A journal entry sent earlier to the same home, still under way without a ticket, arrives before this request (R153). -/
def State.overtakes (s : State) (k : Nat) : ReqId → Bool
  | .store u j =>
    let e := s.entry u j
    (s.getUnit u).journal.any (fun kv =>
      let o := kv.2
      o.st == .issued && o.stage == .toHome && !o.timed && decide (o.sent < e.sent) && s.entryKey u o == s.entryKey u e
        && (s.ticketOf k (.store u kv.1)).isNone)
  | _ => false
/-- Port k answers a request with RETRY and its ticket. -/
def State.retry (s : State) (k c src : Nat) (r : ReqId) : State :=
  let h := s.getPch k c
  let s1 := if k < 8192 && h.allbank && h.retries != 0xFFFF#16 then s.setPch k c { h with retries := h.retries + 1 } else s
  if (s.ticketOf k r).isSome then s1.resendTicket k r else s1.takeTicket k c src r
/-- A request that meets a burst or a suspended partition, or follows a ticketed one, is answered with RETRY. -/
def execBankRetry (r : ReqId) (s : State) : Out :=
  match s.request r with
  | none => idle s
  | some (ports, src, posted) =>
    match ports.find? (fun k => s.retries k.1 k.2 src r posted && ((s.ticketOf k.1 r).isSome || !s.overtakes k.1 r)) with
    | none => idle s
    | some k => .next (s.retry k.1 k.2 src r)
/-- The k-th ticket of port g is re-sent, 256 ticks after its RETRY; one whose request is gone is dropped. -/
def execRetryResend (g k : Nat) (s : State) : Out :=
  let ts := s.ticketsAt g
  match ts[k]? with
  | none => idle s
  | some t =>
    if !(s.request t.req).any (fun q => q.1.contains (g, t.pch)) then .next (s.setTickets g (ts.eraseIdx k))
    else if t.back ∨ s.now < t.sent + 256 then idle s
    else .next (s.setTickets g (ts.set k { t with back := true }))
/-- 4,096 ticks after a burst, or after the partition of a cluster's core has resumed, the window of its port ends; tickets left are
served as new arrivals (R303, R364). -/
def execBurstTicketWindowEnd (g pch : Nat) (s : State) : Out :=
  let clear := fun (t : State) => t.setTickets g ((t.ticketsAt g).map (fun t => if t.pch = pch then { t with clear := true } else t))
  if g < 8192 then
    (let h := s.getPch g pch
    if !h.window ∨ s.now < h.lastBurst + 4096 then idle s else .next (clear (s.setPch g pch { h with window := false })))
  else if s.suspended (pch / 16) ∨ s.now < (s.getPart (pch / 16)).resumed + 4096 then idle s
  else .next (clear s)

end Sys2Proof.Machine
end

