-- ==== Sys2Proof/Machine/Csr.lean ====
section
/-! DEFINITION. CSR instructions (R28, R48, R88, R95-R97, R101, R108, R109). -/

namespace Sys2Proof.Machine

/-- mreply (R97), with the slots as they stand. -/
def State.mreply (s : State) : Word :=
  let bits := fun (f : Slot → Bool) => (List.range 16).foldl (fun n k => n + (if f (s.slotNow s.focus k) then 2 ^ k else 0)) 0
  BitVec.ofNat 64 (s.cur.late.toNat * 2 ^ 32 + bits (fun x => x.st == .ready) * 2 ^ 16 + bits (fun x => x.st != .free))
/-- cid (R95, R323). -/
def State.cid (s : State) : Word :=
  if isSc s.focus then
    BitVec.ofNat 64 (2 ^ 63 + (s.logStack s.cur.part (stackOf s.focus)).getD 0 * 32 + (s.focus - 2048) % 32)
  else BitVec.ofNat 64 (s.cidOf s.cur.part s.focus)
/-- The value of a CSR for the unit in focus; none when the access is refused (R48, R109). -/
def State.csrRead (s : State) (n : Nat) : Option Word :=
  let u := s.cur
  let sc := isSc s.focus
  let sup := fun (w : Word) => if sc || u.priv == .u then none else some w
  match n with
  | 0xCC0 => some s.atime
  | 0xCC1 => if sc then none else some u.firing.wid
  | 0xCC2 => some s.cid
  | 0xCC3 => some (BitVec.ofNat 64 u.firing.lid)
  | 0xCC4 => some u.firing.stage
  | 0xCC5 => if sc then none else some (BitVec.ofNat 64 u.fduty)
  | 0xCC6 => some s.mreply
  | 0x800 => some u.lp0.start
  | 0x801 => some u.lp0.last
  | 0x802 => some u.lp0.count
  | 0x803 => some u.lp1.start
  | 0x804 => some u.lp1.last
  | 0x805 => some u.lp1.count
  | 0x806 => some u.rcto
  | 0x807 => some u.rctl
  | 0x5C0 => sup (u.t.tstatus ||| s.pendBit)
  | 0x5C1 => sup u.t.tvec
  | 0x5C2 => sup u.t.tpc
  | 0x5C3 => sup u.t.tcause
  | 0x5C4 => sup u.t.tval
  | 0x5C5 => sup u.t.tjidx
  | 0x5C6 => sup u.t.tinst
  | 0x5C7 => sup u.t.tscratch
  | _ => if 0x880 ≤ n ∧ n ≤ 0x8FF ∧ !sc then some (look word0 u.bfmt (n - 0x880)) else none

/-- What a CSR write does. -/
inductive CsrWrite
  | ok (u : Unit)
  | refused
  | loopFault
/-- Making lp1 active needs lp0 active around it; making lp0 active needs lp1 inactive (R101). -/
def nestOk0 (u : Unit) : Bool := u.lp1.count == 0
def nestOk1 (u : Unit) (start last : Word) : Bool :=
  u.lp0.count != 0 && decide (u.lp0.start.toNat ≤ start.toNat) && decide (last.toNat ≤ u.lp0.last.toNat)
/-- Writes v to a CSR that csrRead reads. -/
def csrWrite (u : Unit) (n : Nat) (v : Word) : CsrWrite :=
  match n with
  | 0x800 => .ok { u with lp0 := { u.lp0 with start := v } }
  | 0x801 => .ok { u with lp0 := { u.lp0 with last := v } }
  | 0x802 => if v = 0 ∨ nestOk0 u then .ok { u with lp0 := { u.lp0 with count := v } } else .loopFault
  | 0x803 => .ok { u with lp1 := { u.lp1 with start := v } }
  | 0x804 => .ok { u with lp1 := { u.lp1 with last := v } }
  | 0x805 => if v = 0 ∨ nestOk1 u u.lp1.start u.lp1.last then .ok { u with lp1 := { u.lp1 with count := v } } else .loopFault
  | 0x806 => if v.extractLsb' 40 24 = 0#24 then .ok { u with rcto := v } else .refused
  | 0x807 => if v.extractLsb' 1 63 = 0#63 then .ok { u with rctl := v } else .refused
  | 0x5C0 =>
    if v &&& 0xFFFFFFFFFFFFFCF8#64 ≠ 0 ∨ v &&& 0x300#64 = 0x300 ∨ v.getLsbD 1 then .refused
    else .ok { u with t := { u.t with tstatus := v &&& 0x301#64 } }
  | 0x5C1 => .ok { u with t := { u.t with tvec := alignPc v } }
  | 0x5C2 => .ok { u with t := { u.t with tpc := v } }
  | 0x5C3 => .ok { u with t := { u.t with tcause := v } }
  | 0x5C4 => .ok { u with t := { u.t with tval := v } }
  | 0x5C5 => .ok { u with t := { u.t with tjidx := v } }
  | 0x5C6 => .ok { u with t := { u.t with tinst := v } }
  | 0x5C7 => .ok { u with t := { u.t with tscratch := v } }
  | _ =>
    if 0x880 ≤ n ∧ n ≤ 0x8FF ∧ (v.extractLsb' 0 4).toNat ≤ 8 ∧ v.extractLsb' 5 59 = 0#59 then
      .ok { u with bfmt := put word0 u.bfmt (n - 0x880) v }
    else .refused

/-- The CSR instruction that a form, a CSR and operands make. -/
def csrInstr (f : CsrOp) (rd src : Reg) (csr : BitVec 12) : Instr :=
  match f with
  | .rw => .csrrw rd src csr
  | .rs => .csrrs rd src csr
  | .rc => .csrrc rd src csr
  | .rwi => .csrrwi rd src.val csr
  | .rsi => .csrrsi rd src.val csr
  | .rci => .csrrci rd src.val csr
/-- Does the form write the CSR (R28)? -/
def csrWrites (f : CsrOp) (src : Reg) : Bool :=
  match f with
  | .rw | .rwi => true
  | _ => src != 0
def csrNew (f : CsrOp) (old op : Word) : Word :=
  match f with
  | .rw | .rwi => op
  | .rs | .rsi => old ||| op
  | .rc | .rci => old &&& ~~~op
def State.csrOperand (s : State) (f : CsrOp) (src : Reg) : Word :=
  match f with
  | .rw | .rs | .rc => s.x src
  | _ => BitVec.ofNat 64 src.val
/-- A write of bfmt removes the swap-out records over its bank (R230). -/
def State.afterCsr (s : State) (n : Nat) (t : State) : State :=
  if 0x880 ≤ n ∧ n ≤ 0x8FF then t.dropSwaps s.focus s.cur.part (s.geq s.cur.part s.focus ((n - 0x880) * 4096)).toNat 4096 else t
/-- Every CSR instruction. -/
def csrExec (f : CsrOp) (rd src : Reg) (csr : BitVec 12) (s : State) : Out :=
  let w := firstWord (csrInstr f rd src csr)
  let n := csr.toNat
  match s.csrRead n with
  | none => illegal s 5 w
  | some old =>
    if csrWrites f src then
      (if 0xCC0 ≤ n then illegal s 5 w
      else match csrWrite s.cur n (csrNew f old (s.csrOperand f src)) with
        | .refused => illegal s 5 w
        | .loopFault => raise s 0x17 3
        | .ok u => .next (State.done (s.afterCsr n { s with cur := u }) 1 rd old))
    else .next (s.done 1 rd old)

def execCsrrw (rd rs1 : Reg) (csr : BitVec 12) (s : State) : Out := csrExec .rw rd rs1 csr s
def execCsrrs (rd rs1 : Reg) (csr : BitVec 12) (s : State) : Out := csrExec .rs rd rs1 csr s
def execCsrrc (rd rs1 : Reg) (csr : BitVec 12) (s : State) : Out := csrExec .rc rd rs1 csr s
def execCsrrwi (rd : Reg) (uimm : BitVec 5) (csr : BitVec 12) (s : State) : Out := csrExec .rwi rd uimm.toFin csr s
def execCsrrsi (rd : Reg) (uimm : BitVec 5) (csr : BitVec 12) (s : State) : Out := csrExec .rsi rd uimm.toFin csr s
def execCsrrci (rd : Reg) (uimm : BitVec 5) (csr : BitVec 12) (s : State) : Out := csrExec .rci rd uimm.toFin csr s
/-- A CSR instruction naming bfmt b (R88). -/
def execBfmtWrite (f : CsrOp) (b : Fin 128) (rd src : Reg) (s : State) : Out := csrExec f rd src (BitVec.ofNat 12 (0x880 + b.val)) s
/-- A CSR instruction naming tstatus (R108). -/
def execTstatusWrite (f : CsrOp) (rd src : Reg) (s : State) : Out := csrExec f rd src 0x5C0#12 s
/-- A CSR instruction naming a loop CSR (R101). -/
def execLoopCsrWrite (f : CsrOp) (k : Fin 6) (rd src : Reg) (s : State) : Out := csrExec f rd src (BitVec.ofNat 12 (0x800 + k.val)) s
/-- A CSR instruction naming rcto or rctl (R97). -/
def execReplyCsrWrite (f : CsrOp) (k : Fin 2) (rd src : Reg) (s : State) : Out := csrExec f rd src (BitVec.ofNat 12 (0x806 + k.val)) s

end Sys2Proof.Machine
end

