-- ==== Sys2Proof/Machine/Dispatcher.lean ====
section
/-! DEFINITION. The dispatch engine and the cluster stage schedulers (spec 21_dispatch R337-R348; phases R351; firing entry R96, R99,
R133, R136, R324): records, batches, residency, firings, watchdogs and completion. -/

namespace Sys2Proof.Machine

-- launch records (R337-R340)

/-- Doubleword k of a record. -/
def recDw (bs : List Byte) (k : Nat) : Nat := natOfBytes ((bs.drop (8 * k)).take 8)
/-- Bits lo+n-1 : lo of a number. -/
def field (v lo n : Nat) : Nat := v / 2 ^ lo % 2 ^ n
/-- The length R337 gives a record of n ranges. -/
def recLen (n : Nat) : Nat := (0x200 + 16 * n + 63) / 64 * 64
def recNrange (bs : List Byte) : Nat := field (recDw bs 0) 32 8
def recNqueue (bs : List Byte) : Nat := field (recDw bs 0) 24 5
def recNstage (bs : List Byte) : Nat := field (recDw bs 0) 16 4
def recNfield (bs : List Byte) : Nat := field (recDw bs 0) 8 3
def recStage (bs : List Byte) (k : Nat) : StageRec := { entry := BitVec.ofNat 64 (recDw bs (16 + 2 * k)), src := recDw bs (17 + 2 * k) % 2 == 1 }
def recQueue (bs : List Byte) (n : Nat) : QueueRec :=
  let a := recDw bs (32 + 2 * n)
  let b := recDw bs (33 + 2 * n)
  { core := field a 56 4, depth := field a 40 11, slot8 := field a 32 8, base := field a 0 19,
    pstage := field b 48 3, cstage := field b 32 3, prate := field b 8 8, crate := field b 0 8 }
def recRange (bs : List Byte) (i : Nat) : RangeRec :=
  let b := recDw bs (65 + 2 * i)
  { addr := BitVec.ofNat 64 (recDw bs (64 + 2 * i)), w := field b 48 1 == 1, len := field b 0 48 }
/-- Width byte of field i. -/
def recWidth (bs : List Byte) (i : Nat) : Nat := field (recDw bs 2) (8 * i) 8
/-- The record that the bytes hold (R337-R339). -/
def parseRecord (bs : List Byte) : Record :=
  { prio := field (recDw bs 0) 0 2, groups := recDw bs 1, widths := (List.range (recNfield bs)).map (recWidth bs),
    args := BitVec.ofNat 64 (recDw bs 3), cmpl := BitVec.ofNat 64 (recDw bs 4), wdog := field (recDw bs 5) 0 48,
    stktop := BitVec.ofNat 64 (recDw bs 6), weight := field (recDw bs 7) 20 4, batch := field (recDw bs 7) 0 9,
    phased := field (recDw bs 0) 40 1 == 1,
    flock := (List.range 128).filter (fun c => (recDw bs (8 + c / 64)).testBit (c % 64)),
    stages := (List.range (recNstage bs)).map (recStage bs), queues := (List.range (recNqueue bs)).map (recQueue bs),
    ranges := (List.range (recNrange bs)).map (recRange bs) }
/-- Reason 1 of R340: the length, the reserved fields and the counts. -/
def recForm (bs : List Byte) : Bool :=
  let h0 := recDw bs 0
  let nr := recNrange bs
  let nq := recNqueue bs
  let ns := recNstage bs
  let nf := recNfield bs
  let zero := fun (k : Nat) => recDw bs k == 0
  field h0 48 16 == recLen nr && decide (nr ≤ 64) && decide (nq ≤ 16) && decide (1 ≤ ns) && decide (ns ≤ 8) && decide (1 ≤ nf) && decide (nf ≤ 6)
    && field h0 41 7 == 0 && field h0 29 3 == 0 && field h0 20 4 == 0 && field h0 11 5 == 0 && field h0 2 6 == 0
    && field (recDw bs 2) 48 16 == 0 && (List.range 6).all (fun i => decide (recWidth bs i < 128) && (decide (i < nf) || recWidth bs i == 0))
    && field (recDw bs 5) 48 16 == 0
    && field (recDw bs 6) 20 44 == 0 && recDw bs 6 % 16 == 0 && decide (0x10 ≤ recDw bs 6) && decide (recDw bs 6 ≤ 0x80000)
    && field (recDw bs 7) 24 40 == 0 && field (recDw bs 7) 9 11 == 0 && field (recDw bs 7) 20 4 != 0
    && decide (1 ≤ field (recDw bs 7) 0 9) && decide (field (recDw bs 7) 0 9 ≤ 256)
    && (List.range 6).all (fun i => zero (10 + i))
    && (List.range 8).all (fun k => if k < ns then decide (recDw bs (17 + 2 * k) < 2) else zero (16 + 2 * k) && zero (17 + 2 * k))
    && (List.range 16).all (fun n =>
      let a := recDw bs (32 + 2 * n)
      let b := recDw bs (33 + 2 * n)
      if n < nq then field a 60 4 == 0 && field a 51 5 == 0 && field a 19 13 == 0 && field b 51 13 == 0 && field b 35 13 == 0 && field b 16 16 == 0
      else a == 0 && b == 0)
    && (List.range nr).all (fun i => let b := recDw bs (65 + 2 * i); field b 49 15 == 0 && field b 0 48 != 0)
    && (List.range ((recLen nr - 0x200 - 16 * nr) / 8)).all (fun i => zero (64 + 2 * nr + i))
/-- Reason 2: stages and queues. -/
def recShape (r : Record) : Bool :=
  r.stages.all (fun g => g.entry.toNat % 4 == 0) && r.stages.any (·.src)
    && r.queues.all (fun q => q.pstage != q.cstage && decide (q.pstage < r.stages.length) && decide (q.cstage < r.stages.length)
      && decide (2 ≤ q.depth) && decide (q.depth ≤ 1024) && decide (1 ≤ q.slot8) && decide (q.slot8 ≤ 32) && q.base % 8 == 0
      && decide (q.base + q.depth * 8 * q.slot8 ≤ 0x80000) && decide (q.crate ≤ q.depth) && decide (q.prate ≤ q.depth))
    && (List.range r.stages.length).all (fun k => (r.stages.getD k ⟨0, true⟩).src || r.queues.any (fun q => q.cstage == k && decide (1 ≤ q.crate)))
/-- Reason 3: the flock. -/
def State.recFlock (s : State) (p : Nat) (r : Record) : Bool :=
  !r.flock.isEmpty && r.flock.all (fun c => (s.physCluster p c).isSome && r.queues.all (fun q => (s.physCore p c q.core).isSome))
/-- Reason 4: the work-id space. -/
def recSpace (r : Record) : Bool :=
  r.widths.all (fun w => decide (1 ≤ w) && decide (w ≤ 64)) && decide (r.widths.sum ≤ 64) && decide (1 ≤ r.groups)
    && decide (r.groups ≤ 2 ^ r.widths.sum) && (!r.phased || decide (2 ≤ r.widths.length))
/-- Node of a global address. -/
def globNode (a : Word) : Option Nat := if a.toNat / 2 ^ 56 = 1 then some (a.toNat / 2 ^ 48 % 256) else none
/-- Reason 5: ranges and the completion object. -/
def State.recAddrs (s : State) (p : Nat) (r : Record) : Bool :=
  r.ranges.all (fun g => match globNode g.addr with
    | some n => nodeValid (s.node p n)
    | none => false)
    && (r.cmpl == 0 || (r.cmpl.toNat % 8 == 0 && match globNode r.cmpl with
      | some n => nodeValid (s.node p n) && (isStackNode n || isStripeNode n || isClusterNode n)
      | none => false))
/-- Storage of the queues of a launch that still holds it. -/
def holdsStorage (l : Launch) : Bool := match l.st with
  | .completing _ | .releasing => false
  | _ => true
/-- Reason 7: the record's queues overlap another launch's on a core. -/
def State.recOverlap (s : State) (p : Nat) (r : Record) : Bool :=
  (s.getPart p).launches.any (fun l => holdsStorage l && r.flock.any (fun c => l.record.flock.contains c)
    && r.queues.any (fun a => l.record.queues.any (fun b => a.core == b.core && overlaps a.base (a.depth * 8 * a.slot8) b.base (b.depth * 8 * b.slot8))))
/-- The reason of the first failing check, or the record (R340). -/
def State.checkRecord (s : State) (p : Nat) (bs : List Byte) : Except Nat Record :=
  let r := parseRecord bs
  if !recForm bs then .error 1
  else if !recShape r then .error 2
  else if !s.recFlock p r then .error 3
  else if !recSpace r then .error 4
  else if !s.recAddrs p r then .error 5
  else if (s.getPart p).launches.length ≥ 64 then .error 6
  else if s.recOverlap p r then .error 7
  else .ok r
/-- The lowest launch id above the last one that is not active, from 1 to 255 with wrap. -/
def nextLid (ls : List Launch) (last : Nat) : Nat :=
  ((firstBelow (fun i => (findLaunch ls ((last + i) % 255 + 1)).isNone) 255 0).map (fun i => (last + i) % 255 + 1)).getD 1
/-- The record becomes an active launch (R340, R350, R352). -/
def State.acceptRecord (s : State) (p : Nat) (r : Record) : Nat × State :=
  let x := s.getPart p
  let lid := nextLid x.launches x.lastLid
  let l : Launch := { lid := lid, record := r, groups := r.groups, detctl := x.detctl, waitFrom := s.now }
  (lid, s.setPart p { x with launches := x.launches ++ [l], lastLid := lid,
                             digests := put word0 (put word0 x.digests (2 * lid) 0) (2 * lid + 1) 0 })

-- submissions (R116, R117, R390)

/-- The host launch queue of a partition on a link. -/
def hostq (x : Part) (link : Nat) : HostQ := if link = 0 then x.hostq0 else x.hostq1
def setHostq (x : Part) (link : Nat) (q : HostQ) : Part := if link = 0 then { x with hostq0 := q } else { x with hostq1 := q }
def hostqWaits (q : HostQ) : Bool := q.qtail != q.qhead
/-- Reading a record for a host must wait: its home does not serve now (R303, R321). -/
def State.hostRecordHeld (s : State) (p : Nat) (a : Word) : Bool :=
  s.rangeHeld p a 8 || (match (s.readGlobal p a 8).1 with
    | .ok h => s.rangeHeld p a (max 64 (natOfBytes (h.drop 6)))
    | .error _ => false)
/-- Reads the record at a global address for partition p; none when it cannot be read. -/
def State.readRecord (s : State) (p : Nat) (a : Word) : Option (List Byte) × State :=
  if a.toNat % 64 ≠ 0 ∨ (globNode a).isNone then (none, s)
  else match s.readGlobal p a 8 with
    | (.error _, s1) => (none, s1)
    | (.ok h, s1) => match s1.readGlobal p a (max 64 (natOfBytes (h.drop 6))) with
      | (.error _, s2) => (none, s2)
      | (.ok bs, s2) => (some bs, s2)
/-- The dispatcher decides on a record: a stalled LAUNCH's, or the next of a host queue. -/
def execDispatchRecord (src : Submitter) (s : State) : Out :=
  -- a RETIRED device takes no work (R398)
  if s.dev.lcs = LCS_RETIRED then idle s else
  match src with
  | .unit u =>
    (let x := s.getUnit u
    match x.wait with
    | .record _ bs =>
      (match s.checkRecord x.part bs with
      | .error e => .next (s.setUnit u { x with wait := .value (BitVec.ofNat 64 (2 ^ 63 + e)) })
      | .ok r =>
        let a := s.acceptRecord x.part r
        .next (a.2.setUnit u { a.2.getUnit u with wait := .value (BitVec.ofNat 64 a.1) }))
    | _ => idle s)
  | .host p link =>
    let x := s.getPart p
    let q := hostq x link
    if p ≥ 16 ∨ link ≥ 2 then .fault (.noSuchPlace p)
    else if s.suspended p ∨ (look link0 s.dev.links link).isSome ∨ !hostqWaits q ∨ (hostqWaits (hostq x (1 - link)) ∧ x.turnq ≠ decide (link = 1)) then idle s
    else
      let k := hostKey link (q.qbase.toNat + 64 * (q.qhead.toNat % 2 ^ (q.qsize.toNat % 64)))
      let answer := fun (t : State) (v : Nat) =>
        let t1 := t.write (k + 8) 8 (BitVec.ofNat 64 (2 ^ 63 + v))
        let y := t1.getPart p
        Host.Outcome.next (t1.setPart p { setHostq y link { hostq y link with qhead := q.qhead + 1 } with turnq := decide (link = 0) })
      if s.hostRecordHeld p (s.read k 8) then idle s
      else match s.readRecord p (s.read k 8) with
      | (none, t) => answer t (2 ^ 62 + 8)
      | (some bs, t) => match t.checkRecord p bs with
        | .error e => answer t (2 ^ 62 + e)
        | .ok r =>
          let a := t.acceptRecord p r
          answer a.2 a.1

-- residency (R343)

/-- Offsets of the pages of a range, from offset `off` on. -/
def State.rangePages (s : State) (p node fin : Nat) (need : Need) : Nat → Nat → List Nat
  | 0, _ => []
  | fuel + 1, off =>
    if off ≥ fin then []
    else
      let size := match s.translate p node off 1 need with
        | .ok t => if t.z < 16 ∨ t.node ≠ node then 65536 else 2 ^ t.z
        | .error _ => 65536
      off :: State.rangePages s p node fin need fuel (off / size * size + size)
/-- The pages of a launch's ranges on stack, stripe-set and cluster nodes: node, offset, bytes of the range there, need. -/
def State.launchPages (s : State) (p : Nat) (r : Record) : List (Nat × Nat × Nat × Need) :=
  r.ranges.flatMap (fun g => match globNode g.addr with
    | some n =>
      if isStackNode n || isStripeNode n || isClusterNode n then
        (let off := g.addr.toNat % 2 ^ 48
        let fin := min (off + g.len) (2 ^ 48)
        let need : Need := if g.w then .w else .r
        (s.rangePages p n fin need (g.len / 65536 + 2) off).map (fun o => (n, o, min (65536 - o % 65536) (fin - o), need)))
      else []
    | none => [])
/-- The first of them that fails, with its node and offset. -/
def State.residencyFail (s : State) (p : Nat) (r : Record) : Option (TFail × Nat × Nat) :=
  (s.launchPages p r).findSome? (fun x => match s.translate p x.1 x.2.1 x.2.2.1 x.2.2.2 with
    | .error e => some (e, x.1, x.2.1)
    | .ok _ => none)
/-- A record of the dispatcher (R343, R348). -/
def State.dispatchFault (s : State) (lid kind : Nat) (e : TFail) (a : Word) : FaultRec :=
  { cause := e.cause, sub := e.sub, kind := kind, lid := lid, unit := 0xC000, addr := a, val := a, time := (s.atimeOf 0).toNat }
/-- The dispatcher checks a launch's pages (R343). -/
def execResidencyCheck (part lid : Nat) (s : State) : Out :=
  match s.getLaunch part lid with
  | none => idle s
  | some l =>
    if s.suspended part ∨ (l.st ≠ .residency ∧ l.st ≠ .running) ∨ (s.launchPages part l.record).any (fun x => s.walkHeld part x.1 x.2.1) then idle s
    else match s.residencyFail part l.record with
      | none =>
        let s1 := (s.launchPages part l.record).foldl (fun u x => u.fill part x.1 x.2.1) s
        .next (s1.setLaunch part { l with st := .running, asked := [], waitFrom := if l.st = .residency then s.now else l.waitFrom })
      | some (e, node, off) =>
        let a := globalAddr node off
        -- a page that passes leaves the absent table, and stands asked for no more
        let pass := (s.launchPages part l.record).filter (fun x => (s.translate part x.1 x.2.1 x.2.2.1 x.2.2.2).toOption.isSome)
        let s1 := (s.launchPages part l.record).foldl (fun u x => u.fill part x.1 x.2.1) s
        let l1 := { l with asked := l.asked.filter (fun b => !pass.any (fun x => globalAddr x.1 x.2.1 == b)) }
        let s2 := s1.setLaunch part l1
        if e.cause = 3 then .next (s2.reportAbsent part node off (s.dispatchFault lid 4 e a))
        else if !l.started then .next ((s2.report part true (s.dispatchFault lid 4 e a)).setLaunch part { l1 with st := .ended 4 })
        else if l1.asked.contains a then .next s2
        else .next ((s2.report part false (s.dispatchFault lid 4 e a)).setLaunch part { l1 with asked := a :: l1.asked })

-- batches (R341, R344)

/-- The phase of an index: field 0 of its WID (R338, R351). -/
def phaseOfIndex (r : Record) (n : Nat) : Nat := if r.phased then n / 2 ^ (r.widths.drop 1).sum else 0
/-- The launch waits for a grant: it has an index that may be issued now. -/
def wantsBatch (l : Launch) : Bool :=
  l.st == .running && decide (l.next < l.groups) && (!l.record.phased || decide (phaseOfIndex l.record l.next ≤ l.phase))
/-- Batches of a partition in a cluster's backlog. -/
def batchesOf (x : Cluster) (p : Nat) : Nat := ((x.backlog.filter (fun b => b.part == p)).map (·.batch)).eraseDups.length
def State.hasRoom (s : State) (p c : Nat) : Bool :=
  match s.physCluster p c with
  | some pc => decide (batchesOf (s.getCluster pc) p < 2)
  | none => false
/-- The flock in the order after the cluster served last. -/
def flockFrom (l : Launch) : List Nat :=
  match l.lastCluster with
  | none => l.record.flock
  | some k => l.record.flock.filter (fun c => decide (k < c)) ++ l.record.flock.filter (fun c => decide (c ≤ k))
/-- The cluster that a launch's next batch goes to (R341). -/
def State.nextCluster (s : State) (p : Nat) (l : Launch) : Option Nat := (flockFrom l).find? (s.hasRoom p)
/-- CHOICE of a batch grant (R353). -/
def batchChoice (l : Launch) (c : Nat) : Word := BitVec.ofNat 64 (c % 128 + l.next * 2 ^ 8)
/-- The launch forces its logged choices of a kind at a unit (R355). -/
def replaying (l : Launch) (kind unit : Nat) : Bool := detReplay l.detctl && !l.unforced.contains (unitKey kind unit)
/-- The cluster that a replayed log names for the launch's next batch: the dispatcher makes the choice for them all (R355). -/
def State.batchNamed (s : State) (p : Nat) (l : Launch) : Option Nat :=
  let rd := fun (i : Nat) => match (s.readGlobal p (detBase l.detctl + BitVec.ofNat 64 (16 * i)) 16).1 with
    | .ok bs => some (natOfBytes (bs.take 8), natOfBytes (bs.drop 8))
    | .error _ => none
  (List.range (detSize l.detctl / 16)).findSome? (fun i => match rd i with
    | some (a, c) => if a / 2 ^ 60 = 5 ∧ a / 2 ^ 40 % 256 = l.lid ∧ c / 2 ^ 8 = l.next then some (c % 128) else none
    | none => none)
/-- Takes a batch grant as a choice; a logged index already issued can no longer arise, and one that the log gives another cluster waits
for it. -/
def State.chooseBatch (s : State) (p : Nat) (l : Launch) (c : Nat) : Option State :=
  if replaying l 5 c && !detLog l.detctl && (s.batchNamed p l).any (· != c) then none
  else s.choose p l.lid 5 c (batchChoice l c) (fun v => decide (v.toNat / 2 ^ 8 < l.next))
/-- The launches that wait for a grant at cluster c; one that replays waits where its log says so (R344, R355). -/
def State.batchCands (s : State) (p c : Nat) : List Launch :=
  if !s.hasRoom p c then []
  else (s.getPart p).launches.filter (fun l => wantsBatch l && l.record.flock.contains c
    && (!replaying l 5 c || (s.chooseBatch p l c).isSome))
/-- Cluster c is the one to which the launch's next batch goes (R341), or its log sends the batch there. -/
def State.goesTo (s : State) (p : Nat) (l : Launch) (c : Nat) : Bool := replaying l 5 c || s.nextCluster p l == some c
def levelKey (p prio : Nat) : Nat := 4 * p + prio
/-- The level of the launches has waited 400,000 ticks (R344). -/
def aged (x : Cluster) (p now : Nat) (l : Launch) : Bool :=
  decide (now ≥ max (look nat0 x.lastGrant (levelKey p l.record.prio)) l.waitFrom + 400000)
def lowestPrio (ls : List Launch) : Nat := (ls.map (·.record.prio)).foldl min 4
def lowestLid (ls : List Launch) : Option Launch := ls.find? (fun l => ls.all (fun m => decide (l.lid ≤ m.lid)))
/-- The launch that R344 picks from candidates at a cluster, and the grants left of its turn; `turns` are the partition's, by level. -/
def pickLaunch (x : Cluster) (turns : SMap (Nat × Nat)) (p now : Nat) (cands : List Launch) : Option (Launch × Nat) :=
  let old := cands.filter (aged x p now)
  let pool := if old.isEmpty then cands else old
  let lv := lowestPrio pool
  let ls := cands.filter (fun l => l.record.prio == lv)
  let t := look turn0 turns lv
  match ls.find? (fun l => l.lid == t.1 && decide (0 < t.2)) with
  | some l => some (l, t.2 - 1)
  | none =>
    ((lowestLid (ls.filter (fun l => decide (t.1 < l.lid)))).orElse (fun _ => lowestLid ls)).map (fun l => (l, l.record.weight - 1))
/-- Indices of the next batch (R341). -/
def batchLen (l : Launch) : Nat :=
  let w := 2 ^ (l.record.widths.getLastD 64)
  min (min l.record.batch (l.groups - l.next)) (w - l.next % w)
/-- A cluster whose backlog has room is granted a batch of the launch that R344 picks for it. While that launch's next batch goes to another
cluster, which has room too, the grant waits: no other launch takes it. -/
def execBatchGrant (part cluster : Nat) (s : State) : Out :=
  if s.suspended part then idle s
  else match s.physCluster part cluster with
    | none => idle s
    | some pc =>
      match pickLaunch (s.getCluster pc) (s.getPart part).turnOf part s.now (s.batchCands part cluster) with
      | none => idle s
      | some (l, left) =>
        if !s.goesTo part l cluster then idle s
        else match s.chooseBatch part l cluster with
        | none => idle s
        | some t =>
          let l1 := (t.getLaunch part l.lid).getD l
          let n := batchLen l
          let y := t.getCluster pc
          let new := (List.range n).map (fun i => { part := part, lid := l.lid, wid := l.next + i, batch := y.batches : Pending })
          let t1 := t.setCluster pc { y with backlog := y.backlog ++ new, batches := y.batches + 1,
                                             lastGrant := put nat0 y.lastGrant (levelKey part l.record.prio) t.now }
          let t2 := t1.setPart part { t1.getPart part with turnOf := put turn0 (t1.getPart part).turnOf l.record.prio (l.lid, left) }
          .next ((t2.setLaunch part { l1 with next := l.next + n, lastCluster := some cluster }).refreshReady part pc)

-- firings (R96, R99, R119, R346)

/-- A unit at the first instruction of a firing (R94, R99, R144, R189, R257). DESIGN CHOICE (log 73): an entry's bits 1:0 are ignored. -/
def freshUnit (u : Unit) (s : State) (pc tp sp : Word) (f : Firing) : Unit :=
  { u with pc := alignPc pc, x := setX (setX (Vector.replicate 32 0) 4 tp) 2 sp, priv := .u, run := .running, lp0 := {}, lp1 := {}, handles := [],
           rcto := 4000000, rctl := 0, ten := {}, cache := [], latch := false, wait := .none, slots := freeSlots u.slots,
           firing := { f with fid := s.fids + 1, since := s.now } }
/-- A core after firmware has written tvec at a partition's start, with a value that the spec leaves open (R95); one that another
partition held meanwhile gets it with its next firing (log 96). -/
def booted (boot : Option Nat) (u : Nat) (x : Unit) : Unit :=
  match boot with
  | none => x
  | some n => if x.boot = some n then x else { x with boot := some n, t := { x.t with tvec := alignPc (Config.freeWord (n + u)) } }
/-- Starts a firing on unit u; `regs` are its further registers. -/
def State.startFiring (s : State) (u p : Nat) (l : Launch) (pc sp : Word) (regs : List (Reg × Word)) (handles : SMap (Option Handle)) (f : Firing) : State :=
  let x := freshUnit (booted (s.getPart p).boot u (s.getUnit u)) s pc l.record.args sp { f with lid := l.lid, wdog := l.record.wdog, phase := l.phase, begun := false }
  let y := { x with x := regs.foldl (fun r v => setX r v.1 v.2) x.x, handles := handles, part := p }
  { s.setUnit u y with fids := s.fids + 1 }
/-- A die on which firings may start (R31). -/
def State.dieLocked (s : State) (u : Nat) : Bool := (s.getDie (dieOf u)).locked
/-- A held terminal record freezes the context that raised it (R386). -/
def State.heldBy (s : State) (u : Nat) : Bool :=
  s.parts.any (fun kv => kv.2.terminal.waiting.any (fun r => r.held && r.src == some u))
/-- The windows of stage k on every queue it is bound to, and the queues' indices after the grant (R118, R119). -/
def grantWindows (l : Launch) (lc k : Nat) : SMap (Option Handle) × SMap QState :=
  (List.range l.record.queues.length).foldl (fun acc n => match l.record.queues[n]? with
    | none => acc
    | some q =>
      let st := look q0 acc.2 (16 * lc + n)
      if bindsOut q k then
        (put handle0 acc.1 n (some { out := true, rate := q.prate, cursor := st.granted }),
         put q0 acc.2 (16 * lc + n) { st with granted := st.granted + q.prate })
      else if bindsIn q k then
        (put handle0 acc.1 n (some { out := false, rate := q.crate, cursor := st.consumed }),
         put q0 acc.2 (16 * lc + n) { st with consumed := st.consumed + q.crate })
      else acc) ([], l.qs)
/-- The tag of the first slot of a stage's window on its lowest-numbered input queue (R120, R346). -/
def State.tagOf (s : State) (p : Nat) (l : Launch) (lc k : Nat) : Word :=
  match (List.range l.record.queues.length).findSome? (fun n => match l.record.queues[n]? with
    | some q => if bindsIn q k && decide (1 ≤ q.crate) then some (n, q) else none
    | none => none) with
  | none => 0
  | some (n, q) => match s.physCore p lc q.core with
    | none => 0
    | some core => s.read (scratchKey core (slotOffset q (look q0 l.qs (16 * lc + n)).consumed)) 8
/-- CHOICE of a scheduler's choice and of a window grant (R353). -/
def schedChoice (order k : Nat) : Word := BitVec.ofNat 64 (order + k * 2 ^ 4)
def windowChoice (n k start : Nat) : Word := BitVec.ofNat 64 (n + k * 2 ^ 4 + start % 2 ^ 40 * 2 ^ 8)
/-- A logged choice of the scheduler that can no longer arise: its launch has no such stage, or the order is none of R346's for it. -/
def schedGone (l : Launch) (c : Word) : Bool :=
  let o := c.toNat % 8
  match l.record.stages[c.toNat / 16 % 8]? with
  | none => true
  | some g => !(o == 1 || (o == 2 && c.toNat / 16 % 8 == 0) || (o == 3 && !g.src) || (o == 4 && g.src))
/-- The window grants of a start, each a choice of its own. -/
def State.chooseWindows (s : State) (p lid unit k : Nat) : List (Nat × Option Handle) → Option State
  | [] => some s
  | (n, h) :: rest =>
    let start := (h.map (·.cursor)).getD 0
    match s.choose p lid 3 unit (windowChoice n k start) (fun v => decide (v.toNat % 2 ^ 7 = n + k * 2 ^ 4 ∧ v.toNat / 2 ^ 8 % 2 ^ 40 < start)) with
    | none => none
    | some t => State.chooseWindows t p lid unit k rest
/-- A WID is taken by a source stage; one that all source stages have taken leaves the backlog (R341). -/
def takeWid (x : Cluster) (l : Launch) (b : Pending) (k : Nat) : Cluster :=
  let b1 := { b with taken := k :: b.taken }
  let srcs := (List.range l.record.stages.length).filter (fun j => (l.record.stages.getD j ⟨0, false⟩).src)
  let done := srcs.all (fun j => b1.taken.contains j)
  { x with backlog := if done then x.backlog.filter (· != b) else x.backlog.map (fun e => if e = b then b1 else e) }
/-- Starts stage k of a launch on core u of logical cluster lc; none while a logged choice must wait. -/
def State.startStage (s : State) (u p : Nat) (l : Launch) (lc k order : Nat) : Option State :=
  match l.record.stages[k]? with
  | none => none
  | some g =>
    let pc := u / 16
    let w := grantWindows l lc k
    match s.choose p l.lid 4 lc (schedChoice order k) (schedGone l) with
    | none => none
    | some s1 => match s1.chooseWindows p l.lid lc k w.1 with
      | none => none
      | some s2 =>
        let l1 := { (s2.getLaunch p l.lid).getD l with qs := w.2, started := true }
        let b := (waitingWids (s2.getCluster pc) p l.lid k).head?
        let wid := if g.src then BitVec.ofNat 64 ((b.map (·.wid)).getD 0) else s.tagOf p l lc k
        let s3 := s2.setLaunch p l1
        let s4 := match (if g.src then b else none) with
          | some e => s3.setCluster pc (takeWid (s3.getCluster pc) l e k)
          | none => s3
        let s5 := if order = 4 then
            s4.setCluster pc { s4.getCluster pc with lastSource := put nat0 (s4.getCluster pc).lastSource (levelKey p l.record.prio) l.lid }
          else s4
        let s6 := s5.startFiring u p l1 g.entry l.record.stktop [(10, wid)] w.1 { wid := wid, stage := BitVec.ofNat 64 k }
        some (State.refreshReady (s6.setUnit u { s6.getUnit u with turn := 0 }) p pc)
/-- Starts a handler firing on unit u (R96, R99, R133, R136, R324). -/
def State.startHandler (s : State) (u : Nat) (l : Launch) (m : Msg) (sp : Word) : State :=
  let owed : Option ReplyTo := if m.kind = 1 ∨ m.kind = 2 then
      some { part := m.part, node := m.onode, ounit := m.ounit, slot := m.slot, gen := m.gen } else none
  let args := (List.range 6).map (fun i => (Fin.ofNat 32 (10 + i), m.pay.getD i 0))
  let s1 := s.setLaunch m.part { l with started := true }
  s1.startFiring u m.part l m.hpc sp ((9, m.target) :: args) [] { stage := BitVec.ofNat 64 (0x100 + m.kind * 16), owed := owed }
/-- The launch that a message's LID names, when it is active (R133). -/
def State.activeLaunch (s : State) (m : Msg) : Option Launch :=
  match s.getLaunch m.part m.lid with
  | some l => (match l.st with
    | .residency | .running => some l
    | _ => none)
  | none => none

-- the stage scheduler (R346)

/-- What the scheduler starts on a free core. -/
inductive Pick
  | inbox (order : Nat)
  | stage (order : Nat) (l : Launch) (k : Nat)
  deriving DecidableEq, Repr
/-- A ready stage: launch, stage, whether it is a source, ready-since. -/
structure Cand where
  l : Launch
  k : Nat
  src : Bool
  since : Nat
  deriving DecidableEq, Repr
/-- The first that no other beats. -/
def best {α : Type} (beats : α → α → Bool) (l : List α) : Option α := l.find? (fun a => l.all (fun b => !beats b a))
/-- Ready stages of resident launches of partition p in a cluster whose ready-since times are up to date. -/
def State.cands (s : State) (p pc : Nat) : List Cand :=
  (s.getCluster pc).ready.filterMap (fun r =>
    if r.part = p then
      match s.getLaunch p r.lid with
      | some l => (if (s.residencyFail p l.record).isNone then
          (l.record.stages[r.stage]?).map (fun g => { l := l, k := r.stage, src := g.src, since := r.since }) else none)
      | none => none
    else none)
/-- Order 3: highest stage index, then lower level, then earlier ready-since. -/
def beats3 (a b : Cand) : Bool :=
  decide (b.k < a.k) || (a.k == b.k && (decide (a.l.record.prio < b.l.record.prio) || (a.l.record.prio == b.l.record.prio && decide (a.since < b.since))))
/-- Order 4: lower level, then rotating launch id, then lowest stage index. -/
def beats4 (x : Cluster) (p : Nat) (a b : Cand) : Bool :=
  let rot := fun (c : Cand) => (c.l.lid + 255 - look nat0 x.lastSource (levelKey p c.l.record.prio)) % 256
  decide (a.l.record.prio < b.l.record.prio) || (a.l.record.prio == b.l.record.prio && (decide (rot a < rot b) || (rot a == rot b && decide (a.k < b.k))))
/-- The orders of R346 in turn, for partition p. -/
def pickFor (x : Cluster) (p : Nat) (u : Unit) (now : Nat) (cs : List Cand) : Option Pick :=
  let starved := cs.filter (fun c => decide (c.since + 65536 ≤ now))
  match best (fun a b => decide (a.since < b.since)) starved with
  | some c => some (.stage 1 c.l c.k)
  | none =>
    if !u.inbox.isEmpty && !(decide (4 ≤ u.turn) && !cs.isEmpty) then some (.inbox 2)
    else match best beats3 (cs.filter (fun c => !c.src)) with
      | some c => some (.stage 3 c.l c.k)
      | none => (best (beats4 x p) (cs.filter (·.src))).map (fun c => .stage 4 c.l c.k)
/-- The scheduler's choice that a launch's log names next at a cluster (R355). -/
def State.loggedPick (s : State) (p lc : Nat) (l : Launch) : Option Word :=
  if !replaying l 4 lc then none
  else match s.nextRecord p l 4 lc with
    | some (4, c) => if schedGone l c then none else some c
    | _ => none
/-- A launch waits for another of the scheduler's choices than those its log does not name. -/
def State.logHolds (s : State) (p lc : Nat) (l : Launch) : Bool :=
  match s.forced p l 4 lc (schedChoice 0 0) (schedGone l) with
  | .other _ => true
  | _ => false
/-- Partition p runs, and maps core u: the cluster's logical number (R19). -/
def State.mapsCore (s : State) (p u : Nat) : Option Nat :=
  if s.suspended p then none else (s.logCluster p (u / 16)).bind (fun lc => (s.logCore p lc (u % 16)).map (fun _ => lc))
/-- The running partitions that map core u, the one it served last first (log 82). -/
def State.partsOf (s : State) (u : Nat) : List Nat :=
  let p := (s.getUnit u).part
  (p :: (List.range 16).filter (· != p)).filter (fun q => decide (q < 16) && (s.mapsCore q u).isSome)
/-- The core is free and may start a firing: its cluster's scheduler owns it and its die has settled (R19, R31, R401). -/
def State.coreFree (s : State) (u : Nat) : Bool := isCore u && (s.getUnit u).run == .idle && s.dieLocked u && !s.heldBy u && !(s.partsOf u).isEmpty
/-- The oldest message of core u for a partition. -/
def State.headMsg (s : State) (u p : Nat) : Option Msg := (s.getUnit u).inbox.find? (fun m => m.part == p)
/-- The alternative that some launch's log names, where it is present (R355). -/
def State.forcedPick (s : State) (u p lc : Nat) (cs : List Cand) : Option Pick :=
  (s.getPart p).launches.findSome? (fun l => (s.loggedPick p lc l).bind (fun c =>
    let o := c.toNat % 8
    if o = 2 then (match s.headMsg u p with
      | some m => if m.lid = l.lid then some (.inbox 2) else none
      | none => none)
    else if cs.any (fun x => x.l.lid == l.lid && x.k == c.toNat / 16 % 8) then some (.stage o l (c.toNat / 16 % 8)) else none))
/-- The choice for free core u in partition p, in a state whose ready-since times are up to date: what a log names, else the first of R346
among what no log holds back. -/
def State.pick (s : State) (u p lc : Nat) : Option Pick :=
  let x := s.getUnit u
  let cs := s.cands p (u / 16)
  match s.forcedPick u p lc cs with
  | some k => some k
  | none =>
    let held := match s.headMsg u p with
      | some m => (s.activeLaunch m).any (s.logHolds p lc)
      | none => true
    pickFor (s.getCluster (u / 16)) p { x with inbox := if held then [] else x.inbox } (s.atimeOf (dieOf u)).toNat
      (cs.filter (fun c => !s.logHolds p lc c.l))
/-- The oldest message of core u for partition p starts a handler firing, or is discarded (R133); none while it must wait. The inbox turn
counts firings alone (R346). -/
def State.fromInbox (s : State) (u p lc order : Nat) (someReady : Bool) : Option State :=
  let x := s.getUnit u
  match s.headMsg u p with
  | none => none
  | some m =>
    let drop := fun (turn : Nat) => s.setUnit u { x with inbox := x.inbox.erase m, turn := if someReady then turn else 0, idleSince := s.now }
    let gone := (drop x.turn).discard u m
    match s.activeLaunch m with
    | some l =>
      if !l.record.flock.contains lc then some gone
      else if (s.residencyFail m.part l.record).isSome ∨ l.st ≠ .running then none
      else ((drop (x.turn + 1)).choose m.part m.lid 4 lc (schedChoice order 0) (schedGone l)).map (fun t =>
        t.startHandler u ((t.getLaunch m.part m.lid).getD l) m l.record.stktop)
    | none => some gone
/-- The scheduler serves free core u from partition p, if it can. -/
def State.serveCore (s0 : State) (u p : Nat) : Option State :=
  let s := s0.refreshReady p (u / 16)
  (s.mapsCore p u).bind (fun lc => match s.pick u p lc with
    | some (.stage order l k) => s.startStage u p l lc k order
    | some (.inbox order) => s.fromInbox u p lc order (!(s.cands p (u / 16)).isEmpty)
    | none => none)
/-- The scheduler's choice for free core u (R346). -/
def execStageSchedule (u : Nat) (s : State) : Out :=
  if u ≥ 2048 then .fault (.noSuchPlace u)
  else if !s.coreFree u ∨ !(s.getUnit u).powered then idle s
  else .next (((s.partsOf u).findSome? (s.serveCore u)).getD ((s.partsOf u).foldl (fun t p => t.refreshReady p (u / 16)) s))
/-- A free stack core takes the oldest message of a partition that runs (R324). -/
def execStackCoreFiringStart (u : Nat) (s : State) : Out :=
  if !isSc u then .fault (.noSuchPlace u)
  else
    let x := s.getUnit u
    if x.run ≠ .idle ∨ !s.dieLocked u ∨ s.heldBy u then idle s
    else match x.inbox.find? (fun m => !s.suspended m.part) with
      | none => idle s
      | some m =>
        let s1 := s.setUnit u { x with inbox := x.inbox.erase m }
        match s.activeLaunch m with
        | none => .next (s1.discard u m)
        | some l =>
          if (s.residencyFail m.part l.record).isSome ∨ l.st ≠ .running then idle s
          else .next (s1.startHandler u l m 0x10000)

-- progress and completion (R347, R348, R351)

/-- A firing that has run for its launch's WATCHDOG since its first instruction raises it (R347). -/
def execWatchdogExpiry (u : Nat) (s : State) : Out :=
  let x := s.getUnit u
  let f := x.firing
  if x.run = .running ∧ f.begun ∧ f.wdog ≠ 0 ∧ !f.wdFired ∧ !f.inWd ∧ !s.suspended x.part ∧ f.since + f.wdog ≤ s.now then
    .next (State.addAsync (s.setUnit u { x with firing := { f with wdFired := true } }) u { code := 0x16, tval := BitVec.ofNat 64 f.wdog })
  else idle s
/-- Every unit with its number. -/
def State.units (s : State) : List (Nat × Unit) := (s.focus, s.cur) :: s.others.filter (fun kv => kv.1 != s.focus)
def msgOf (p lid : Nat) (m : Msg) : Bool := m.part == p && m.lid == lid
def opOf (p lid : Nat) (o : EOp) : Bool := o.part == p && o.lid == lid && o.src.isSome
/-- A unit holds nothing of a launch: no firing, no message, no journal entry. -/
def unitQuiet (p lid : Nat) (x : Unit) : Bool :=
  !(x.part == p && x.firing.lid == lid && x.run != .idle) && !x.inbox.any (msgOf p lid) && !x.sendq.any (fun o => msgOf p lid o.msg)
    && x.journal.all (fun kv => kv.2.st == .free || kv.2.part != p || kv.2.lid != lid)
/-- Nothing of a launch is running or under way (R348). -/
def State.launchQuiet (s : State) (p lid : Nat) : Bool :=
  s.units.all (fun kv => unitQuiet p lid kv.2)
    && !s.flights.any (fun f => msgOf p lid f.msg) && !s.pens.flights.any (fun f => msgOf p lid f.msg)
    && s.laws.all (fun kv => !kv.2.posts.any (fun q => msgOf p lid q.msg))
    && !s.releases.any (fun r => r.part == p && r.lid == lid) && !s.vis.any (fun v => v.part == p && v.lid == lid)
    && s.clusters.all (fun kv => !kv.2.aeReqs.any (fun r => r.part == p && r.lid == lid) && kv.2.chans.all (fun ch => !ch.2.any (opOf p lid)))
    && s.stks.all (fun kv => !kv.2.redq.any (opOf p lid) && !kv.2.swq.any (opOf p lid) && !kv.2.aeReqs.any (fun r => r.part == p && r.lid == lid)
      && kv.2.pch.all (fun pc => !pc.2.cmds.any (fun b => b.part == p && b.lid == lid)))
/-- Every issued index has been taken and no stage of the launch is ready. -/
def State.launchDrained (s : State) (p : Nat) (l : Launch) : Bool :=
  s.clusters.all (fun kv => !kv.2.backlog.any (fun b => b.part == p && b.lid == l.lid))
    && l.record.flock.all (fun lc => match s.physCluster p lc with
      | some pc => (List.range l.record.stages.length).all (fun k => !stageReady (s.getCluster pc) p l lc k)
      | none => true)
/-- A law unit holds a word that a firing of launch l armed in its present phase, with a crossing still to come (R351). -/
def State.phaseArmed (s : State) (p : Nat) (l : Launch) : Bool :=
  s.laws.any (fun kv => kv.2.arms.any (fun a => a.part == p && a.lid == l.lid && a.phase == l.phase && s.armedYet kv.1 a))
/-- The present phase of a launch may commit: all its indices are issued and taken, and nothing of it is running, under way or armed (R351). -/
def State.phaseDone (s : State) (p : Nat) (l : Launch) : Bool :=
  l.st == .running && l.record.phased && l.next != 0 && phaseOfIndex l.record (l.next - 1) == l.phase
    && !(decide (l.next < l.groups) && decide (phaseOfIndex l.record l.next ≤ l.phase))
    && s.launchDrained p l && s.launchQuiet p l.lid && !s.phaseArmed p l
/-- The launch after the commit of its phase. -/
def commitPhase (l : Launch) (now : Nat) : Launch := { l with phase := l.phase + 1, digestCommit := l.digest, waitFrom := now }
/-- A phase commits (R351). -/
def execPhaseCommit (part lid : Nat) (s : State) : Out :=
  match s.getLaunch part lid with
  | none => idle s
  | some l => if s.suspended part ∨ !s.phaseDone part l then idle s else .next (s.setLaunch part (commitPhase l s.now))
/-- The value of a launch that is at its end (R348). -/
def State.endValue (s : State) (p : Nat) (l : Launch) : Option Nat :=
  match l.st with
  | .killed => some 3
  | .ended v => some v
  | .running =>
    if l.groups ≤ l.next && s.launchDrained p l then some (if l.qs.any (fun kv => decide (0 < filledOf kv.2)) then 2 else 1) else none
  | _ => none
/-- A launch's id is free. -/
def State.dropLaunch (s : State) (p lid : Nat) : State :=
  let x := s.getPart p
  s.setPart p { x with launches := x.launches.filter (fun l => l.lid != lid) }
/-- f applied to every listed value. -/
def mapS {α : Type} [DecidableEq α] (d : Nat → α) (f : Nat → α → α) (m : SMap α) : SMap α := m.foldr (fun kv a => put d a kv.1 (f kv.1 kv.2)) []
/-- A launch's WIDs and ready stages leave every cluster. -/
def State.dropBacklog (s : State) (p lid : Nat) : State :=
  let f := fun (_ : Nat) (x : Cluster) => { x with ready := x.ready.filter (fun r => !(r.part == p && r.lid == lid)),
                                                   backlog := x.backlog.filter (fun b => !(b.part == p && b.lid == lid)) }
  { s with clusters := mapS cluster0 f s.clusters }
/-- What the dispatcher does at completion before the release (R171, R348, R352). -/
def State.completeLaunch (s : State) (p : Nat) (l : Launch) (v : Nat) : State :=
  let x := s.getPart p
  let dg := if l.detctl.getLsbD 0 then put word0 (put word0 x.digests (2 * l.lid) l.digest) (2 * l.lid + 1) l.digestCommit else x.digests
  let s1 := s.setPart p { x with bindings := x.bindings.filter (fun b => b.lid != l.lid), digests := dg }
  let s2 := s1.dropBacklog p l.lid
  if l.record.cmpl = 0 then s2.dropLaunch p l.lid else s2.setLaunch p { l with st := .completing v }
/-- The source number of the dispatcher's release for a launch. -/
def cmplSrc (p lid : Nat) : Nat := 32768 + 256 * p + lid
/-- The release on CMPL stands in an engine's queue. -/
def State.cmplQueued (s : State) (p lid : Nat) : Bool := engines.any (fun e => (s.reqsOf e).any (fun r => r.src == cmplSrc p lid))
/-- The release on CMPL meets a failure of its translation: an absent page is reported and it waits; else it is not made, and the id is
free (R348). -/
def State.cmplFailed (s : State) (p : Nat) (l : Launch) (e : TFail) : State :=
  let a := l.record.cmpl
  if e.cause = 3 then s.reportAbsent p (a.toNat / 2 ^ 48 % 256) (a.toNat % 2 ^ 48) (s.dispatchFault l.lid 4 e a)
  else
    let s1 := engines.foldl (fun t g => if (t.reqsOf g).any (fun r => r.src == cmplSrc p l.lid) then
      t.setReqs g ((t.reqsOf g).filter (fun r => r.src != cmplSrc p l.lid)) else t) s
    (s1.report p true (s.dispatchFault l.lid 2 e a)).dropLaunch p l.lid
/-- A completing launch's release: it is sent once, and the id is free when its home has applied it (R348). -/
def State.cmplRelease (s : State) (p : Nat) (l : Launch) (v : Nat) (sent : Bool) : State :=
  let a := l.record.cmpl
  match s.translate p (a.toNat / 2 ^ 48 % 256) (a.toNat % 2 ^ 48) 8 .rw with
  | .error e => if sent && !s.cmplQueued p l.lid then s.dropLaunch p l.lid else s.cmplFailed p l e
  | .ok t => match engineOf t.home with
    | none => s.cmplFailed p l ⟨4, 0⟩
    | some g =>
      let s1 := if sent then s else
        (s.setLaunch p { l with st := .releasing }).submit g
          { src := cmplSrc p l.lid, part := p, lid := l.lid, addr := a, wide := true, op := .release (some (BitVec.ofNat 48 v)), b := 0,
            returning := false }
      if s1.cmplQueued p l.lid then s1 else s1.dropLaunch p l.lid
/-- A launch completes, its last phase committed where it can be (R351); a completing one sends its release on CMPL (R348). -/
def execLaunchComplete (part lid : Nat) (s : State) : Out :=
  match s.getLaunch part lid with
  | none => idle s
  | some l =>
    if s.suspended part then idle s
    else match l.st with
      | .completing v => .next (s.cmplRelease part l v false)
      | .releasing => .next (s.cmplRelease part l 0 true)
      | _ => match s.endValue part l with
        | some v => if s.launchQuiet part lid then .next (s.completeLaunch part (if s.phaseDone part l then commitPhase l s.now else l) v) else idle s
        | none => idle s

end Sys2Proof.Machine
end

