-- ==== Sys2Proof/Machine/Journal.lean ====
section
/-! DEFINITION. The steps of the posted-store journal and the visibility queues (R104, R153, R155, R158-R163, R282). -/

namespace Sys2Proof.Machine

/-- An arriving entry's mark lifts the home's blocking. -/
def State.liftMark (s : State) (u : Nat) (e : JEntry) : State :=
  if e.mark then { s with blocked := s.blocked.filter (fun b => !s.blocks_ u e b) } else s
/-- An unblock token of unit u to a home goes before what the unit sent after it (R104, R132). -/
def State.tokenAhead (s : State) (u k p sent : Nat) : Bool := s.tokens.any (fun t => t.src == u && t.key == k && t.part == p && decide (t.sent ≤ sent))
/-- An entry of unit u that f selects, to the same home as e and sent before `sent`, is on its way there. -/
def State.sentBefore (s : State) (u k sent : Nat) (f : JEntry → Bool) : Bool :=
  (s.getUnit u).journal.any (fun kv =>
    let o := kv.2
    o.st == .issued && o.stage == .toHome && decide (o.sent < sent) && s.entryKey u o == k && f o)
/-- What the unit sent or issued earlier to the home of an untimed entry has not come there (R132, R153). -/
def State.behind (s : State) (u : Nat) (e : JEntry) : Bool :=
  let k := s.entryKey u e
  s.sentBefore u k e.sent (fun o => !o.timed) || s.tokenAhead u k e.part e.sent
    || (k == unitHome u && !s.localDrained u (fun _ ord => decide (ord < e.ord)))
/-- An earlier atomic or release waits at an engine, and this entry goes elsewhere; an engine keeps the order of what it holds (R153). -/
def State.behindEngine (s : State) (u : Nat) (e : JEntry) (g : Option Nat) : Bool :=
  (s.getUnit u).journal.any (fun kv =>
    let o := kv.2
    o.st == .issued && o.stage == .atHome && !o.timed && decide (o.sent < e.sent) && s.entryKey u o == s.entryKey u e
      && !(isAmoRel e.kind && g == some o.engine))
def isAperture (node off size : Nat) : Bool :=
  isClusterNode node && decide (0x1004000 ≤ off) && decide (off < 0x1004040) && size == 8
/-- The entry is acknowledged. -/
def State.ackEntry (s : State) (u j : Nat) : State := s.setEntry u j { s.entry u j with stage := .ack }

/-- A store through the copy aperture of a cluster (R282). -/
def State.apertureStore (s : State) (u j : Nat) (e : JEntry) (node off : Nat) : State :=
  match s.physCluster e.part (node - 0x10) with
  | none => s.refuse u j 2
  | some pc =>
    if s.grantedRange e.part (node - 0x10) off 8 false true then
      match s.aperture e.part pc ((off - 0x1004000) / 8) e.data with
      | some t => t.ackEntry u j
      | none => s
    else s.refuse u j 2
/-- What an atomic or a release in the journal asks of its engine. -/
def entryOp (e : JEntry) : Option AOp :=
  match e.kind with
  | .store => none
  | .amo op => some ([AOp.add, .and, .or, .xor, .min, .max, .minu, .maxu, .swap].getD op .swap)
  | .rel => some (.release none)
  | .relv => some (.release (some (e.data.extractLsb' 0 48)))
/-- A translated entry is applied, or handed to an engine, which holds it while its word's home cannot serve it (R333). -/
def State.applyEntry (s : State) (u j : Nat) (e : JEntry) (t : Site) : State :=
  match entryOp e with
  | none =>
    if !s.servesSite e.part t u (.store u j) true then s
    else match (s.dropTicketSite t (.store u j)).writeSite e.part e.lid t (bytesOfNat e.size e.data.toNat) with
      | some s1 => s1.ackEntry u j
      | none => s
  | some op =>
    match t.home with
    | .peer _ => s.ackEntry u j
    | h => match engineOf h with
      | none => s.refuse u j 2
      | some g => (s.setEntry u j { e with stage := .atHome, engine := g }).submit g
          { src := u, part := e.part, lid := e.lid, addr := e.addr, wide := e.size == 8, op := op, b := e.data, returning := false,
            posted := some j, fid := e.fid, ord := e.ord }
/-- The engine a translated entry is for. -/
def entryEngine (e : JEntry) (r : Except TFail Site) : Option Nat :=
  match r with
  | .ok t => if (entryOp e).isSome then engineOf t.home else none
  | .error _ => none
/-- An untimed entry arrives at its home (R104, R153, R155); one of a suspended partition waits in a pen (R360). -/
def execHomeStoreArrival (u j : Nat) (s : State) : Out :=
  let e := s.entry u j
  let node := e.addr.toNat / 2 ^ 48 % 256
  let off := e.addr.toNat % 2 ^ 48
  let r := s.translate e.part node off e.size (if e.kind = .store then .w else .rw)
  if e.st ≠ .issued ∨ e.stage ≠ .toHome ∨ e.timed ∨ s.behind u e ∨ s.behindEngine u e (entryEngine e r) ∨ s.suspended e.part ∨ s.addrHeld (isSc u) e.part e.addr then idle s
  else
    let s0 := s.liftMark u e
    if s0.isBlocked u e then .next (s0.refuse u j 5)
    else if isAperture node off e.size && e.kind == .store then .next (s0.apertureStore u j e node off)
    else match r with
      | .error f => .next ((s0.noteEntry u e f).refuse u j (subOf f))
      | .ok t => if s0.homeUp e.part t then .next ((s0.fill e.part node off).applyEntry u j { e with mark := false } t) else idle s
/-- An acknowledgement reaches the journal: the entry goes FREE. -/
def execJournalAck (u j : Nat) (s : State) : Out :=
  let e := s.entry u j
  if e.st = .issued ∧ e.stage = .ack ∧ !s.suspended e.part then .next (s.setEntry u j {}) else idle s
/-- The cause that reports a refused entry (R105). -/
def refusalCause (e : JEntry) (sub j : Nat) : Async :=
  if sub = 6 then { code := 0x0B, tval := e.time, jidx := j } else { code := 0x0C, tval := BitVec.ofNat 64 sub, jidx := j }
/-- A refusal reaches the journal; it is reported unless another entry of its node stands REFUSED (R105). -/
def execJournalRefusal (u j : Nat) (s : State) : Out :=
  let e := s.entry u j
  match e.st, e.stage with
  | .issued, .refusal sub =>
    if s.suspended e.part then idle s
    else
      let other := (s.getUnit u).journal.any (fun kv => kv.2.st == .refused && kv.2.node == e.node)
      let s1 := s.setEntry u j { e with st := .refused, sub := sub, mark := false }
      .next (if other then s1 else s1.addAsync u (refusalCause e sub j))
  | _, _ => idle s
/-- The k-th unblock token reaches its home, after what its unit sent there before it; one of a suspended partition waits in a pen. -/
def execUnblockToken (k : Nat) (s : State) : Out :=
  match s.tokens[k]? with
  | none => idle s
  | some t =>
    if s.suspended t.part ∨ s.sentBefore t.src t.key t.sent (fun o => o.part == t.part)
      ∨ (s.tokens.take k).any (fun o => o.src == t.src && o.key == t.key && o.part == t.part) then idle s
    else .next { s with tokens := s.tokens.eraseIdx k,
                        blocked := s.blocked.filter (fun b => !(b.part == t.part && b.key == t.key && b.src == t.src)) }

-- timed stores (R158-R162)

/-- Where a timed entry's home keeps it: the port of a visibility queue, and the die. A remote-mapped leaf sends it on to its node (R378). -/
def State.timedHome (s : State) (u : Nat) (e : JEntry) : Option (Nat × Nat) :=
  match classify (isSc u) e.addr with
  | .global node off =>
    let h := match s.forwardsTo e.part node off with
      | some (n, o) => (s.home e.part n o).orElse (fun _ => s.home e.part node off)
      | none => s.home e.part node off
    h.map (fun h => (4096 + homeDie h, homeDie h))
  | _ => (s.localSpot u e.part e.addr).map (fun ca => (ca.1, dieOf ca.1))
def visCap (port : Nat) : Nat := if port < 4096 then 64 else 512
/-- Translation at the home of a timed entry; a local one was checked at issue (R158). -/
def State.timedSite (s : State) (u : Nat) (e : JEntry) : Except TFail (Option Site) :=
  match classify (isSc u) e.addr with
  | .global node off => match s.translate e.part node off e.size .w with
    | .error f => .error f
    | .ok t => .ok (some t)
  | _ => .ok none
/-- What the unit sent earlier to the home of a timed entry goes first: a token, and a timed store whose T is no later (R9, R132). -/
def State.timedBehind (s : State) (u : Nat) (e : JEntry) : Bool :=
  let k := s.entryKey u e
  s.tokenAhead u k e.part e.sent || s.sentBefore u k e.sent (fun o => o.timed && decide (o.time.toNat ≤ e.time.toNat))
/-- A timed store arrives at its home (R158); over a link that is down it holds (R395). -/
def execTimedStoreArrival (u j : Nat) (s : State) : Out :=
  let e := s.entry u j
  if e.st ≠ .issued ∨ e.stage ≠ .toHome ∨ !e.timed ∨ s.timedBehind u e ∨ s.suspended e.part ∨ s.addrHeld (isSc u) e.part e.addr then idle s
  else match s.timedHome u e with
    | none => .next (s.refuse u j 2)
    | some (port, die) =>
      let s0 := s.liftMark u e
      let a := (s0.atimeOf die).toNat
      if s0.clkState die = 0 then .next (s0.refuse u j 3)
      else if a > e.time.toNat + epsOf e.node then .next ((s0.countLife 0x370 1).refuse u j 6)
      else if s0.isBlocked u e then .next (s0.refuse u j 5)
      else match s0.timedSite u e with
        | .error f => .next ((s0.noteEntry u e f).refuse u j (subOf f))
        | .ok site =>
          if site.any (fun t => !s0.homeUp e.part t) then idle s
          else if (s0.vis.filter (fun v => v.port == port)).length ≥ visCap port then .next (s0.refuse u j 4)
          else
            let v : Vis := { port := port, src := u, j := j, part := e.part, lid := e.lid, addr := e.addr, data := e.data, size := e.size,
                             time := e.time, arrived := a, site := site }
            let s1 := if site.isSome then s0.fill e.part (e.addr.toNat / 2 ^ 48 % 256) (e.addr.toNat % 2 ^ 48) else s0
            .next ((State.setEntry { s1 with vis := s1.vis ++ [v] } u j { e with stage := .atHome, accepting := true, mark := false }))
/-- ACCEPT reaches the journal (R159). -/
def execTimedStoreAccept (u j : Nat) (s : State) : Out :=
  let e := s.entry u j
  if e.st = .issued ∧ e.accepting ∧ !s.suspended e.part then .next (s.setEntry u j { e with accepting := false, accepted := true })
  else idle s
/-- The entry of a written timed store is acknowledged, in the saved journal of a writer that has been evicted (R162). -/
def ackTimed (v : Vis) (x : Unit) : Unit :=
  let e := look jentry0 x.journal v.j
  if e.st = .issued ∧ e.timed ∧ e.stage = .atHome ∧ e.addr = v.addr ∧ e.time = v.time then
    { x with journal := put jentry0 x.journal v.j { e with stage := .ack } } else x
/-- Unit numbers from here on name evicted writers: 2^16 + 16*(logical cluster) + logical core. -/
def evictedSrc (name : Nat) : Nat := 2 ^ 16 + name
/-- f applied to a writer, evicted or not. -/
def State.onWriter (s : State) (p src : Nat) (f : Unit → Unit) : State :=
  let one := fun (q : SavedUnit) => if evictedSrc q.name = src then { q with unit := f q.unit } else q
  if src < 2 ^ 16 then s.setUnit src (f (s.getUnit src))
  else { s with saved := s.saved.map (fun x => if x.part = p then { x with units := x.units.map one } else x) }
/-- Writes an accepted timed store and sends its ACK; none while its write must wait. -/
def State.visWrite (s : State) (k : Nat) (v : Vis) : Option State :=
  let bs := bytesOfNat v.size v.data.toNat
  -- it goes before every other that is due (`visBefore`)
  let s1 := { s with vis := [] }
  (match visPlace v with
    | .inl t => s1.writeSite v.part v.lid t bs
    | .inr a => s1.writeScratch v.part v.lid v.port a bs).map (fun (t : State) =>
      State.onWriter { t with vis := s.vis.eraseIdx k } v.part v.src (ackTimed v))
/-- An entry for some of the same bytes comes before this one: a lower T, or an equal T and an earlier arrival (R160). -/
def State.visBefore (s : State) (k : Nat) (v : Vis) : Bool :=
  (s.vis.mapIdx (fun i w => (i, w))).any (fun iw => iw.1 != k && overlaps (s.visKey iw.2) iw.2.size (s.visKey v) v.size &&
    (decide (iw.2.time.toNat < v.time.toNat) || (iw.2.time == v.time && decide (iw.1 < k))))
/-- An accepted timed store is written if its T has come; one whose write must wait leaves the others to go on. -/
def State.flushOne (s : State) (v : Vis) : State :=
  match s.vis.findIdx? (· == v) with
  | none => s
  | some k => if s.visDue v && !s.visBefore k v then (s.visWrite k v).getD s else s
/-- The k-th entry of the visibility queues is written at max(T, arrival). -/
def execTimedStoreVisible (k : Nat) (s : State) : Out :=
  match s.vis[k]? with
  | none => idle s
  | some v => .next (s.flushOne v)
/-- In order of T, and of arrival for an equal T. -/
def insVis (v : Vis) : List Vis → List Vis
  | [] => [v]
  | w :: ws => if v.time.toNat < w.time.toNat then v :: w :: ws else w :: insVis v ws
/-- Writes every timed store whose T has come, in order; each step of the package begins with it. -/
def State.flushDue (s : State) : State := (s.vis.foldl (fun l v => insVis v l) []).foldl State.flushOne s

end Sys2Proof.Machine
end

