-- ==== Sys2Proof/Machine/Kill.lean ====
section
/-! DEFINITION. KILL and its end (R104, R138, R146, R147, R162, R172, R291, R301, R328, R366), and PLACEW (R18-R20, R148, R149). -/

namespace Sys2Proof.Machine

-- the context of a KILL (R146)

/-- A context: the unit that executes KILL, its partition, launch and firing; `all` is scope 1. -/
structure KillCtx where
  u : Nat
  p : Nat
  lid : Nat
  fid : Nat
  all : Bool
  deriving DecidableEq, Repr
def KillCtx.owns (k : KillCtx) (v lid fid : Nat) : Bool := if k.all then lid == k.lid else v == k.u && fid == k.fid
def KillCtx.op (k : KillCtx) (o : EOp) : Bool :=
  o.part == k.p && match o.src with
    | some v => k.owns v o.lid o.fid
    | none => false
def KillCtx.entry (k : KillCtx) (v : Nat) (e : JEntry) : Bool := e.st != .free && e.part == k.p && k.owns v e.lid e.fid
/-- A request of a unit; the releases of engines and of the dispatcher are no part of a context (R328, R348). -/
def KillCtx.req (k : KillCtx) (r : AReq) : Bool := isUnit r.src && r.part == k.p && k.owns r.src r.lid r.fid
/-- Messages that would start a firing of the context: only under scope 1. -/
def KillCtx.queued (k : KillCtx) (m : Msg) : Bool := k.all && msgOf k.p k.lid m

-- engine operations (R291, R328)

/-- What an aborted operation reports: the elements it had done stand, and the others are not written (R291). -/
def aborted (o : EOp) : EFail := { cause := 0x21, sub := 0, addr := 0, progress := progressOf o }
/-- An operation of a channel is aborted at an element boundary. -/
def State.abortChan (s : State) (x : Nat × Nat × EOp) : State :=
  (s.setChan x.1 x.2.1 ((chanOf (s.getCluster x.1) x.2.1).filter (fun o => !sameOp o x.2.2))).failOp (.chan x.1 x.2.1) x.2.2 (aborted x.2.2) false
/-- An operation of a base die's engine is aborted: a registration leaves the table; the elements that a REDUCE had still to write become
undefined, and it releases its object with all ones (R328). None while those elements cannot be reached. -/
def State.abortStack (s : State) (x : Nat × EOp) : Option State :=
  let h := s.getStack x.1
  let s1 := s.setStack x.1 { h with redq := h.redq.filter (fun o => !sameOp o x.2), swq := h.swq.filter (fun o => !sameOp o x.2) }
  match x.2.kind with
  | .reduce .. =>
    let r := State.openRest 0 (opSize x.2.kind + 1) s1 x.2
    if allDone r.2 then some ((r.1.failOp (.red x.1) x.2 (aborted x.2) false).faultRelease (.red x.1) x.2) else none
  | .swreg base len true =>
    some ((if x.2.entered then s1.dropRegion x.1 { part := x.2.part, base := base, nwords := len } else s1).failOp (.red x.1) x.2 (aborted x.2) false)
  | _ => some (s1.failOp (.red x.1) x.2 (aborted x.2) false)
def State.chanOps (s : State) (k : KillCtx) : List (Nat × Nat × EOp) :=
  s.clusters.flatMap (fun kv => kv.2.chans.flatMap (fun ch => (ch.2.filter k.op).map (fun o => (kv.1, ch.1, o))))
def State.stackOps (s : State) (k : KillCtx) : List (Nat × EOp) :=
  s.stks.flatMap (fun kv => ((kv.2.redq ++ kv.2.swq).filter k.op).map (fun o => (kv.1, o)))
/-- Every operation of the context is aborted. -/
def State.abortOps (s : State) (k : KillCtx) : Option State :=
  (s.stackOps k).foldl (fun t x => t.bind (fun u => u.abortStack x)) (some ((s.chanOps k).foldl State.abortChan s))

-- stores and posted atomics

/-- The entry's store or posted atomic is discarded: it has not been performed at its home. -/
def discardedEntry (e : JEntry) : Bool :=
  (match e.kind with
    | .store | .amo _ => true
    | _ => false) && e.stage != .ack
/-- Stores and posted atomics that the context loses. -/
def State.lostStores (s : State) (k : KillCtx) : Nat :=
  (s.units.map (fun kv => (kv.2.journal.filter (fun je => k.entry kv.1 je.2 && discardedEntry je.2)).length)).sum
    + ((s.clusters.map (fun kv => (kv.2.aeReqs.filter (fun r => k.req r && !r.returning && r.posted.isNone && !isRelease r.op)).length)).sum)
/-- What KILL takes from one unit: journal entries, send queue, reply slots, queued messages, the causes of freed entries. -/
def killUnit (k : KillCtx) (now v : Nat) (x : Unit) : Unit :=
  let mine := x.part == k.p && k.owns v x.firing.lid x.firing.fid
  let freed := fun (a : Async) => (a.code == 0x0B || a.code == 0x0C) && k.entry v (look jentry0 x.journal a.jidx)
  { x with journal := x.journal.filter (fun je => !k.entry v je.2),
           sendq := x.sendq.filter (fun o => !(o.msg.part == k.p && k.owns v o.msg.lid o.fid)),
           slots := if mine then freeSlots x.slots else x.slots,
           inbox := x.inbox.filter (fun m => !k.queued m),
           asyncs := x.asyncs.filter (fun a => !freed a),
           idleSince := if x.inbox.any k.queued ∨ x.journal.any (fun je => k.entry v je.2) then now else x.idleSince }
/-- Requests and holds that the context leaves at engines and pseudo-channels. -/
def killCluster (k : KillCtx) (_ : Nat) (x : Cluster) : Cluster := { x with aeReqs := x.aeReqs.filter (fun r => !k.req r) }
/-- The context entered ALLBANK on the pseudo-channel. -/
def KillCtx.holds (k : KillCtx) (h : Pch) : Bool :=
  h.allbank && (h.holder.map (·.1)) == some k.p && (if k.all then h.hold.1 == k.lid else h.hold == (k.lid, k.fid))
def KillCtx.cmd (k : KillCtx) (b : BankCmd) : Bool := b.part == k.p && k.owns b.src b.lid b.fid
/-- A BGET that a suspended partition's scratchpad keeps waiting (R364), and what stands behind it, complete no more. -/
def State.cmdStuck (s : State) (cmds : List BankCmd) (b : BankCmd) : Bool :=
  (cmds.takeWhile (fun x => x.ord != b.ord) ++ [b]).any (fun x => match x.kind with
    | .bget dst => (s.getPorts x dst).any (fun q => s.bursting q.1 q.2)
    | _ => false)
/-- A bank command of the context, or of a hold it entered, has still to complete (R146, R301). -/
def State.bankBusy (s : State) (k : KillCtx) : Bool :=
  s.stks.any (fun kv => kv.2.pch.any (fun pc => pc.2.cmds.any (fun b => (k.cmd b || (k.holds pc.2 && b.held)) && !s.cmdStuck pc.2.cmds b)))
def killPch (k : KillCtx) (_ : Nat) (h : Pch) : Pch :=
  let h1 := { h with cmds := h.cmds.filter (fun b => !(k.cmd b || (k.holds h && b.held))) }
  if k.holds h then { h1 with allbank := false, holder := none, hold := (0, 0) } else h1
def killStack (k : KillCtx) (_ : Nat) (h : Stack) : Stack :=
  { h with aeReqs := h.aeReqs.filter (fun r => !k.req r), pch := mapS pch0 (killPch k) h.pch }
def killLaw (k : KillCtx) (_ : Nat) (l : LawUnit) : LawUnit := { l with posts := l.posts.filter (fun q => !k.queued q.msg) }
/-- Messages of queued firings, wherever they wait. -/
def State.queuedMsgs (s : State) (k : KillCtx) : List Msg :=
  (s.units.flatMap (fun kv => kv.2.inbox) ++ s.flights.map (·.msg) ++ s.pens.flights.map (·.msg)).filter k.queued
/-- An accepted timed store of the context; under scope 1 an evicted writer's too. -/
def State.killVis (s : State) (k : KillCtx) (v : Vis) : Bool :=
  v.part == k.p && (if v.src < 2 ^ 16 then k.entry v.src (s.entry v.src v.j) else k.all && v.lid == k.lid)
/-- A message or reply of the context in a pen (R366): one that it sent, one that would start a firing of it, a reply to it. -/
def KillCtx.penned (k : KillCtx) (f : Flight) : Bool := f.msg.part == k.p && (k.queued f.msg || k.owns f.src f.msg.lid f.fid)
/-- A switch has stopped the partition, or is past its T: what is under way of it stands in the pens, or goes into them at the switch's next
step (R360). -/
def State.penning (s : State) (p : Nat) : Bool :=
  s.suspended p || s.switches.any (fun sw => sw.stopped.isNone && sw.outP == p && decide (sw.t ≤ (s.atimeOf 0).toNat))
def State.killReply (s : State) (k : KillCtx) (r : ReplyMsg) : Bool :=
  let f := (s.getUnit r.dst).firing
  r.part == k.p && (s.getUnit r.dst).part == k.p && k.owns r.dst f.lid f.fid
/-- The context's entries, messages and requests are gone; callers of queued firings get status 1 (R138). -/
def State.clearCtx (s : State) (k : KillCtx) : State :=
  let s1 := { s with
    cur := killUnit k s.now s.focus s.cur, others := mapS unit0 (killUnit k s.now) s.others,
    clusters := mapS cluster0 (killCluster k) s.clusters, stks := mapS stack0 (killStack k) s.stks, laws := mapS law0 (killLaw k) s.laws,
    flights := s.flights.filter (fun f => !(if s.penning k.p then k.penned f else k.queued f.msg)),
    replies := if s.penning k.p then s.replies.filter (fun r => !s.killReply k r) else s.replies,
    releases := s.releases.filter (fun r => !(r.part == k.p && k.owns r.src r.lid r.fid)),
    pens := { flights := s.pens.flights.filter (fun f => !k.penned f), replies := s.pens.replies.filter (fun r => !s.killReply k r) },
    vis := s.vis.filter (fun v => !s.killVis k v) }
  (s.queuedMsgs k).foldl (fun t m => if m.kind = 1 ∨ m.kind = 2 then
    t.sendReply { part := m.part, node := m.onode, ounit := m.ounit, slot := m.slot, gen := m.gen } 1 [0x21, 0, 0, 0, 0, 0] else t) s1
/-- What some units wait for at their homes is cancelled; the objects they waited for are scanned again (R167, R168, R306). -/
def State.dropWaits (s : State) (vs : List Nat) : State :=
  let of := fun (v : Nat) => vs.contains v
  let objs := (engines.flatMap (fun e => ((s.waitersOf e).filter (fun w => of w.src)).map (fun w => (e, w.loc)))).eraseDups
  let s1 := { s with
    clusters := mapS cluster0 (fun _ x => { x with waiters := x.waiters.filter (fun w => !of w.src), aeReqs := x.aeReqs.filter (fun r => !(of r.src && r.returning)) }) s.clusters,
    stks := mapS stack0 (fun _ x => { x with waiters := x.waiters.filter (fun w => !of w.src), aeReqs := x.aeReqs.filter (fun r => !(of r.src && r.returning)),
                                             entering := x.entering.filter (fun e => !of e.2.2) }) s.stks }
  objs.foldl (fun t q => t.scan q.1 q.2) s1
/-- Another firing of the launch ends as if by FIN in S mode (R147), once what it waited for has been cancelled. -/
def State.endOther (s : State) (v : Nat) : Option State := (s.answerOwed v 1 0x21 0).finS v
def State.endOthers : State → List Nat → Option State
  | s, [] => some s
  | s, v :: vs => match s.endOther v with
    | none => none
    | some t => State.endOthers t vs
/-- Other units that run a firing of the launch. One that a switch has stopped ends when its partition resumes (R366). -/
def State.othersOf (s : State) (k : KillCtx) : List Nat :=
  let runs := fun (r : Run) => match r with
    | .running | .frozen _ => true
    | _ => false
  if k.all then (s.units.filter (fun kv => kv.1 != k.u && kv.2.part == k.p && kv.2.firing.lid == k.lid && runs kv.2.run)).map (·.1) else []
/-- The launch of a context of scope 1 has been killed: its WIDs are gone (R146, R147). -/
def State.killLaunch (s : State) (k : KillCtx) : State :=
  match s.getLaunch k.p k.lid with
  | some l => if k.all then (s.dropBacklog k.p k.lid).setLaunch k.p { l with st := .killed } else s
  | none => s
/-- Every step of R146 up to kill-done; none while an engine has not aborted its operations, or a firing's end must wait for a post. -/
def State.killAll (s : State) (k : KillCtx) : Option State :=
  (s.abortOps k).bind (fun s0 =>
    let s1 := (s0.clearCtx k).answerOwed k.u 1 0x21 0
    let vs := s1.othersOf k
    ((if vs.isEmpty then s1 else s1.dropWaits vs).endOthers vs).map (fun t => t.killLaunch k))
/-- The freeze of a firing whose launch was killed while its partition was stopped, and that has not ended yet (R366). -/
def killedRun : Nat := 0x21
def State.killCtx (s : State) (u : Nat) (all : Bool) : KillCtx :=
  let x := s.getUnit u
  { u := u, p := x.part, lid := x.firing.lid, fid := x.firing.fid, all := all }
/-- x[rd] of KILL. -/
def killResult (aborted lost : Nat) : Word := BitVec.ofNat 64 (min aborted (2 ^ 32 - 1) + min lost (2 ^ 32 - 1) * 2 ^ 32)
/-- KILL starts, and stalls until kill-done (R146). -/
def execKill (rd rs1 : Reg) (s : State) : Out :=
  guardS (.kill rd rs1) s (
    match s.cur.wait with
    | .value v => .next (s.done 1 rd v)
    | .killing _ => .next s
    | _ => .next (s.stall (.killing ((s.x rs1).getLsbD 0))))
/-- Kill-done of the KILL on unit u. -/
def execKillDone (u : Nat) (s : State) : Out :=
  match (s.getUnit u).wait with
  | .killing all =>
    let k := s.killCtx u all
    if s.bankBusy k then idle s
    else
    let n := (s.chanOps k).length + (s.stackOps k).length
    (match s.killAll k with
    | some t => .next (t.setUnit u { t.getUnit u with wait := .value (killResult n (s.lostStores k)) })
    | none => idle s)
  -- a firing of a killed launch that could not end at resume (R366)
  | _ => if (s.getUnit u).run = .frozen killedRun then .next ((s.endOther u).getD s) else idle s

-- place tables (R18-R20, R148, R149)

/-- The KIND that fits a node (R20, R24). -/
def kindOfNode (n : Nat) : Option Nat :=
  if isClusterNode n then some 0
  else if isStackNode n then some 1
  else if isHostNode n then some 2
  else if isPeerNode n then some 3
  else if isStripeNode n then some 4
  else none
/-- The TARGET bits a KIND uses (R18). -/
def targetBits : Nat → Nat
  | 0 => 7 | 1 => 3 | 2 => 1 | 3 => 4 | 4 => 4 | _ => 16
/-- A node entry that R20 admits at node n. -/
def nodeEntryOk (n : Nat) (v : Word) : Bool :=
  let e := v.setWidth 32
  v.extractLsb' 32 32 == 0#32 && e.extractLsb' 16 12 == 0#12 && decide (nodeKind e ≤ 4) && decide (nodeTarget e < 2 ^ targetBits (nodeKind e))
    && (!nodeValid e || kindOfNode n == some (nodeKind e))
/-- Two present logical cores of a core map share a column (R20). -/
def mapClashes (v : Word) (present : BitVec 16) : Bool :=
  let col := fun k => v.toNat / 16 ^ k % 16
  (List.range 16).any (fun i => (List.range 16).any (fun j => decide (i < j) && present.getLsbD i && present.getLsbD j && col i == col j))
/-- A stripe-set entry with 1 to 8 stacks and no other bit set (R148). -/
def stripeOk (v : Word) : Bool :=
  let n := v.toNat % 16
  decide (1 ≤ n) && decide (n ≤ 8) && v.toNat % 2 ^ 8 == n && decide (v.toNat < 2 ^ (8 + 3 * n))
/-- PLACEW's write for the selector a and the value v: its status and the state after it (R149). -/
def State.placeWrite (s : State) (a v : Word) : Nat × State :=
  let p := (a.extractLsb' 16 4).toNat
  let table := (a.extractLsb' 12 2).toNat
  let i := (a.extractLsb' 0 8).toNat
  let x := s.getPart p
  if !s.suspended p then (1, s)
  else if table = 3 ∨ (table = 1 ∧ i > 127) ∨ (table = 2 ∧ i > 15) then (4, s)
  else if a.extractLsb' 20 44 ≠ 0#44 ∨ a.extractLsb' 14 2 ≠ 0#2 ∨ a.extractLsb' 8 4 ≠ 0#4 then (2, s)
  else if table = 0 then
    (if nodeEntryOk i v then (0, s.setPart p { x with nodes := put node0 x.nodes i (v.setWidth 32) }) else (2, s))
  else if table = 1 then
    (if mapClashes v (s.presentMask p i) then (3, s) else (0, s.setPart p { x with cores := put cores0 x.cores i v }))
  else if stripeOk v then (0, s.setPart p { x with stripes := put word0 x.stripes i v })
  else (2, s)
/-- PLACEW (R148). -/
def execPlacew (rd rs1 rs2 : Reg) (s : State) : Out :=
  guardM (.placew rd rs1 rs2) s (
    let r := s.placeWrite (s.x rs1) (s.x rs2)
    .next (r.2.done 1 rd (BitVec.ofNat 64 r.1)))

end Sys2Proof.Machine
end

