-- ==== Sys2Proof/Machine/Gang.lean ====
section
/-! DEFINITION. The gang switch: stopping, pens, eviction and resume (spec 23_preemption R359-R366; R21, R162). -/

namespace Sys2Proof.Machine

-- stopping (R359, R360)

/-- A stop may fall at the instruction that waits for w; an answer, a law instruction or a KILL completes first. -/
def stoppable (w : Wait) : Bool :=
  match w with
  | .value _ | .refusal _ _ _ | .law _ | .killing _ => false
  | _ => true
/-- A switch is due to stop unit u's partition. -/
def State.stopDue (s : State) (u : Nat) (sw : Switch) : Bool :=
  sw.stopped.isNone && sw.outP == (s.getUnit u).part && decide (sw.t ≤ (s.atimeOf (dieOf u)).toNat)
/-- The unit in focus must stop at this instruction boundary. -/
def State.mustStop (s : State) : Bool := s.cur.run == .running && stoppable s.cur.wait && s.switches.any (s.stopDue s.focus)
/-- A wait at a home is cancelled (R168, R306). -/
def State.cancelWait (s : State) (u : Nat) : State :=
  match execAcquireCancel u s with
  | .next t => t
  | _ => s
/-- A returning atomic that its engine has not applied is taken back: it re-executes from its start (R359). -/
def State.cancelAtomic (s : State) (u : Nat) : State :=
  let keep := fun (l : List AReq) => l.filter (fun r => !(r.src == u && r.returning && !isAcquire r.op))
  let tickets := fun (l : List Ticket) => l.filter (fun t => t.req != .atomic u)
  { s with clusters := mapS cluster0 (fun _ x => { x with aeReqs := keep x.aeReqs, tickets := tickets x.tickets }) s.clusters,
           stks := mapS stack0 (fun _ x => { x with aeReqs := keep x.aeReqs, tickets := tickets x.tickets }) s.stks }
/-- Unit u stops (R359): its instruction will re-execute; a WFE will find the latch set (R145, R365). An acquire or BMODE that its home
has not cancelled yet goes on. -/
def State.stopUnit (s0 : State) (u : Nat) : State :=
  let s1 := s0.cancelWait u
  let s := match (s1.getUnit u).wait with
    | .atomic _ => s1.cancelAtomic u
    | _ => s1
  let x := s.getUnit u
  match x.wait with
  | .value _ | .parked _ | .bmode _ _ => s
  | w =>
    let ev := match w with
      | .event _ => true
      | _ => false
    s.setUnit u { x with run := .stopped true, wait := .none, tile := {}, latch := x.latch || ev }
/-- What is under way of a partition goes into the pens, after what stands there; its posts leave their queues (R360). -/
def State.pen (s : State) (p : Nat) : State :=
  let posts := s.laws.flatMap (fun kv => (kv.2.posts.filter (fun q => q.msg.part == p)).map (fun q =>
    { src := lawSender kv.1, dst := 0, dest := .core q.dest, msg := q.msg : Flight }))
  { s with
    flights := s.flights.filter (fun f => f.msg.part != p), replies := s.replies.filter (fun r => r.part != p),
    laws := mapS law0 (fun _ l => { l with posts := l.posts.filter (fun q => q.msg.part != p) }) s.laws,
    pens := { flights := s.pens.flights ++ s.flights.filter (fun f => f.msg.part == p) ++ posts,
              replies := s.pens.replies ++ s.replies.filter (fun r => r.part == p) } }
/-- The switch whose stop time has come on CD0's clock (log 57) and that has not stopped its gang. -/
def State.dueStop (s : State) : Option Switch := s.switches.find? (fun sw => sw.stopped.isNone && decide (sw.t ≤ (s.atimeOf 0).toNat))
def replaceSwitch (l : List Switch) (a b : Switch) : List Switch := l.map (fun x => if x = a then b else x)
/-- The gang of the due switch stops, and its traffic is penned; when every unit has stopped, the switch goes on. -/
def execGangStop (s : State) : Out :=
  match s.dueStop with
  | none => idle s
  | some sw =>
    let running := fun (t : State) => (t.units.filter (fun kv => kv.2.part == sw.outP && kv.2.run == .running)).map (·.1)
    let s1 := ((running s).foldl (fun t u => if stoppable (t.getUnit u).wait && t.stopDue u sw then t.stopUnit u else t) s).pen sw.outP
    if !(running s1).isEmpty then .next s1
    else
      let s2 := s1.setPart sw.outP { s1.getPart sw.outP with suspended := true }
      .next { s2 with switches := replaceSwitch s2.switches sw { sw with stopped := some s2.now },
                      saved := s2.saved.filter (fun v => v.part != sw.outP) ++ [{ part := sw.outP, since := sw.t }] }

-- the saved context (R361-R363)

def dwBytes (l : List Word) : List Byte := l.flatMap (fun w => bytesOfNat 8 w.toNat)
/-- A message as R14 and R15 lay it out. -/
def msgWords (m : Msg) : List Word :=
  let hdr := m.kind * 2 ^ 60 + m.onode * 2 ^ 48 + m.ounit * 2 ^ 36 + m.slot * 2 ^ 32 + m.gen * 2 ^ 24 + m.lid * 2 ^ 16 + m.part * 2 ^ 12
  BitVec.ofNat 64 hdr :: m.hpc :: (List.range 6).map (fun i => m.pay.getD i 0)
/-- The flag and privilege doubleword (R363). -/
def flagDw (u : Unit) : Word :=
  BitVec.ofNat 64 ((if u.eng.efault then 1 else 0) + (if u.latch then 2 else 0) + (if u.asyncs.isEmpty then 0 else 4) + (if u.priv = .s then 16 else 0))
/-- mreply of a unit (R97). -/
def mreplyDw (u : Unit) : Word :=
  let bits := fun (f : Slot → Bool) => (List.range 16).foldl (fun n k => n + (if f (look slot0 u.slots k) then 2 ^ k else 0)) 0
  BitVec.ofNat 64 (u.late.toNat * 2 ^ 32 + bits (fun x => x.st == .ready) * 2 ^ 16 + bits (fun x => x.st != .free))
/-- The doublewords at 0x100 of a core context (R363). -/
def csrArea (u : Unit) : List Word :=
  [u.t.tstatus ||| (if u.asyncs.isEmpty then 0 else 4), u.t.tvec, u.t.tpc, u.t.tcause, u.t.tval, u.t.tjidx, u.t.tinst, u.t.tscratch,
   u.lp0.start, u.lp0.last, u.lp0.count, u.lp1.start, u.lp1.last, u.lp1.count, u.rcto, u.rctl, u.firing.wid, BitVec.ofNat 64 u.firing.lid,
   u.firing.stage, mreplyDw u, BitVec.ofNat 64 u.eng.issued, BitVec.ofNat 64 u.eng.finished,
   (u.ten.cyc ++ u.ten.mmas ++ 0#8 ++ u.ten.nan ++ u.ten.inf : BitVec 48).setWidth 64, flagDw u, 0, 0, 0, 0, 0, 0, 0, 0]
def bytes4 (l : List (BitVec 32)) : List Byte := l.flatMap (fun w => bytesOfNat 4 w.toNat)
/-- The first 0x1000 bytes of a core context: registers, CSRs, formats, completion objects, journal. -/
def regArea (u : Unit) : List Byte :=
  dwBytes (u.pc :: (u.x.toList.drop 1)) ++ dwBytes (csrArea u) ++ dwBytes ((List.range 128).map (look word0 u.bfmt))
    ++ dwBytes ((List.range 16).map (look word0 u.eng.bars) ++ (List.range 8).map (look word0 u.eng.cbms) ++ List.replicate 40 0)
    ++ dwBytes ((List.range 256).map (fun i => jentryDw (look jentry0 u.journal (i / 4)) (i % 4)))
def inboxArea (u : Unit) : List Byte :=
  dwBytes ((List.range 64).flatMap (fun i => match u.inbox[i]? with
    | some m => msgWords m
    | none => List.replicate 8 0))
/-- The send queue: 64 bytes of envelope, whose layout the spec does not give, before each message. -/
def sendArea (u : Unit) (envelopes : List Byte) : List Byte :=
  (List.range 16).flatMap (fun i => (envelopes.drop (64 * i)).take 64 ++ dwBytes (match u.sendq[i]? with
    | some o => msgWords o.msg
    | none => List.replicate 8 0))
def tensorArea (u : Unit) : List Byte :=
  bytes4 ((List.range 1024).map (look lane0 u.ten.v)) ++ bytes4 ((List.range 4096).map (look lane0 u.ten.acc))
/-- The whole context of core u; reply slots, envelopes, visibility queue and Rooster, whose layout the spec does not give, hold free
bytes (log 16, log 58). -/
def State.context (s : State) (u : Nat) : List Byte × State :=
  let x := s.getUnit u
  let a := s.freeBytes 0x400
  let b := a.2.freeBytes 0x400
  let c := b.2.freeBytes 0x800
  let d := c.2.freeBytes 0x8000
  (regArea x ++ a.1 ++ inboxArea x ++ sendArea x b.1 ++ c.1 ++ tensorArea x ++ d.1 ++ List.replicate 0xFC00 0
    ++ s.readBytes (fun i => scratchKey u i) 0x80000 ++ s.readBytes (fun i => weightKey u i) 0x40000, d.2)
def contextAt (base : Word) (name : Nat) : Word := base + BitVec.ofNat 64 (name * 0xE0000)
def clusterAt (base : Word) (c : Nat) : Word := base + BitVec.ofNat 64 (0x70000000 + 0x2000 * c)
/-- A core that serves no partition; its divider, switch and duty stay (R400, R401, R403). -/
def noPart : Nat := 16
def emptyCore (u : Unit) (now : Nat) : Unit := { part := noPart, div := u.div, powered := u.powered, fduty := u.fduty, idleSince := now }
def addSaved (l : List Saved) (p : Nat) (f : Saved → Saved) : List Saved := l.map (fun v => if v.part = p then f v else v)

-- eviction (R162, R361, R364)

/-- An engine operation or a bank command of core u that runs to completion first (R359). -/
def State.evictBusy (s : State) (u p : Nat) : Bool :=
  s.stks.any (fun kv => kv.2.redq.any (fun o => o.part == p && o.src == some u)
    || kv.2.pch.any (fun pc => pc.2.cmds.any (fun b => b.part == p && b.src == u && !s.cmdStuck pc.2.cmds b)))
/-- A posted atomic or release at an engine goes back on its way to its home. -/
def State.pullBack (s : State) (u : Nat) : State :=
  let mine := fun (r : AReq) => r.src == u && r.posted.isSome
  let back := fun (e : JEntry) => if e.st = .issued ∧ e.stage = .atHome ∧ isAmoRel e.kind then { e with stage := .toHome } else e
  let t := { s with clusters := mapS cluster0 (fun _ x => { x with aeReqs := x.aeReqs.filter (fun r => !mine r) }) s.clusters,
                    stks := mapS stack0 (fun _ x => { x with aeReqs := x.aeReqs.filter (fun r => !mine r) }) s.stks }
  let x := t.getUnit u
  t.setUnit u { x with journal := mapS jentry0 (fun _ e => back e) x.journal }
/-- The tickets of core u's requests, and those of requests to its scratchpad, go: each is routed anew when it is sent again (R364). -/
def State.dropCoreTickets (s : State) (u p : Nat) : State :=
  let keep := fun (t : Ticket) => t.src != u
  { s with
    clusters := mapS cluster0 (fun c x => { x with tickets := x.tickets.filter (fun t => keep t && !(c == u / 16 && t.pch == 16 * p + u % 16)) }) s.clusters,
    stks := mapS stack0 (fun _ x => { x with tickets := x.tickets.filter keep }) s.stks }
/-- An accepted timed store for the scratchpad of core u, which is core `name` of partition p. -/
def visOfCore (u p name : Nat) (v : Vis) : Bool :=
  v.part == p && match v.site with
    | none => v.port == u
    | some t => match t.home with
      | .cluster _ lc => lc == name / 16 && t.off / 0x80000 == name % 16
      | _ => false
/-- Units as sources of partition p under new numbers. -/
def renamed (m : List (Nat × Nat)) (u : Nat) : Nat := ((m.find? (fun r => r.1 == u)).map (·.2)).getD u
/-- The writers of stores and tokens of partition p under new numbers. -/
def State.renameWriters (s : State) (p : Nat) (m : List (Nat × Nat)) : State :=
  let vis := fun (v : Vis) => if v.part = p then { v with src := renamed m v.src } else v
  { s with
    vis := s.vis.map vis,
    saved := s.saved.map (fun x => { x with units := x.units.map (fun z => { z with vis := z.vis.map vis }) }),
    tokens := s.tokens.map (fun t => if t.part = p then { t with src := renamed m t.src } else t),
    blocked := s.blocked.map (fun b => if b.part = p then { b with src := renamed m b.src } else b) }
/-- The homes that refuse sources of partition p, or that tokens go to, under new numbers. -/
def State.renameHomes (s : State) (p : Nat) (m : List (Nat × Nat)) : State :=
  { s with
    tokens := s.tokens.map (fun t => if t.part = p then { t with key := renamed m t.key } else t),
    blocked := s.blocked.map (fun b => if b.part = p then { b with key := renamed m b.key } else b) }
/-- Operations, locks, bank commands and messages that cores of partition p left behind, under the cores' new numbers. -/
def State.renameCores (s : State) (p : Nat) (m : List (Nat × Nat)) : State :=
  let op := fun (o : EOp) => if o.part = p then { o with src := o.src.map (renamed m) } else o
  let lock := fun (l : Lock) => if l.part = p then { l with owner := l.owner.map (renamed m) } else l
  let cmd := fun (b : BankCmd) => if b.part = p then { b with src := renamed m b.src } else b
  let flight := fun (f : Flight) => if f.msg.part = p then { f with src := renamed m f.src } else f
  { s with
    clusters := mapS cluster0 (fun _ x => { x with chans := mapS chan0 (fun _ q => q.map op) x.chans, locks := x.locks.map lock }) s.clusters,
    stks := mapS stack0 (fun _ x => { x with swq := x.swq.map op, redq := x.redq.map op,
                                             pch := mapS pch0 (fun _ h => { h with cmds := h.cmds.map cmd }) x.pch }) s.stks,
    flights := s.flights.map flight, pens := { s.pens with flights := s.pens.flights.map flight } }
/-- What leaves with core u, which is core n of the partition that goes out, and the state without it. -/
def State.takeCore (s0 : State) (u p n : Nat) : SavedUnit × State :=
  let s := (s0.pullBack u).dropCoreTickets u p
  let x := s.getUnit u
  let l := s.getLaw u
  let c := s.getCluster (u / 16)
  let own := fun (r : AReq) => r.src == u && r.posted.isNone && !r.returning
  let z : SavedUnit := { name := n, was := u, unit := { x with cache := [] }, rooster := l.rooster.filter (fun r => r.part == p),
                         swaps := l.swaps.filter (fun r => r.part == p), arms := l.arms.filter (fun r => r.part == p), vis := s.vis.filter (visOfCore u p n),
                         reqs := c.aeReqs.filter own, rels := s.releases.filter (fun r => r.src == u) }
  let t := ((s.setUnit u (emptyCore x s.now)).setLaw u { l with
    rooster := l.rooster.filter (fun r => r.part != p), swaps := l.swaps.filter (fun r => r.part != p), arms := l.arms.filter (fun r => r.part != p) }).setCluster (u / 16) { c with
      aeReqs := c.aeReqs.filter (fun r => !own r) }
  (z, { t with vis := t.vis.filter (fun v => !visOfCore u p n v), releases := t.releases.filter (fun r => r.src != u) })
/-- What leaves with a cluster whose present cores have all been evicted (R361): semaphores, fault records and templates; and what its
channels and its scheduler hold of the partition. -/
def savedCluster (x : Cluster) (p c pc : Nat) : SavedCluster :=
  { name := c, was := pc, sems := x.sems, frec := x.frec, templ := x.templ,
    chans := mapS chan0 (fun _ q => q.filter (fun o => o.part == p)) x.chans, locks := x.locks.filter (fun l => l.part == p),
    backlog := x.backlog.filter (fun b => b.part == p), ready := x.ready.filter (fun r => r.part == p),
    grants := (List.range 4).foldl (fun m i => put nat0 m i (look nat0 x.lastGrant (4 * p + i))) [],
    sources := (List.range 4).foldl (fun m i => put nat0 m i (look nat0 x.lastSource (4 * p + i))) [] }
def clearedCluster (x : Cluster) (p : Nat) : Cluster :=
  { x with sems := [], frec := [], templ := [],
           chans := mapS chan0 (fun _ q => q.filter (fun o => o.part != p)) x.chans, locks := x.locks.filter (fun l => l.part != p),
           backlog := x.backlog.filter (fun b => b.part != p), ready := x.ready.filter (fun r => r.part != p),
           lastGrant := (List.range 4).foldl (fun m i => put nat0 m (4 * p + i) 0) x.lastGrant,
           lastSource := (List.range 4).foldl (fun m i => put nat0 m (4 * p + i) 0) x.lastSource }
/-- Every present core of the cluster has been evicted. -/
def State.clusterOut (s : State) (p c : Nat) : Bool :=
  match s.saved.find? (fun v => v.part == p) with
  | some v => (List.range 16).all (fun k => !(s.presentMask p c).getLsbD k || v.units.any (fun x => x.name == 16 * c + k))
  | none => false
/-- A cluster without cores left is saved; none while its write must wait. -/
def State.evictCluster (s : State) (sw : Switch) (c : Nat) : Option State :=
  match s.physCluster sw.outP c with
  | some pc =>
    if s.clusterOut sw.outP c then
      let r := s.freeBytes 0x2000
      (r.2.writeGlobal 0 0 (clusterAt sw.ctxOut c) r.1).map (fun (w : State × Option RFail) =>
        let t := w.1
        let x := t.getCluster pc
        State.setCluster { t with saved := addSaved t.saved sw.outP (fun v => { v with clusters := v.clusters ++ [savedCluster x sw.outP c pc] }) } pc
          (clearedCluster x sw.outP))
    else some s
  | none => some s
/-- Core u is evicted (R361): its context goes to the save area, and the core serves no partition. The REDUCEs and bank commands it has
sent run to completion first (R359); the save area's pages wait out a burst. -/
def execCoreEvict (u : Nat) (s : State) : Out :=
  if u ≥ 2048 then .fault (.noSuchPlace u)
  else match s.switches.findSome? (fun sw => if sw.stopped.isSome then
      (sw.evict.find? (fun n => s.physCore sw.outP (n / 16) (n % 16) == some u)).map (fun n => (sw, n)) else none) with
    | none => idle s
    | some (sw, n) =>
      if s.evictBusy u sw.outP ∨ s.rangeHeld 0 (contextAt sw.ctxOut n) 0xE0000 ∨ s.rangeHeld 0 (clusterAt sw.ctxOut (n / 16)) 0x2000 then idle s
      else
        let c := s.context u
        match c.2.writeGlobal 0 0 (contextAt sw.ctxOut n) c.1 with
        | some (t, none) =>
          let zt := t.takeCore u sw.outP n
          let t1 := zt.2.renameWriters sw.outP [(u, evictedSrc n)]
          let z := { zt.1 with vis := zt.1.vis.map (fun v => { v with src := renamed [(u, evictedSrc n)] v.src }) }
          let t2 : State := { t1 with
            switches := replaceSwitch t1.switches sw { sw with evict := sw.evict.erase n },
            saved := addSaved t1.saved sw.outP (fun v => { v with units := v.units ++ [z] }) }
          (match t2.evictCluster sw (n / 16) with
          | some t3 => .next t3
          | none => idle s)
        | _ => idle s

-- restoring (R365)

/-- Doubleword i of an area of bytes. -/
def areaDw (bs : List Byte) (i : Nat) : Word := BitVec.ofNat 64 (recDw bs i)
def areaMap {α : Type} [DecidableEq α] (d : Nat → α) (n : Nat) (f : Nat → α) : SMap α := (List.range n).foldl (fun m i => put d m i (f i)) []
/-- A message from its eight doublewords; its envelope's target is as it was saved. -/
def msgFrom (w : Nat → Word) (was : Msg) : Msg :=
  let f := fun (lo n : Nat) => (w 0).toNat / 2 ^ lo % 2 ^ n
  { was with kind := f 60 4, onode := f 48 8, ounit := f 36 12, slot := f 32 4, gen := f 24 8, lid := f 16 8, part := f 12 4, hpc := w 1,
             pay := (List.range 6).map (fun i => w (2 + i)) }
/-- What bits 27:20 of an entry say it carries (R104). -/
def jkindFrom (b : Nat) : JKind := if b / 8 % 2 = 0 then .store else if b / 16 = 14 then .rel else if b / 16 = 15 then .relv else .amo (b / 16)
/-- A journal entry from its four doublewords; where its request stands is as it was saved. -/
def jentryFrom (w : Nat → Word) (was : JEntry) : JEntry :=
  let f := fun (lo n : Nat) => (w 3).toNat / 2 ^ lo % 2 ^ n
  if f 0 2 = 1 ∨ f 0 2 = 2 then
    { was with st := if f 0 2 = 1 then .issued else .refused, addr := w 0, data := w 1, time := w 2, node := f 8 8, size := 2 ^ f 16 3,
               timed := f 19 1 == 1, kind := jkindFrom (f 20 8), sub := f 32 8, accepted := f 40 1 == 1 }
  else {}
/-- A format register as a write leaves it (R90): an unassigned code reads as raw. -/
def fmtFrom (w : Word) : Word := if (w.extractLsb' 0 4).toNat > 8 then w &&& 0x10#64 else w &&& 0x1F#64
/-- A unit with what its context holds; reserved bits read 0 (R6), and what the context's layout does not show is as it was saved. -/
def loadContext (h : Unit) (bs : List Byte) (p now : Nat) : Unit :=
  let w := areaDw bs
  let c := fun i => w (32 + i)
  let ms := c 22
  let fl := c 23
  let w4 := fun (off i : Nat) => BitVec.ofNat 32 (natOfBytes ((bs.drop (off + 4 * i)).take 4))
  let st := c 0 &&& 0x301#64
  { h with
    part := p, pc := alignPc (w 0), x := Vector.ofFn (fun i => if i.val = 0 then 0 else w i.val), idleSince := now,
    t := { tstatus := if st &&& 0x300#64 = 0x300#64 then st &&& 1#64 else st, tvec := alignPc (c 1), tpc := c 2, tcause := c 3, tval := c 4,
           tjidx := c 5, tinst := c 6, tscratch := c 7 },
    lp0 := { start := c 8, last := c 9, count := c 10 }, lp1 := { start := c 11, last := c 12, count := c 13 },
    rcto := c 14 &&& 0xFFFFFFFFFF#64, rctl := c 15 &&& 1#64,
    firing := { h.firing with wid := c 16, lid := (c 17).toNat % 256, stage := c 18 &&& 0x1F7#64 }, late := (c 19).extractLsb' 32 16,
    latch := fl.getLsbD 1, priv := if fl.getLsbD 4 then .s else .u,
    bfmt := areaMap word0 128 (fun i => fmtFrom (w (64 + i))),
    journal := areaMap jentry0 64 (fun j => jentryFrom (fun d => w (256 + 4 * j + d)) (look jentry0 h.journal j)),
    inbox := h.inbox.mapIdx (fun i m => msgFrom (fun d => w (640 + 8 * i + d)) m),
    sendq := h.sendq.mapIdx (fun i o => { o with msg := msgFrom (fun d => w (1160 + 16 * i + d)) o.msg }),
    eng := { h.eng with issued := (c 20).toNat, finished := (c 21).toNat, efault := fl.getLsbD 0,
                        bars := areaMap word0 16 (fun i => w (192 + i)), cbms := areaMap word0 8 (fun i => w (208 + i)) },
    ten := { h.ten with cyc := ms.extractLsb' 32 16, mmas := ms.extractLsb' 16 16, nan := ms.extractLsb' 4 4, inf := ms.extractLsb' 0 4,
                        v := areaMap lane0 1024 (w4 0x3400), acc := areaMap lane0 4096 (w4 0x4400) } }
/-- The core that a saved unit returns to, when it is free for its partition. -/
def State.restoreAt (s : State) (p : Nat) (z : SavedUnit) : Option Nat :=
  match s.physCore p (z.name / 16) (z.name % 16) with
  | some u => let x := s.getUnit u
    if x.part = noPart ∨ (x.part = p ∧ x.run = .idle) then some u else none
  | none => none
/-- One saved unit is restored from the area at `base`; none when it cannot be read yet or has no core. -/
def State.restoreUnit (s : State) (p : Nat) (base : Word) (z : SavedUnit) : Option State :=
  if s.rangeHeld 0 (contextAt base z.name) 0xE0000 then none
  else match s.restoreAt p z, s.readGlobal 0 (contextAt base z.name) 0xE0000 with
  | some u, (.ok bs, t) =>
    let y := t.getUnit u
    let x := { loadContext z.unit bs p t.now with div := y.div, powered := true, fduty := y.fduty }
    let t1 := (t.writeBytes (fun i => scratchKey u i) ((bs.drop 0x20000).take 0x80000)).writeBytes (fun i => weightKey u i) (bs.drop 0xA0000)
    some ((t1.setUnit u x).setLaw u { t1.getLaw u with swaps := (t1.getLaw u).swaps ++ z.swaps, arms := (t1.getLaw u).arms ++ z.arms })
  | _, _ => none
def State.restoreAll (p : Nat) (base : Word) : State → List SavedUnit → Option State
  | s, [] => some s
  | s, z :: zs => match s.restoreUnit p base z with
    | none => none
    | some t => State.restoreAll p base t zs
/-- Batches that come to a cluster from another one, under numbers that it has not given (R341). -/
def renumbered (first : Nat) (l : List Pending) : List Pending :=
  let low := (l.map (·.batch)).foldl min ((l.map (·.batch)).headD 0)
  l.map (fun b => { b with batch := first + b.batch - low })
/-- A saved cluster returns to the cluster that its logical number now names. -/
def State.restoreCluster (p : Nat) (s : State) (z : SavedCluster) : State :=
  match s.physCluster p z.name with
  | some pc =>
    let x := s.getCluster pc
    let backlog := renumbered x.batches z.backlog
    s.setCluster pc { x with
      sems := z.sems, frec := z.frec, templ := z.templ,
      chans := z.chans.foldl (fun m kv => put chan0 m kv.1 (look chan0 m kv.1 ++ kv.2)) x.chans, locks := x.locks ++ z.locks,
      backlog := x.backlog ++ backlog, batches := (backlog.map (fun b => b.batch + 1)).foldl max x.batches, ready := x.ready ++ z.ready,
      lastGrant := (List.range 4).foldl (fun m i => put nat0 m (4 * p + i) (look nat0 z.grants i)) x.lastGrant,
      lastSource := (List.range 4).foldl (fun m i => put nat0 m (4 * p + i) (look nat0 z.sources i)) x.lastSource }
  | none => s
/-- A timed store restored with core u is back in its queue, or is rejected as late (R162). -/
def State.restoreVis (u lc : Nat) (s : State) (v : Vis) : State :=
  let w := match v.site with
    | none => { v with port := u }
    | some t => { v with port := 4096 + dieOf u, site := some { t with home := .cluster (u / 16) lc } }
  if (s.atimeOf (dieOf u)).toNat ≤ v.time.toNat + epsOf (s.entry v.src v.j).node then { s with vis := s.vis ++ [w] }
  else if v.src < 2 ^ 16 then (s.countLife 0x370 1).refuse v.src v.j 6
  else s
/-- A restored Rooster entry that is due posts at once, with LATE = 1 (R365); one whose post queue is full returns marked, as any other
returns unmarked. -/
def State.restoreRooster (u : Nat) (s : State) (r : Rooster) : State :=
  let back := fun (late : Bool) => s.setLaw u { s.getLaw u with rooster := (s.getLaw u).rooster ++ [{ r with late := late }] }
  if !s.roosterIsDue u r then back r.late
  else if !s.postRoom u then back true
  else match s.wordAt u r.part r.addr with
    | none => s
    | some w =>
      let v := s.wordOf w
      let e := s.lawEntry w.part v.law
      let th := s.thrEntry u w.part v.alarm
      if v.armed && !v.fired && v.gen == r.gen && e.valid && !v.top && th.valid then
        let tc := dueUnits e r
        let p := s.post w e th v tc (coordAt e (s.nowu u w.part e) v tc) 0 true
        p.1.putWord w p.2
      else s
/-- What else a saved unit left: its accepted stores, Rooster entries, requests and releases, at the core it returns to. -/
def State.restoreRest (p : Nat) (s : State) (z : SavedUnit) : State :=
  match s.physCore p (z.name / 16) (z.name % 16) with
  | none => s
  | some u =>
    let s1 := z.vis.foldl (State.restoreVis u (z.name / 16)) s
    let s2 := z.rooster.foldl (State.restoreRooster u) s1
    let c := s2.getCluster (u / 16)
    let s3 := s2.setCluster (u / 16) { c with aeReqs := c.aeReqs ++ z.reqs.map (fun r => { r with src := u }) }
    { s3 with releases := s3.releases ++ z.rels.map (fun r => { r with src := u }) }
/-- Every saved context of the partition is restored from the area at `base`, with what the units and clusters left. -/
def State.restore (s : State) (p : Nat) (base : Word) (v : Saved) : Option State :=
  (State.restoreAll p base s v.units).map (fun (t : State) =>
    let at_ := fun (z : SavedUnit) => t.physCore p (z.name / 16) (z.name % 16)
    let moved := v.clusters.filterMap (fun z => (t.physCluster p z.name).map (fun pc => (0x10 + z.was, 0x10 + pc)))
    let t1 := (v.clusters.foldl (State.restoreCluster p) t).renameHomes p moved
    let t2 := (t1.renameWriters p (v.units.filterMap (fun z => (at_ z).map (fun u => (evictedSrc z.name, u))))).renameCores p
      (v.units.filterMap (fun z => (at_ z).map (fun u => (z.was, u))))
    let units := ((t2.saved.find? (fun x => x.part == p)).map (·.units)).getD []
    units.foldl (State.restoreRest p) t2)

-- starting again (R365, R366)

/-- A unit of the partition that resumes: cores it names and that serve none join it; deadlines and the watchdog skip the suspension. At
a partition's start firmware writes tvec (R95). -/
def State.resumeUnit (s : State) (p : Nat) (since : Option Nat) (u : Nat) (x : Unit) : Unit :=
  let boot := (s.getPart p).boot
  if x.part = p then
    let d := (s.atimeOf 0).toNat - since.getD (s.atimeOf 0).toNat
    let run := match x.run with
      | .stopped true => Run.running
      | .stopped false => Run.idle
      | r => r
    let y := { x with run := run, firing := { x.firing with since := x.firing.since + d },
                      slots := mapS slot0 (fun _ sl => if sl.st = .waiting then { sl with deadline := sl.deadline + d } else sl) x.slots }
    if since.isNone then booted boot u y else y
  else if x.part = noPart ∧ ((s.logCluster p (u / 16)).bind (fun lc => s.logCore p lc (u % 16))).isSome then
    booted (some (boot.getD s.free)) u { x with part := p }
  else x
/-- The pens give back what they hold of a partition, in order, each destination translated anew (R21, R360). -/
def State.unpen (s0 : State) (p : Nat) : State :=
  let s := s0.pen p
  let mine := s.pens.flights.filter (fun f => f.msg.part == p)
  let replies := (s.pens.replies.filter (fun r => r.part == p)).filterMap (fun r =>
    (s.replyDst { part := p, node := r.node, ounit := r.ounit, slot := r.slot, gen := r.gen }).map (fun d => { r with dst := d }))
  let s1 := { s with pens := { flights := s.pens.flights.filter (fun f => f.msg.part != p), replies := s.pens.replies.filter (fun r => r.part != p) },
                     replies := s.replies ++ replies }
  mine.foldl (fun t f => match t.destUnit p f.dest with
    | some d => { t with flights := t.flights ++ [{ f with dst := d }] }
    | none => t.discard f.dst f.msg) s1
/-- Firings of launches that were killed meanwhile end as by FIN in S mode, at once or as soon as their tags' posts have room (R366). -/
def State.endKilled (s : State) (p : Nat) : State :=
  let runs := fun (r : Run) => match r with
    | .running | .frozen _ => true
    | _ => false
  let dead := (s.units.filter (fun kv => kv.2.part == p && runs kv.2.run && kv.2.firing.lid != 0 && match s.getLaunch p kv.2.firing.lid with
    | some l => l.st == .killed
    | none => true)).map (·.1)
  (if dead.isEmpty then s else s.dropWaits dead) |> dead.foldl (fun t v =>
    (t.endOther v).getD (t.setUnit v { t.getUnit v with run := .frozen killedRun, wait := .none, tile := {} }))
/-- Refusals that stand before the journals of a partition's units are taken at once, so that a trap comes before the first U instruction
(R365). -/
def State.takeRefusals (s : State) (p : Nat) : State :=
  (s.units.filter (fun kv => kv.2.part == p)).foldl (fun t kv => (List.range 64).foldl (fun w j =>
    match execJournalRefusal kv.1 j w with
    | .next y => y
    | _ => w) t) s
/-- The incoming partition starts (R365). -/
def State.resume (s : State) (sw : Switch) : Option State :=
  let p := sw.inP
  let old := s.saved.find? (fun v => v.part == p)
  let back := if sw.ctxIn = 0 then some s else s.restore p sw.ctxIn (old.getD { part := p, since := 0 })
  back.map (fun t =>
    let since := old.map (·.since)
    let x := t.getPart p
    let t0 := t.setPart p { x with suspended := false, resumed := t.now, boot := if since.isNone then some t.free else x.boot }
    let t1 : State := { t0 with cur := t0.resumeUnit p since t0.focus t0.cur, others := mapS unit0 (t0.resumeUnit p since) t0.others,
                                saved := t0.saved.filter (fun x => x.part != p), free := t0.free + 2305 }
    ((t1.unpen p).takeRefusals p).endKilled p)
/-- A switch is over: STATUS of its record (R358). -/
def State.endSwitch (s : State) (sw : Switch) (status : Nat) : State :=
  State.write { s with switches := s.switches.filter (· != sw) } (sw.place + 48) 8 (BitVec.ofNat 64 status)
/-- A switch whose gang has stopped and whose evictions are done brings in its partition, once TIN has come (R365). -/
def State.switchIn (s : State) (sw : Switch) : Option State :=
  let now := (s.atimeOf 0).toNat
  if sw.stopped.isNone ∨ !sw.evict.isEmpty then none
  else if sw.noin then some (s.endSwitch sw 1)
  else if now < sw.tin then none
  else (State.resume { s with switches := s.switches.filter (· != sw) } sw).map (fun t => t.endSwitch sw (if now = sw.tin then 1 else 6))
/-- The first switch that can brings in its partition; one whose TIN has not come, or whose contexts wait, keeps no other back (R365). -/
def execPartitionResume (s : State) : Out := .next ((s.switches.findSome? s.switchIn).getD s)

end Sys2Proof.Machine
end

