-- ==== Sys2Proof/Machine/Services.lean ====
section
/-! DEFINITION. Firmware services (spec 25_host_peers_security R392-R397; R23, R148, R149, R357, R358, R369, R380, R387) and ownership
(R393, R394). -/

namespace Sys2Proof.Machine

-- requests (R392)

def mailbox (x : Part) (link : Nat) : Mailbox := if link = 0 then x.mail0 else x.mail1
def setMailbox (x : Part) (link : Nat) (m : Mailbox) : Part := if link = 0 then { x with mail0 := m } else { x with mail1 := m }
/-- The management core, whose requests are firmware's own. -/
def mgmtCore : Nat := 2304
/-- The arguments of a pending request for service `num`: a mailbox's, a core's stalled in ECALL, or the management core's. -/
def State.askedArgs (s : State) (src : Requester) (num : Nat) : Option (List Word) :=
  match src with
  | .mailbox p link =>
    let m := mailbox (s.getPart p) link
    if p < 16 ∧ link < 2 ∧ m.asked ∧ (look word0 m.dw 0).toNat = num then some ((List.range 6).map (fun i => look word0 m.dw (i + 1))) else none
  | .unit u =>
    let x := s.getUnit u
    if (u = mgmtCore ∨ x.wait = .service) ∧ (getX x.x 17).toNat = num then some ((List.range 6).map (fun i => getX x.x (Fin.ofNat 32 (10 + i)))) else none
/-- The status goes to mailbox doubleword 0, or to a0. -/
def State.answer (s : State) (src : Requester) (status : Nat) : State :=
  let v := BitVec.ofNat 64 status
  match src with
  | .mailbox p link =>
    let x := s.getPart p
    let m := mailbox x link
    s.setPart p (setMailbox x link { dw := put word0 m.dw 0 v, asked := false })
  | .unit u =>
    let x := s.getUnit u
    s.setUnit u (if u = mgmtCore then { x with x := setX x.x 10 v } else { x with wait := .value v })
def State.reqPart (s : State) (src : Requester) : Nat := match src with
  | .mailbox p _ => p
  | .unit u => (s.getUnit u).part
/-- The PF of the owner asks. -/
def State.pfOwner (s : State) (src : Requester) : Bool := match src with
  | .mailbox 0 link => s.dev.own == some link
  | _ => false
/-- One request is served: k gives its status and the state after it. A retired device accepts only ATTEST (R398), a device in RECOVERY
none (R397). -/
def service (num : Nat) (src : Requester) (s : State) (k : List Word → Nat × State) : Out :=
  match s.askedArgs src num with
  | none => idle s
  | some args =>
    if s.dev.recovery ∨ (s.dev.lcs = LCS_RETIRED ∧ num ≠ 8) then .next (s.answer src 2)
    else
      let r := k args
      .next (r.2.answer src r.1)
/-- A service only for the PF of the owner. -/
def ownerService (num : Nat) (src : Requester) (s : State) (k : List Word → Nat × State) : Out :=
  service num src s (fun a => if s.pfOwner src then k a else (2, s))
def arg (a : List Word) (i : Nat) : Word := a.getD i 0
/-- The arguments from i on are 0. -/
def restZero (a : List Word) (i : Nat) : Bool := (a.drop i).all (· == 0)
/-- Partition and entry index of an argument (R392): bits 3:0 and 12:8. -/
def partIndex (w : Word) : Option (Nat × Nat) :=
  if w.extractLsb' 13 51 = 0#51 ∧ w.extractLsb' 4 4 = 0#4 then some (w.toNat % 16, (w.extractLsb' 8 5).toNat) else none

-- what a request points at

/-- Where a requester's address lies: a global address of its partition, or host memory behind its link. -/
inductive Ptr
  | glob (a : Word)
  | host (k : Nat)
  deriving DecidableEq, Repr
def ptrOf (src : Requester) (a : Word) : Option Ptr :=
  if a.toNat / 2 ^ 56 = 1 then some (.glob a)
  else match src with
    | .mailbox _ link => if a.toNat < 2 ^ 48 then some (.host (hostKey link a.toNat)) else none
    | .unit _ => none
/-- A host or stack address, as SHOOT's descriptor has one (R392). -/
def hostOrStack (t : Ptr) : Bool :=
  match t with
  | .host _ => true
  | .glob a => isHostNode (a.toNat / 2 ^ 48 % 256) || isStackNode (a.toNat / 2 ^ 48 % 256)
def State.readPtr (s : State) (p : Nat) (t : Ptr) (n : Nat) : Option (List Byte) :=
  match t with
  | .host k => some (s.readBytes (fun i => k + i) n)
  | .glob a => (s.readGlobal p a n).1.toOption
def State.writePtr (s : State) (p : Nat) (t : Ptr) (off : Nat) (bs : List Byte) : Option State :=
  match t with
  | .host k => some (s.writeBytes (fun i => k + off + i) bs)
  | .glob a => match s.writeGlobal p 0 (a + BitVec.ofNat 64 off) bs with
    | some (t, none) => some t
    | _ => none
/-- What a request points at meets a burst, a suspended partition or a link that is down, so that the request waits. -/
def State.ptrHeld (s : State) (p : Nat) (t : Option Ptr) (n : Nat) : Bool :=
  match t with
  | some (.glob a) => s.rangeHeld p a n
  | _ => false

-- SWITCH (R357, R358)

/-- The names of the cores that a table of halfwords asks to evict. -/
def evictNames (bs : List Byte) : List Nat :=
  (List.range 2048).filter (fun n => (natOfBytes ((bs.drop (2 * (n / 16))).take 2)).testBit (n % 16))
/-- The status of a switch record whose doublewords are w, and the switch it asks for. -/
def State.checkSwitch (s : State) (k : Nat) (w : Nat → Word) : Except Nat Switch :=
  let out := (w 5).toNat % 16
  let inn := (w 5).toNat / 16 % 16
  let noin := (w 5).getLsbD 8
  let table := (s.readGlobal 0 (w 2) 256).1
  if (w 0).toNat < (s.atimeOf 0).toNat + 80000 ∨ (w 1).toNat < (w 0).toNat then .error 2
  else if (List.range 12).any (fun d => s.clkState d == 0) then .error 3
  else if s.switches.any (fun o => o.outP == out || (!o.noin && o.inP == out) || (!noin && (o.outP == inn || (!o.noin && o.inP == inn)))) then .error 4
  else if (w 2).extractLsb' 0 12 ≠ 0#12 ∨ (w 5).extractLsb' 9 55 ≠ 0#55 ∨ w 7 ≠ 0 ∨ (w 3).toNat % 2 ^ 21 ≠ 0 ∨ (w 4).toNat % 2 ^ 21 ≠ 0
    ∨ (out = inn ∧ !noin) then .error 5
  else match table with
    | .error _ => .error 5
    | .ok bs =>
      let names := evictNames bs
      if names.any (fun n => (s.physCore out (n / 16) (n % 16)).isNone) then .error 5
      else .ok { t := (w 0).toNat, tin := (w 1).toNat, evict := names, ctxOut := w 3, ctxIn := w 4, noin := noin, inP := inn, outP := out, place := k }
/-- The table that EVMAP names is read when no burst runs there. -/
def execServiceSwitch (src : Requester) (s : State) : Out :=
  let held : Bool := match (s.askedArgs src 1).bind (fun a => ptrOf src (arg a 0)) with
    | some (.host k) => s.rangeHeld 0 (s.read (k + 16) 8) 256
    | _ => false
  if held && s.pfOwner src && !s.dev.recovery && s.dev.lcs != LCS_RETIRED then idle s else
  ownerService 1 src s (fun a =>
    match ptrOf src (arg a 0), restZero a 1 with
    | some (.host k), true =>
      (match s.checkSwitch k (fun i => s.read (k + 8 * i) 8) with
      | .ok sw => (0, State.write { s with switches := s.switches ++ [sw] } (k + 48) 8 0)
      | .error e => (3, s.write (k + 48) 8 (BitVec.ofNat 64 e)))
    | _, _ => (3, s))

-- SHOOT (R379, R380)

/-- The dies whose unit may translate for a node (R368, R380). -/
def State.nodeDies (s : State) (p node : Nat) : List Nat :=
  if isStripeNode node then ((s.stripe p (nodeTarget (s.node p node) % 16)).filterMap (s.physStack p)).map (· + 4)
  else if isStackNode node || isHostNode node then
    match s.home p node 0 with
    | some h => [homeDie h]
    | none => []
  else []
/-- Steps 1 to 3 of a shoot-down at one die: G rises, entries go, walks under an older G are discarded and begin again. -/
def State.shootDie (s : State) (p node lo n d : Nat) : State :=
  let x := s.getDie d
  let s1 := s.setDie d { x with gens := put nat0 x.gens p ((look nat0 x.gens p + 1) % 2 ^ 64),
                                tc := x.tc.filter (fun e => !(e.part == p && e.node == node && overlaps e.base e.size lo n)) }
  s1.setDie d { s1.getDie d with walks := x.walks.map (fun w => if w.part = p ∧ w.gen.isSome then s1.beginWalk d w else w) }
/-- A global address lies in a range of a node. -/
def inRange (node lo n : Nat) (a : Word) (len : Nat) : Bool :=
  globNode a == some node && overlaps (a.toNat % 2 ^ 48) len lo n
/-- A translated place lies in a range of the node at which it is named: a remote-mapped frame's at the frame's node. -/
def siteInRange (node lo n : Nat) (t : Site) (len : Nat) : Bool := t.node == node && overlaps t.off len lo n
/-- A bank command was accepted with leaves of pages in a range. -/
def cmdInRange (node lo n : Nat) (b : BankCmd) : Bool :=
  let frames := (b.frames ++ b.dframes).any (fun t => siteInRange node lo n t 4096)
  match b.kind with
  | .bmv m d .. => frames || inRange node lo n m (4096 * b.frames.length) || inRange node lo n d (4096 * b.dframes.length)
  | .bexpr a .. => frames || inRange node lo n a (4096 * b.frames.length)
  | _ => frames
/-- An access to the range that was translated under an older G has still to be applied at its frame (R380): an accepted timed store, an
acquire in a wait list, a bank command. -/
def State.shootWaits (s : State) (p node lo n : Nat) : Bool :=
  s.vis.any (fun v => v.part == p && v.site.any (fun t => inRange node lo n v.addr v.size || siteInRange node lo n t v.size))
    || engines.any (fun e => (s.waitersOf e).any (fun w => w.part == p && (inRange node lo n w.addr 8 || inRange node lo n w.name 8)))
    || s.stks.any (fun kv => kv.2.pch.any (fun pc => pc.2.cmds.any (fun b => b.part == p && cmdInRange node lo n b)))
def dropLines (p node lo n : Nat) (u : Unit) : Unit := { u with cache := u.cache.filter (fun l => !(l.part == p && inRange node lo n l.addr 128)) }
/-- The shoot-down of a range. -/
def State.shoot (s : State) (p node lo n : Nat) : State :=
  let s1 := (s.nodeDies p node).foldl (fun t d => t.shootDie p node lo n d) s
  { s1 with cur := dropLines p node lo n s1.cur, others := mapS unit0 (fun _ u => dropLines p node lo n u) s1.others }
/-- A shoot-down descriptor: malformed, or partition, node, first offset and length. -/
def shootArgs (bs : List Byte) : Option (Nat × Nat × Nat × Nat) :=
  let h := recDw bs 0
  let all := h.testBit 63
  if h / 2 ^ 12 % 2 ^ 51 ≠ 0 ∨ (!all ∧ (recDw bs 1 % 65536 ≠ 0 ∨ recDw bs 2 = 0)) then none
  else some (h / 2 ^ 8 % 16, h % 2 ^ 8, if all then (0, 2 ^ 48) else (recDw bs 1, recDw bs 2 * 65536))
/-- Writes STATUS of a descriptor. -/
def State.shootStatus (s : State) (src : Requester) (desc : Word) (v : Nat) : State :=
  ((ptrOf src desc).bind (fun t => s.writePtr (s.reqPart src) t 24 (bytesOfNat 8 v))).getD s
/-- A shoot-down starts: STATUS is 0, G rises and entries go (steps 1 to 3 of R380). A refused one leaves nothing, but for STATUS 2 in a
malformed descriptor. Its status, or none once it has started. -/
def State.shootStart (s : State) (src : Requester) (a : List Word) : Option Nat × State :=
  let p := s.reqPart src
  let t := ptrOf src (arg a 0)
  -- S mode asks for its own partition; the management core, in M mode, is neither it nor a PF
  let isUnit := match src with
    | .unit u => u != mgmtCore
    | _ => false
  if !s.pfOwner src && !isUnit then (some 2, s)
  else match (t.filter hostOrStack).bind (fun t => s.readPtr p t 32), restZero a 1 with
    | some bs, true =>
      (match shootArgs bs with
      | none => (some 3, s.shootStatus src (arg a 0) 2)
      | some (q, node, lo, n) =>
        if isUnit && q != p then (some 2, s)
        else
          let s1 := (s.shootStatus src (arg a 0) 0).shoot q node lo n
          (none, { s1 with shoots := s1.shoots ++ [{ src := src, desc := arg a 0, part := q, node := node, base := lo, bytes := n }] }))
    | _, _ => (some 3, s)
/-- SHOOT (R380): it starts, and once every access translated under an older G has been applied it ends, with STATUS 1 and the status of
the request. -/
def execServiceShoot (src : Requester) (s : State) : Out :=
  match s.shoots.find? (fun h => h.src == src) with
  | some h =>
    if s.shootWaits h.part h.node h.base h.bytes ∨ s.ptrHeld (s.reqPart src) (ptrOf src h.desc) 32 then idle s
    else .next ((State.shootStatus { s with shoots := s.shoots.filter (fun x => x.src != src) } src h.desc 1).answer src 0)
  | none =>
    match s.askedArgs src 2 with
    | none => idle s
    | some a =>
      if s.dev.recovery ∨ s.dev.lcs = LCS_RETIRED then .next (s.answer src 2)
      else if s.ptrHeld (s.reqPart src) (ptrOf src (arg a 0)) 32 then idle s
      else match s.shootStart src a with
        | (some st, t) => .next (t.answer src st)
        | (none, t) => .next t

-- PLACE, ROOT, FWEIGHT, REGION (R23, R149, R369, R387)

def execServicePlace (src : Requester) (s : State) : Out :=
  ownerService 3 src s (fun a => if restZero a 2 then s.placeWrite (arg a 0) (arg a 1) else (3, s))
/-- A root that R369 admits: no RSVD bit, and a STACK with a valid node entry. -/
def State.rootOk (s : State) (p : Nat) (v : Word) : Bool :=
  v.extractLsb' 51 12 == 0#12 && v.extractLsb' 0 15 == 0#15 && (s.physStack p (v.extractLsb' 48 3).toNat).isSome
def execServiceRoot (src : Requester) (s : State) : Out :=
  ownerService 4 src s (fun a =>
    let p := (arg a 0).toNat
    let node := (arg a 1).toNat
    let x := s.getPart p
    if p < 16 ∧ restZero a 3 ∧ (isStackNode node || isStripeNode node || isHostNode node) ∧ s.rootOk p (arg a 2) then
      (0, s.setPart p { x with roots := put word0 x.roots node (arg a 2) })
    else (3, s))
def execServiceFweight (src : Requester) (s : State) : Out :=
  ownerService 5 src s (fun a =>
    let p := (arg a 0).toNat
    let w := (arg a 1).toNat
    if p < 16 ∧ 1 ≤ w ∧ w ≤ 15 ∧ restZero a 2 then (0, s.setPart p { s.getPart p with weight := w }) else (3, s))
/-- A region entry that R23 admits. -/
def regionOk (d0 d1 : Word) : Bool :=
  let base := (d0.extractLsb' 0 25).toNat
  let fin := (d1.extractLsb' 0 26).toNat
  d0.extractLsb' 34 29 == 0#29 && d0.extractLsb' 25 7 == 0#7 && d1.extractLsb' 26 38 == 0#38
    && (!d0.msb || (base % 64 == 0 && fin % 64 == 0 && decide (0x800000 ≤ base) && decide (base < fin) && decide (fin ≤ 0x2000000)))
/-- REGION writes the protection units of the clusters behind the logical clusters that the request names (R23). DESIGN CHOICE (log 83): a
request that names no cluster with a valid node entry is malformed. -/
def execServiceRegion (src : Requester) (s : State) : Out :=
  ownerService 9 src s (fun a =>
    let c := (arg a 1).toNat
    match partIndex (arg a 0) with
    | some (p, i) =>
      let cs := (if c < 128 then [c] else if c = 0xFF then List.range 128 else []).filterMap (s.physCluster p)
      if cs ≠ [] ∧ restZero a 4 ∧ regionOk (arg a 2) (arg a 3) then
        (let x := s.getPart p
        let t := cs.foldl (fun m c => put regions0 (put regions0 m (64 * c + 2 * i) (arg a 2)) (64 * c + 2 * i + 1) (arg a 3)) x.regions
        (0, s.setPart p { x with regions := t }))
      else (3, s)
    | none => (3, s))

-- PEER and the clock roles (R34, R395, R396)

def roleGrandmaster : Word := 0xFFFFFFFFFFFFFFFF#64
def roleDiscipline : Word := 0xFFFFFFFFFFFFFFF0#64
/-- A peer-map entry that R395 admits. -/
def peerEntryOk (v : Word) : Bool :=
  let link := (v.extractLsb' 16 4).toNat
  let node := (v.extractLsb' 0 8).toNat
  v.extractLsb' 20 43 == 0#43 && v.extractLsb' 8 4 == 0#4 && decide (link ≤ 11) && decide (node ≤ 0x8F ∨ 0xF0 ≤ node)
/-- PEER_LOCK of every die of the device (R32). -/
def State.setPeerLock (s : State) (b : Bool) : State :=
  (List.range 12).foldl (fun t d => t.setDie d { t.getDie d with peerLock := b }) s
/-- A request for service 0x06 with a given kind of argument 0. -/
def peerService (src : Requester) (s : State) (mine : Word → Bool) (k : List Word → Nat × State) : Out :=
  match s.askedArgs src 6 with
  | none => idle s
  | some a => if mine (arg a 0) then ownerService 6 src s k else idle s
def execServicePeer (src : Requester) (s : State) : Out :=
  peerService src s (fun w => w != roleGrandmaster && w != roleDiscipline) (fun a =>
    match partIndex (arg a 0) with
    | some (p, i) =>
      if peerEntryOk (arg a 1) ∧ restZero a 2 then
        (let x := s.getPart p
        (0, s.setPart p { x with peers := put word0 x.peers i (arg a 1) }))
      else (3, s)
    | none => (3, s))
/-- The device becomes the system grandmaster and holds PEER_LOCK = 1 (R396). -/
def execServiceGrandmaster (src : Requester) (s : State) : Out :=
  peerService src s (· == roleGrandmaster) (fun a =>
    if restZero a 2 then (0, State.setPeerLock { s with dev := { s.dev with grandmaster := true, discipline := none } } true) else (3, s))
/-- The device disciplines itself over the lowest-numbered peer link that is up (R396). -/
def execServiceDiscipline (src : Requester) (s : State) : Out :=
  peerService src s (· == roleDiscipline) (fun a =>
    match firstBelow (fun i => (look link0 s.dev.links (2 + i)).isNone) 12 0 with
    | some i =>
      if restZero a 2 then (0, State.setPeerLock { s with dev := { s.dev with grandmaster := false, discipline := some i } } false) else (3, s)
    | none => (3, s))

-- ownership (R393, R394)

/-- The order of claims that arrive in one tick: the management core, link 0, link 1. -/
def claimRank (m : Nat) : Nat := if m = 2 then 0 else m + 1
/-- No owner, or a handover names the master; or the owner's claim came in the same tick, and the master goes before it. -/
def State.claimable (s : State) (m arrived : Nat) : Bool :=
  !s.dev.recovery && (s.dev.own.isNone || s.dev.handover == some m
    || (s.dev.claimed == some arrived && s.dev.own.any (fun o => decide (claimRank m < claimRank o))))
/-- When the claim arrived that a host link's mailbox holds. -/
def State.mailClaim (s : State) (link : Nat) : Option Nat :=
  let m := mailbox (s.getPart 0) link
  if m.asked ∧ look word0 m.dw 0 = 7 ∧ look word0 m.dw 1 = BitVec.ofNat 64 link ∧ (List.range 5).all (fun i => look word0 m.dw (i + 2) == 0) then some m.arrived
  else none
/-- A claim in a mailbox goes first: it arrived earlier, or in the same tick from a master that goes before. -/
def State.outrun (s : State) (m arrived : Nat) : Bool :=
  [0, 1].any (fun l => l != m && (s.mailClaim l).any (fun a => s.claimable l a && (decide (a < arrived) || (a == arrived && decide (claimRank l < claimRank m)))))
/-- A valid claim, in the order of the claims' arrival (R393). -/
def State.claimOk (s : State) (m arrived : Nat) : Bool := s.claimable m arrived && !s.outrun m arrived
def State.claim (s : State) (m arrived : Nat) : State :=
  if s.claimOk m arrived then
    { s with dev := { s.dev with own := some m, handover := none,
                                 claimed := if s.dev.own.isNone ∨ s.dev.claimed = some arrived then some arrived else none } }
  else s
/-- The master that a request comes from. -/
def masterOf : Requester → Option Nat
  | .mailbox 0 link => some link
  | .unit u => if u = mgmtCore then some 2 else none
  | _ => none
/-- When a request arrived: a mailbox's at its write, the management core's now. -/
def State.arrivedAt (s : State) (src : Requester) : Nat :=
  match src with
  | .mailbox p link => (mailbox (s.getPart p) link).arrived
  | .unit _ => s.now
/-- A mailbox's claim is decided when every claim of its tick has arrived. -/
def State.claimEarly (s : State) (src : Requester) : Bool :=
  match src with
  | .mailbox 0 link => (s.mailClaim link).any (fun a => decide (s.now ≤ a))
  | _ => false
/-- HANDOVER: the owner's handover to a target, or a claim by a master that names itself. A master that neither owns the device nor claims
it gets 2, whatever its arguments (R394). -/
def execServiceHandover (src : Requester) (s : State) : Out :=
  if s.claimEarly src then idle s else
  service 7 src s (fun a =>
    let t := (arg a 0).toNat
    match masterOf src with
    | none => (2, s)
    | some m =>
      if s.dev.own = some m then
        (if t > 2 ∨ !restZero a 1 then (3, s) else (0, { s with dev := { s.dev with handover := some t } }))
      else if t = m ∧ s.claimOk m (s.arrivedAt src) then (if restZero a 1 then (0, s.claim m (s.arrivedAt src)) else (3, s))
      else (2, s))
/-- A claim arrives: a host master's write of 1 to OWN through its link, or the management core's. A claim that is not valid is discarded. -/
def execOwnClaim (master : Fin 3) (link : Fin 2) (s : State) : Out :=
  if master.val < 2 ∧ master.val ≠ link.val then idle s
  else if s.dev.lcs = LCS_RETIRED then idle s
  else .next (s.claim master.val s.now)

-- ATTEST (R397)

/-- The bytes of a report: the nonce and LCS, as the rule has them in order, among measurement, fuses and signatures, whose values and
places the spec does not give (log 19). -/
def State.attestReport (s : State) (nonce : List Byte) : List Byte × State :=
  let a := s.freeBytes (Config.attestLength 0)
  let b := a.2.freeBytes (Config.attestLength 1)
  let c := b.2.freeBytes (Config.attestLength 2)
  (a.1 ++ nonce ++ b.1 ++ [BitVec.ofNat 8 s.dev.lcs] ++ c.1, c.2)
/-- The number of bytes of a report. -/
def attestBytes : Nat := Config.attestLength 0 + Config.attestNonce + Config.attestLength 1 + 1 + Config.attestLength 2
/-- ATTEST reads the nonce and writes the report; a burst, a suspended partition or a link that is down keeps it waiting (R321). -/
def execServiceAttest (src : Requester) (s : State) : Out :=
  let p := s.reqPart src
  if (s.askedArgs src 8).any (fun a => s.ptrHeld p (ptrOf src (arg a 0)) Config.attestNonce || s.ptrHeld p (ptrOf src (arg a 1)) attestBytes) then idle s
  else service 8 src s (fun a =>
    match (ptrOf src (arg a 0)).bind (fun t => s.readPtr p t Config.attestNonce), ptrOf src (arg a 1), restZero a 2 with
    | some nonce, some t, true =>
      let r := s.attestReport nonce
      (match r.2.writePtr p t 0 r.1 with
      | some s1 => (0, s1)
      | none => (3, s))
    | _, _, _ => (3, s))

end Sys2Proof.Machine
end

