-- ==== Sys2Proof/Machine/Links.lean ====
section
/-! DEFINITION. The host links: BAR0 and its registers (spec 25_host_peers_security R388-R394), the fault reporter (24_translation_faults
R383-R387), peer and host links that lose training (R395, R407, R409). -/

namespace Sys2Proof.Machine

-- launch queues (R390)

/-- QTAIL moves, unless the queue would hold more than 2^QSIZE entries. -/
def setQtail (x : Part) (link : Nat) (v : Word) : Part :=
  let q := hostq x link
  if (v - q.qhead).toNat > 2 ^ (q.qsize.toNat % 64) then x else setHostq x link { q with qtail := v }
def execHostQtailWrite (part link : Nat) (v : Word) (s : State) : Out :=
  if part < 16 ∧ link < 2 ∧ s.ownerLink link then .next (s.setPart part (setQtail (s.getPart part) link v)) else idle s

-- fault rings (R384-R387)

/-- A ring is full when TAIL - HEAD equals 2^SIZE. -/
def ringSize (r : Ring) : Nat := 2 ^ (r.size.toNat % 64)
def ringFull (r : Ring) : Bool := (r.tail - r.head).toNat == ringSize r
/-- The 128 bytes of a record. -/
def recordBytes (r : FaultRec) : List Byte :=
  let d0 := r.cause % 256 * 2 ^ 56 + r.sub % 256 * 2 ^ 48 + r.kind % 16 * 2 ^ 44 + (if r.held then 2 ^ 43 else 0) + (if r.late then 2 ^ 42 else 0)
    + (if r.double then 2 ^ 40 else 0) + r.lid % 256 * 2 ^ 32 + r.unit % 65536
  let m := match r.msg with
    | some m => msgWords m
    | none => List.replicate 8 0
  dwBytes ([BitVec.ofNat 64 d0, r.addr, r.val, BitVec.ofNat 64 r.time] ++ m ++ List.replicate 4 0)
/-- FSTAT with `n` more records held for a full ring, and IPEND when IEN asks for it. -/
def fstatHeld (f : Word) (terminal : Bool) (n : Nat) : Word :=
  if n = 0 then f
  else
    let c := if terminal then 48 else 32
    let old := (f.extractLsb' c 16).toNat
    let cnt := (BitVec.ofNat 64 (min (old + n) 65535)) <<< c
    (f &&& ~~~(0xFFFF#64 <<< c)) ||| cnt ||| (if terminal then 2 else 1) ||| (if f.getLsbD 3 then 4 else 0)
def fstatPosted (f : Word) : Word := if f.getLsbD 3 then f ||| 4 else f
/-- Every waiting record of a full ring waits at its unit, counted once. -/
def holdAll (r : Ring) : Ring := { r with waiting := r.waiting.map (fun x => { x with held := true }) }
def heldNew (r : Ring) : Nat := (r.waiting.filter (fun x => !x.held)).length
def ringOf (x : Part) (terminal : Bool) : Ring := if terminal then x.terminal else x.retry
def setRing (x : Part) (terminal : Bool) (r : Ring) : Part := if terminal then { x with terminal := r } else { x with retry := r }
/-- One ring's turn: its oldest record is posted, or a full ring holds its records. None when nothing waits. -/
def State.ringTurn (s : State) (p : Nat) (terminal : Bool) : Option State :=
  let x := s.getPart p
  let r := ringOf x terminal
  match r.waiting with
  | [] => none
  | q :: rest =>
    if ringFull r then
      if heldNew r = 0 then none
      else some (s.setPart p { setRing x terminal (holdAll r) with fstat := fstatHeld x.fstat terminal (heldNew r) })
    else
      let a := r.base.toNat + 128 * (r.tail.toNat % ringSize r)
      let s1 := s.writeBytes (fun i => hostKey s.ringLink ((a + i) % 2 ^ 48)) (recordBytes q)
      some (s1.setPart p { setRing x terminal { r with tail := r.tail + 1, waiting := rest } with fstat := fstatPosted x.fstat })
/-- Terminal records go before retryable ones. -/
def State.postOne (s : State) (p : Nat) : Option State :=
  match s.ringTurn p true with
  | some t => some t
  | none => s.ringTurn p false
def State.postGo (p : Nat) : Nat → State → State
  | 0, s => s
  | n + 1, s => match s.postOne p with
    | none => s
    | some t => State.postGo p n t
/-- The partition whose turn it is: the first after the one served last that has something to post. -/
def State.reporterTurn (s : State) : Option Nat :=
  ((List.range 16).map (fun i => (s.dev.served + 1 + i) % 16)).find? (fun p => (s.postOne p).isSome)
/-- A turn of the fault reporter, when it is the partition's (R387): up to its weight of records. -/
def execFaultRecordPost (part : Nat) (s : State) : Out :=
  if s.reporterTurn = some part then .next (State.postGo part (s.getPart part).weight { s with dev := { s.dev with served := part } }) else idle s
/-- Software moves HEAD of a ring; its held records are then reported again. -/
def execRingHeadWrite (part : Nat) (terminal : Bool) (v : Word) (s : State) : Out :=
  if part < 16 ∧ s.hostOwned then
    let x := s.getPart part
    .next (s.setPart part (setRing x terminal { ringOf x terminal with head := v }))
  else idle s
/-- FSTAT: ones clear IPEND, OVFT and OVFR; bit 3 is IEN; the counters stay. -/
def fstatWritten (f v : Word) : Word := (f &&& ~~~(v &&& 7#64) &&& ~~~8#64) ||| (v &&& 8#64)
def execFstatWrite (part : Nat) (v : Word) (s : State) : Out :=
  if part < 16 ∧ s.hostOwned then
    let x := s.getPart part
    .next (s.setPart part { x with fstat := fstatWritten x.fstat v })
  else idle s
/-- HELDMAP: the bit of a unit that holds a record, 128 + s for a stack; the dispatcher has none (R385). -/
def heldBit (r : FaultRec) : Option Nat :=
  if r.unit ≥ 0xC000 then r.place else if r.unit ≥ 0x8000 then some (128 + (r.unit - 0x8000) / 32 % 8) else some (r.unit / 16 % 128)
def heldMap (x : Part) : Nat :=
  (((x.terminal.waiting ++ x.retry.waiting).filter (·.held)).filterMap heldBit).eraseDups.foldl (fun n b => n + 2 ^ b) 0

-- BAR0 (R389)

/-- A mailbox write; doubleword 7 starts the request. A pending request's mailbox takes none. A service number without a service is
answered at once (R392, R394). -/
def State.mailWrite (s : State) (p link i : Nat) (v : Word) : State :=
  let x := s.getPart p
  let m := mailbox x link
  if m.asked ∨ s.dev.recovery then s
  else
    let d := put word0 m.dw i v
    let num := (look word0 d 0).toNat
    if i ≠ 7 then s.setPart p (setMailbox x link { m with dw := d })
    else if 1 ≤ num ∧ num ≤ 9 then s.setPart p (setMailbox x link { dw := d, asked := true, arrived := s.now })
    else s.setPart p (setMailbox x link { m with dw := put word0 d 0 (if s.ownerLink link then 1 else 2) })
/-- A host's write of a doubleword at an offset of a function's BAR0. Other offsets are discarded, and so are the writes of a master that
does not own the device, but for the mailbox and a valid claim. -/
def State.barWrite (s : State) (p link off : Nat) (v : Word) : State :=
  let x := s.getPart p
  let q := hostq x link
  let own := s.ownerLink link
  if off % 8 ≠ 0 then s
  else if off = 0 then (if p = 0 ∧ v = 1 ∧ s.dev.lcs ≠ LCS_RETIRED then s.claim link s.now else s)
  else if 0x40 ≤ off ∧ off < 0x80 then s.mailWrite p link ((off - 0x40) / 8) v
  else if !own then s
  else if off = 0x1000 then s.setPart p (setHostq x link { q with qbase := v })
  else if off = 0x1008 then s.setPart p (setHostq x link { q with qsize := v })
  else if off = 0x1010 then s.setPart p (setQtail x link v)
  else if off = 0x2000 then s.setPart p { x with retry := { x.retry with base := v } }
  else if off = 0x2008 then s.setPart p { x with retry := { x.retry with size := v } }
  else if off = 0x2018 then s.setPart p { x with retry := { x.retry with head := v } }
  else if off = 0x2020 then s.setPart p { x with terminal := { x.terminal with base := v } }
  else if off = 0x2028 then s.setPart p { x with terminal := { x.terminal with size := v } }
  else if off = 0x2038 then s.setPart p { x with terminal := { x.terminal with head := v } }
  else if off = 0x2040 then s.setPart p { x with fstat := fstatWritten x.fstat v }
  else if 0x1000000 ≤ off ∧ off < 0x1080000 ∧ off % 0x1000 < 0x40 then
    let lc := (off - 0x1000000) / 0x1000
    match s.physCluster p lc with
    | some c => if s.grantedRange p lc (0x1004000 + off % 0x1000) 8 false true then (s.aperture p c (off % 0x1000 / 8) v).getD s else s
    | none => s
  else s
/-- A host's read of a doubleword at an offset of a function's BAR0. -/
def State.barRead (s : State) (p link off : Nat) : Word :=
  let x := s.getPart p
  let q := hostq x link
  if off = 0 then (match (if p = 0 ∧ !s.dev.recovery then s.dev.own else none) with
    | some m => BitVec.ofNat 64 (2 ^ 63 + m)
    | none => 0)
  else if off = 8 then BitVec.ofNat 64 s.dev.lcs
  else if 0x40 ≤ off ∧ off < 0x80 then look word0 (mailbox x link).dw ((off - 0x40) / 8)
  else if off = 0x1000 then q.qbase
  else if off = 0x1008 then q.qsize
  else if off = 0x1010 then q.qtail
  else if off = 0x1018 then q.qhead
  else if 0x2000 ≤ off ∧ off < 0x2040 then
    let r := ringOf x (decide (0x2020 ≤ off))
    ([r.base, r.size, r.tail, r.head] : List Word).getD ((off - 0x2000) / 8 % 4) 0
  else if off = 0x2040 then x.fstat
  else if 0x2048 ≤ off ∧ off < 0x2060 then BitVec.ofNat 64 (heldMap x / 2 ^ (8 * (off - 0x2048)))
  else 0
/-- A register write without a row of its own: a store to local MMIO by the unit in focus, or a host's write through BAR0. -/
def execRegisterWrite (w : RegWrite) (v : Word) (s : State) : Out :=
  match w with
  | .mmio a => mmioStore a.toNat v s
  | .bar p link off => if p < 16 ∧ link < 2 then .next (s.barWrite p link off v) else idle s

-- links (R395, R407, R409): host links 0-1, peer links 2-13, bridges 14-29

def execLinkDown (link : Nat) (s : State) : Out :=
  if link < 30 ∧ (look link0 s.dev.links link).isNone then .next { s with dev := { s.dev with links := put link0 s.dev.links link (some s.now) } }
  else idle s
def execLinkRetrain (link : Nat) (s : State) : Out :=
  match look link0 s.dev.links link with
  | some _ => .next (State.countLife { s with dev := { s.dev with links := put link0 s.dev.links link none } } (0x280 + 8 * link) 1)
  | none => idle s
/-- The host or peer link that an access of partition p to a global address crosses: its home's, that of a remote-mapped frame's node
included (R378, R395). -/
def State.linkOf (s : State) (p : Nat) (a : Word) : Option Nat :=
  (globNode a).bind (fun n => match s.translate p n (a.toNat % 2 ^ 48) 1 .any with
    | .ok t => s.siteLink p t
    | .error _ => if isPeerNode n then some (2 + s.peerLink p n) else none)
/-- The access of source u to a waits on a link. The spec does not say which accesses cross which bridge (links 14-29): there the agenda's
entry names the sources whose accesses wait on it (log 75). -/
def State.crosses (s : State) (link u p : Nat) (a : Word) : Bool :=
  if link < 14 then s.linkOf p a == some link else isGlobAddr a && s.choice.contains u
/-- The address that a unit's access waits for: a stalled instruction's, or the next instruction's own. -/
def waitAddr (u : Unit) : Option Word :=
  match u.wait with
  | .load a _ _ | .acquire _ a _ | .law a | .retry a => some a
  | .atomic r => some r.addr
  | .none => if u.run = .running then some u.pc else none
  | _ => none
/-- Unit u's waiting access over a lost link ends, asynchronously; so do its journal entries that have not reached their homes. DESIGN CHOICE
(log 75): LINK-LOST names a link by R409's number: host 0-1, peer 2-13, bridge 14-29. -/
def State.loseUnit (s : State) (link u : Nat) : State :=
  let x := s.getUnit u
  let why : Async := { code := 0x23, tval := BitVec.ofNat 64 link }
  let free := match x.wait with
    | .atomic _ => s.cancelAtomic u
    | _ => s
  let s1 := if (waitAddr x).any (s.crosses link u x.part) then (free.setUnit u { free.getUnit u with wait := .none }).addAsync u why else s
  let lost := x.journal.filter (fun je => je.2.st == .issued && je.2.stage == .toHome && s.crosses link u je.2.part je.2.addr)
  lost.foldl (fun t je => (t.setEntry u je.1 {}).addAsync u { why with jidx := je.1 }) s1
/-- Every queue of an engine that holds an operation. -/
def State.engineQueues (s : State) : List EngineQueue :=
  s.clusters.flatMap (fun kv => kv.2.chans.map (fun ch => EngineQueue.chan kv.1 ch.1))
    ++ s.stks.flatMap (fun kv => [EngineQueue.red kv.1, EngineQueue.swreg kv.1])
/-- An engine's running operation whose next access waits on a lost link will end FAULTED (R290, R395). -/
def State.loseEngine (s : State) (link : Nat) (e : EngineQueue) : State :=
  match s.engineHead e with
  | none => s
  | some o =>
    match (headRanges o).find? (fun r => s.crosses link (engineSrc e) o.part r.1) with
    | some r => if o.fail.isNone then s.setEngineHead e { o with fail := some { cause := 0x23, sub := 0, addr := r.1, progress := progressOf o } } else s
    | none => s
/-- A link untrained for more than 2^20 ticks ends what waits on it: accesses of units and operations of engines (R395, R407). -/
def execLinkLost (link : Nat) (s : State) : Out :=
  match look link0 s.dev.links link with
  | some t =>
    if t + 2 ^ 20 < s.now then
      let s1 := (s.units.map (·.1)).foldl (fun t u => t.loseUnit link u) s
      .next ((s1.engineQueues.foldl (fun t e => t.loseEngine link e) s1).countLife 0x260 1)
    else idle s
  | none => idle s
/-- A flit that fails its CRC is retried at its hop, and counted. -/
def execFlitRetry (_hop : Nat) (s : State) : Out := .next (s.countLife 0x238 1)

end Sys2Proof.Machine
end

