-- ==== Sys2Proof/Machine/OrderLog.lean ====
section
/-! DEFINITION. The step that makes one logged choice (R353): its record is written before the choice takes effect. -/

namespace Sys2Proof.Machine

/-- The atomic engine that a record's UNIT names: of a logical cluster, or of a logical stack. -/
def State.engineOfUnit (s : State) (p unit : Nat) : Option Nat :=
  if unit < 0x800 then s.physCluster p unit else (s.physStack p ((unit - 0x800) / 32)).map (fun g => 4096 + g)
/-- The steps in which unit `unit` of partition p makes a choice of a KIND. -/
def State.choiceSteps (s : State) (p kind unit : Nat) : List Out :=
  match kind with
  | 1 => (match s.engineOfUnit p unit with
    | some e => .next (s.grant e) :: (s.waitersOf e).map (fun w => .next (s.scan e w.loc))
    | none => [])
  | 2 => (List.range s.flights.length).map (fun k => execMessageAccept k s)
  | 3 | 4 => (match s.physCluster p unit with
    | some c => (List.range 16).map (fun k => execStageSchedule (16 * c + k) s)
    | none => [])
  | 5 => [execBatchGrant p unit s]
  | _ => []
/-- The record that stands n bytes after the ring's tail. -/
def State.recordAfter (s : State) (p n : Nat) (l : Launch) : Option (Nat × Word) :=
  let a := detBase l.detctl + BitVec.ofNat 64 (((s.getPart p).logTail.toNat + n) % detSize l.detctl)
  match s.translate p (a.toNat / 2 ^ 48 % 256) (a.toNat % 2 ^ 48) 16 .any with
  | .ok t => some (natOfBytes (s.readBytes (s.siteKey p t) 8), BitVec.ofNat 64 (natOfBytes (s.readBytes (fun i => s.siteKey p t (8 + i)) 8)))
  | .error _ => none
/-- Between s and t the ring has gained a record of a unit's choice, under whichever SEQ. -/
def State.gained (s t : State) (p : Nat) (l : Launch) (kind unit : Nat) (choice : Word) : Bool :=
  let n := (t.getPart p).logTail.toNat - (s.getPart p).logTail.toNat
  let ring : State := { t with parts := s.parts }
  (List.range (n / 16)).any (fun i =>
    (ring.recordAfter p (16 * i) l).any (fun r => r.1 / 2 ^ 32 == (logWord0 kind unit l.lid 0).toNat / 2 ^ 32 && r.2 == choice))
/-- A unit makes a choice whose record is the one named; nothing happens while it has none such to make, or while it must wait for room
in the ring. An absent page of the ring is reported (R383). -/
def execOrderLogRecord (part lid kind unit : Nat) (choice : Word) (s : State) : Out :=
  match s.getLaunch part lid with
  | none => idle s
  | some l =>
    if !detLog l.detctl then idle s
    else
      let a := detBase l.detctl + BitVec.ofNat 64 ((s.getPart part).logTail.toNat % detSize l.detctl)
      match s.translate part (a.toNat / 2 ^ 48 % 256) (a.toNat % 2 ^ 48) 16 .w with
      | .error e =>
        if e.cause = 3 then .next (s.reportAbsent part (a.toNat / 2 ^ 48 % 256) (a.toNat % 2 ^ 48) (s.dispatchFault lid 4 e a)) else idle s
      | .ok _ =>
        ((s.choiceSteps part kind unit).find? (fun o => match o with
          | .next t => s.gained t part l kind unit choice
          | _ => false)).getD (idle s)

end Sys2Proof.Machine
end

