-- ==== Sys2Proof/Machine/Package.lean ====
section
/-! DEFINITION. Steps of the package as a whole: clocks (spec 02_clock_and_order R30-R34), page walks (24_translation_faults R377, R379),
power (26_power R400-R406), determinism control (R350), lifetime records (27_reliability R409, R410), reset, life cycle and boot
(25_host_peers_security R397, R398). -/

namespace Sys2Proof.Machine

-- clocks (R30-R34)

/-- The Bellwether: the compute die that firmware chose (R30). -/
def State.bellDie (s : State) : Nat := (firstBelow (fun d => (s.getDie d).bell) 4 0).getD 0
/-- The die that disciplines another: the Bellwether, or the compute die that a base die adjoins. -/
def State.masterDie (s : State) (d : Nat) : Nat := if d < 4 then s.bellDie else (d - 4) / 2
/-- What a die's atime reads beyond the device count now, and where it is going. -/
def skewEnds (x : Die) (now : Nat) : List Int := [skewAt x now, x.goal]
/-- The ends of every other die in SETTLED or HOLDOVER. -/
def State.othersEnds (s : State) (d : Nat) : List Int :=
  (List.range 12).flatMap (fun o => if o ≠ d ∧ s.clkState o ≠ 0 then skewEnds (s.getDie o) s.now else [])
/-- The value nearest to g that keeps die d within 8 ticks of every other die in SETTLED or HOLDOVER (R30). -/
def State.clampSkew (s : State) (d : Nat) (g : Int) : Int :=
  (s.othersEnds d).foldl (fun v e => max v (e - 8)) ((s.othersEnds d).foldl (fun v e => min v (e + 8)) g)
/-- The die's clock is and stays within 8 ticks of every other die in SETTLED or HOLDOVER (R30). -/
def State.inBand (s : State) (d : Nat) (x : Die) : Bool :=
  (skewEnds x s.now).all (fun a => (s.othersEnds d).all (fun b => decide ((a - b).natAbs ≤ 8)))
/-- A die whose clock slews from now on to a goal (R29). -/
def slewTo (x : Die) (now : Nat) (goal : Int) : Die := { x with skew := skewAt x now, slewFrom := now, goal := goal }
/-- An exchange that is missed or fails its CRC. -/
def missedExchange (x : Die) (now : Nat) : Die :=
  let n := min (x.missed + 1) 255
  { x with missed := n, goodRun := 0, clk := if x.clk = 1 ∧ 2 ≤ n then 2 else x.clk, lastTry := now }
/-- The offset that an exchange of die d measures: its atime less its master's, 0 on the Bellwether (R32). -/
def State.measured (s : State) (d : Nat) : Int :=
  if (s.getDie d).bell then 0 else skewAt (s.getDie d) s.now - skewAt (s.getDie (s.masterDie d)) s.now
/-- Die d after a good exchange (R31). It slews towards its master, carried off by its own drift but within the bound of R30; at its first
lock it is aligned in one step, never backwards. DESIGN CHOICE (log 72): the Bellwether, which has no master, locks by exchanges that
measure 0. -/
def State.goodExchange (s : State) (d : Nat) (drift : Int) : Die :=
  let x := s.getDie d
  let o := s.measured d
  let there := skewAt (s.getDie (s.masterDie d)) s.now
  let y := { slewTo x s.now (if x.bell then x.goal else s.clampSkew d (there + drift)) with missed := 0, offset := o, lastGood := s.now, lastTry := s.now }
  if o.natAbs > 6 then { y with clk := 0, goodRun := 0 }
  else if s.clkState d = 0 then
    let z := if x.locked ∨ x.bell then y else { y with skew := max y.skew there }
    if 2 ≤ x.goodRun + 1 ∧ s.inBand d z then { z with clk := 1, goodRun := 0, locked := true }
    else { y with clk := 0, goodRun := x.goodRun + 1 }
  else { y with clk := 1, goodRun := 0 }
/-- Exchanges come 65,536 ticks apart (R30). -/
def exchangeTicks : Nat := 65536
def execClockExchange (die : Nat) (good : Bool) (drift : Int) (s : State) : Out :=
  if die ≥ 12 then .fault (.noSuchPlace die)
  else if s.now < (s.getDie die).lastTry + exchangeTicks then idle s
  else .next (s.setDie die (if good then s.goodExchange die drift else missedExchange (s.getDie die) s.now))
/-- HOLDOVER has lasted 2^22 ticks since the last good exchange (R31). -/
def execHoldoverExpiry (die : Nat) (s : State) : Out :=
  if die ≥ 12 then .fault (.noSuchPlace die)
  else
    let x := s.getDie die
    if x.clk = 2 ∧ x.lastGood + 2 ^ 22 ≤ s.now then .next (s.setDie die { x with clk := 0, goodRun := 0 }) else idle s
/-- An exchange with the system grandmaster (R34): the Bellwether slews by the measured offset, within the bound of R30, and PEER_LOCK is 1
while that offset is within 92 ticks. DESIGN CHOICE (log 84): two exchanges in a row that are missed clear PEER_LOCK. -/
def execPeerClockExchange (good : Bool) (offset : Int) (s : State) : Out :=
  let b := s.bellDie
  let x := s.getDie b
  if s.dev.grandmaster ∨ s.dev.discipline.isNone ∨ s.now < x.peerTry + exchangeTicks then idle s
  else if good then
    let y := { slewTo x s.now (s.clampSkew b (skewAt x s.now - offset)) with peerTry := s.now, peerMissed := 0 }
    .next ((s.setDie b y).setPeerLock (decide (offset.natAbs ≤ 92)))
  else
    let s1 := s.setDie b { x with peerTry := s.now, peerMissed := x.peerMissed + 1 }
    .next (if 1 ≤ x.peerMissed then s1.setPeerLock false else s1)

-- page walks (R377, R379, R383)

/-- The k-th walk of a die is ready: it fills the cache, or begins again because G has moved; its walker then serves the next miss. -/
def execWalkFill (die k : Nat) (s : State) : Out :=
  if die ≥ 12 then .fault (.noSuchPlace die)
  else
    let x := s.getDie die
    match x.walks[k]? with
    | none => idle s
    | some w =>
      if w.gen.isNone then idle s
      else if w.gen ≠ some (look nat0 x.gens w.part) then .next (s.setDie die { x with walks := x.walks.set k (s.beginWalk die w) })
      else
        let y := { x with walks := x.walks.eraseIdx k }
        match w.found with
        | none => .next ((s.setDie die y).admitWalks die)
        | some (base, size, leaf) =>
          let e : TcEntry := { part := w.part, node := w.node, base := base, size := size, leaf := leaf }
          .next ((s.setDie die { y with tc := (e :: y.tc).take 4096,
                                        absent := y.absent.filter (fun a => !(a.1 == w.part && a.2.1 == w.node && a.2.2 == w.offset / 65536)) }).admitWalks die)

-- registers of the unit in focus (R350, R400)

def execDetctlWrite (v : Word) (s : State) : Out := mmioStore 0x1FBF000 v s
def execPwrctlWrite (v : Word) (s : State) : Out := mmioStore 0x1FA0000 v s
def execDivWrite (k : Fin 16) (v : Word) (s : State) : Out := mmioStore (0x1FA0100 + 8 * k.val) v s

-- the budget tree (R402, R403): powers in milliwatts

def rootBudget : Nat := 2800000
def demandOf (l : List (Nat × Nat)) (n : Nat) : Nat := (l.filter (fun x => x.1 == n)).foldl (fun a x => a + x.2) 0
def demandCluster (l : List (Nat × Nat)) (c : Nat) : Nat := (l.filter (fun x => x.1 < 2048 && x.1 / 16 == c)).foldl (fun a x => a + x.2) 0
/-- The demand of a node: what its own counters measured (key 8192 + a cluster, 12288 + a die); where the period reports none, the sum of
its children's (log 98). -/
def nodeDemand (l : List (Nat × Nat)) (key sum : Nat) : Nat := if l.any (fun x => x.1 == key) then demandOf l key else sum
def clusterDemand (l : List (Nat × Nat)) (c : Nat) : Nat := nodeDemand l (8192 + c) (demandCluster l c)
def clustersOf (d : Nat) : List Nat := (List.range 32).map (fun i => 32 * d + i)
def dieDemand (l : List (Nat × Nat)) (d : Nat) : Nat := nodeDemand l (12288 + d) ((clustersOf d).map (clusterDemand l)).sum
def stackDemand (l : List (Nat × Nat)) (g : Nat) : Nat := demandOf l (4096 + g)
/-- An allotment: num over den milliwatts. -/
structure Share where
  num : Nat
  den : Nat
  deriving DecidableEq, Repr
/-- A child's allotment of its parent's budget, from its demand and the sum of the children's (R402). -/
def allot (b : Share) (d sum : Nat) : Share :=
  if sum * b.den ≤ b.num then { num := d, den := 1 } else { num := b.num * d, den := b.den * sum }
def rootShare : Share := { num := rootBudget, den := 1 }
/-- The demands of the root's children: four dies and eight stacks. -/
def rootDemand (l : List (Nat × Nat)) : Nat := ((List.range 4).map (dieDemand l)).sum + ((List.range 8).map (stackDemand l)).sum
def stackShare (l : List (Nat × Nat)) (g : Nat) : Share := allot rootShare (stackDemand l g) (rootDemand l)
def dieShare (l : List (Nat × Nat)) (d : Nat) : Share := allot rootShare (dieDemand l d) (rootDemand l)
def clusterShare (l : List (Nat × Nat)) (c : Nat) : Share :=
  allot (dieShare l (c / 32)) (clusterDemand l c) ((clustersOf (c / 32)).map (clusterDemand l)).sum
def coreShare (l : List (Nat × Nat)) (u : Nat) : Share := allot (clusterShare l (u / 16)) (demandOf l u) (demandCluster l (u / 16))
/-- The highest point up to a ceiling whose estimated power at a demand fits an allotment, at least OP0. -/
def fitPoint (d : Nat) (a : Share) : Nat → Nat
  | 0 => 0
  | p + 1 => if Config.pointPower (p + 1) d * a.den ≤ a.num then p + 1 else fitPoint d a p
/-- clamp(ceil(16 A / D), 1, 16), with the demand at the point. -/
def fdutyOf (atPoint : Nat) (a : Share) : Nat :=
  if atPoint = 0 then 16 else max 1 (min 16 ((16 * a.num + atPoint * a.den - 1) / (atPoint * a.den)))
/-- clamp(floor((A - 63 W) / 0.25 W), 0, 128). -/
def capOf (a : Share) : Nat := min 128 ((a.num - 63000 * a.den) / (250 * a.den))
def State.treeCluster (l : List (Nat × Nat)) (s : State) (c : Nat) : State :=
  let x := s.getCluster c
  let p := fitPoint (clusterDemand l c) (clusterShare l c) x.pwr.opreq.toNat
  let at_ := if x.pwr.auto then p else x.pwr.opreq.toNat
  let s1 := if x.pwr.auto then s.setCluster c { x with pwr := requestPoint x.pwr (BitVec.ofNat 3 p) s.now } else s
  (List.range 16).foldl (fun t k =>
    let u := 16 * c + k
    t.setUnit u { t.getUnit u with fduty := fdutyOf (Config.pointPower at_ (demandOf l u)) (coreShare l u) }) s1
/-- The budget tree shares the root's power, level by level (R402, R403). -/
def execBudgetTreePeriod (demand : List (Nat × Nat)) (s : State) : Out :=
  if s.dev.lastTree + 40000 ≤ s.now then
    let s1 := (List.range 128).foldl (State.treeCluster demand) { s with dev := { s.dev with lastTree := s.now } }
    .next ((List.range 8).foldl (fun t g => t.setStack g { t.getStack g with cap := capOf (stackShare demand g) }) s1)
  else idle s

-- transitions and power switches (R401, R405, R406)

def execVoltageRampEnd (c : Nat) (s : State) : Out :=
  if c ≥ 128 then .fault (.noSuchPlace c)
  else
    let x := s.getCluster c
    match x.pwr.ramp with
    | some (_, e) => if e ≤ s.now then .next (s.setCluster c { x with pwr := endRamp x.pwr s.now }) else idle s
    | none => idle s
/-- The due frequency switch of a cluster starts at a quiesce point; the instants that are none are counted as they pass (R405). -/
def execFrequencySwitch (c : Nat) (s : State) : Out :=
  if c ≥ 128 then .fault (.noSuchPlace c)
  else
    let x := s.getCluster c
    match dueSwitch x.pwr with
    | none => idle s
    | some g =>
      if s.quiesce c then .next (s.setCluster c { x with pwr := switchTo x.pwr g s.now }) else idle s
/-- A core's switch opens once 4,000 ticks have passed since it last had a firing, a message or an outstanding journal entry (R401). -/
def execPowerSwitchOpen (u : Nat) (s : State) : Out :=
  if u ≥ 2048 then .fault (.noSuchPlace u)
  else
    let x := s.getUnit u
    let quiet := x.run == .idle && x.inbox.isEmpty && x.journal.all (fun kv => kv.2.st == .free) && decide (x.idleSince + 4000 ≤ s.now)
    if x.powered && quiet && (List.range 128).all (fun b => !s.stateBank u b) then .next (s.setUnit u { x with powered := false }) else idle s
/-- The scheduler chooses a firing for a core whose switch is open; the switch closes 800 ticks later (R401). -/
def execPowerSwitchClose (u : Nat) (s : State) : Out :=
  if u ≥ 2048 then .fault (.noSuchPlace u)
  else
    let x := s.getUnit u
    let chosen := fun (p : Nat) =>
      let t := s.refreshReady p (u / 16)
      (t.mapsCore p u).any (fun lc => (t.pick u p lc).isSome)
    if x.powered then idle s
    else match x.closing with
      | some t => if t + 800 ≤ s.now then .next (s.setUnit u { x with powered := true, closing := none }) else idle s
      | none => if s.coreFree u && (s.partsOf u).any chosen then .next (s.setUnit u { x with closing := some s.now }) else idle s

-- lifetime records (R409, R410)

/-- The bin of a peak temperature of a compute die. -/
def tempBin (die peak : Nat) : Nat := 0x80 * die + 8 * min 15 (peak / 8)
def State.commitLife (s : State) : State := { s with dev := { s.dev with nv := s.dev.life, lastCommit := s.now } }
def execLifetimeCommit (peaks : List Nat) (s : State) : Out :=
  if s.dev.lastCommit + 2 ^ 32 ≤ s.now then
    .next (State.commitLife ((List.range 4).foldl (fun t d => t.countLife (tempBin d (peaks.getD d 0)) 1) s))
  else idle s
def execDroopEvent (die : Fin 4) (s : State) : Out := .next (s.countLife (0x200 + 8 * die.val) 1)
def execOrderlyPowerDown (s : State) : Out := .next s.commitLife

-- reset, life cycle, boot (R397, R398)

/-- Memory that no wipe reaches: stack-core SRAM, host memory, peers' memory. -/
def unwiped (k : Nat) : Bool := (decide (2 ^ 31 ≤ k) && decide (k < 2 ^ 32)) || decide (2 ^ 60 ≤ k)
def wipeMem (m : List Host.Cell) : List Host.Cell := m.filter (fun c => unwiped c.1)
/-- The dies after a reset with a compute die as Bellwether. -/
def resetDies (bell : Nat) : SMap Die := put die0 (put die0 [] 0 { bell := decide (bell = 0) }) bell { bell := true }
/-- A reset. The lifetime records, LCS, host memory and stack-core SRAM stay; an image that does not verify leaves the device in RECOVERY.
The agenda's entry chooses the compute die that firmware makes the Bellwether (R30; log 8). -/
def execReset (imageOk : Bool) (s : State) : Out :=
  .next { State.reset with
    mem := wipeMem s.mem, pace := s.pace, agenda := s.agenda, free := s.free, dies := resetDies (s.decided 0 0 % 4),
    dev := { lcs := s.dev.lcs, recovery := !imageOk, links := s.dev.links, life := s.dev.life, nv := s.dev.nv } }
/-- Power fails abruptly and comes back, with the reset that power-on is (R410): what had not been committed of the lifetime records is lost,
and so is every memory but the hosts' and the peers'. -/
def State.powerLoss (s : State) (imageOk : Bool) (bell : Nat) : State :=
  { State.reset with
    mem := s.mem.filter (fun c => decide (2 ^ 60 ≤ c.1)), pace := s.pace, agenda := s.agenda, free := s.free, dies := resetDies (bell % 4),
    dev := { lcs := s.dev.lcs, recovery := !imageOk, life := s.dev.nv, nv := s.dev.nv } }
/-- A unit after its firing has been killed and the wipe has run. -/
def wipedUnit (now : Nat) (u : Nat) (x : Unit) : Unit :=
  if u = mgmtCore then x
  else { endedUnit x now with part := if x.part = noPart then 0 else x.part, journal := [], inbox := [], sendq := [], asyncs := [], cache := [], latch := false,
                              eng := { x.eng with early := [], finished := x.eng.issued } }
def wipedCluster (_ : Nat) (x : Cluster) : Cluster :=
  { x with locks := [], chans := [], aeReqs := [], waiters := [], backlog := [], batches := 0, ready := [], lastGrant := [], lastSource := [] }
def wipedPch (_ : Nat) (h : Pch) : Pch :=
  { h with allbank := false, holder := none, hold := (0, 0), cmds := [], burst := none, window := false }
def wipedStack (_ : Nat) (h : Stack) : Stack :=
  { h with aeReqs := [], waiters := [], redq := [], swq := [], regs := [], pch := mapS pch0 wipedPch h.pch, entering := [], tickets := [] }
def wipedDie (_ : Nat) (x : Die) : Die := { x with tc := [], walks := [], absent := [] }
def wipedPart (_ : Nat) (x : Part) : Part :=
  { x with nodes := [], cores := [], present := [], stripes := [], regions := [], roots := [], laws := [], lawStg := [], handlers := [],
           handlerStg := [], bindings := [], launches := [], suspended := false, turnOf := [], logHead := 0, logTail := 0 }
/-- Every operation of a partition's cores, at an engine or saved (R291). -/
def State.coreOps (s : State) : List (EngineQueue × EOp) :=
  s.engineQueues.flatMap (fun e => ((s.engineOps e).filter (fun o => o.src.isSome)).map (fun o => (e, o)))
/-- The kill of every partition, which marks its cores' operations as aborted, the wipe, and the refill of place and region tables. -/
def State.wipe (s0 : State) : State :=
  let s := s0.coreOps.foldl (fun t x => t.failOp x.1 x.2 (aborted x.2) false) s0
  { s with
    cur := wipedUnit s.now s.focus s.cur, others := mapS unit0 (wipedUnit s.now) s.others, mem := wipeMem s.mem, laws := [],
    clusters := mapS cluster0 wipedCluster s.clusters, stks := mapS stack0 wipedStack s.stks, dies := mapS die0 wipedDie s.dies,
    parts := mapS part0 wipedPart s.parts, flights := [], replies := [], releases := [], vis := [], tokens := [], blocked := [], shoots := [],
    switches := [], saved := [], pens := {}, logged := [] }
/-- A change of life-cycle state at the owner's request. RETIRED accepts none. -/
def execLifeCycleChange (st : Fin 4) (s : State) : Out :=
  if s.dev.lcs = LCS_RETIRED ∨ s.dev.own.isNone then idle s
  else
    let t := s.wipe
    .next { t with dev := { t.dev with lcs := st.val } }
/-- A mailbox write that carries a new image ends RECOVERY when the image verifies. -/
def execRecoveryImage (imageOk : Bool) (s : State) : Out :=
  if s.dev.recovery && imageOk then .next { s with dev := { s.dev with recovery := false } } else idle s

end Sys2Proof.Machine
end

