-- ==== Sys2Proof/Machine/Dispatch.lean ====
section
/-! DEFINITION. One arm per instruction and step: a direct call of its meaning. -/

namespace Sys2Proof.Machine

/-- The meaning of each instruction. -/
def exec (i : Instr) (s : State) : Host.Outcome State Fault Refusal :=
  match i with
  | .lui rd imm => Sys2Proof.Machine.execLui rd imm s
  | .auipc rd imm => Sys2Proof.Machine.execAuipc rd imm s
  | .jal rd imm => Sys2Proof.Machine.execJal rd imm s
  | .jalr rd rs1 imm => Sys2Proof.Machine.execJalr rd rs1 imm s
  | .beq rs1 rs2 imm => Sys2Proof.Machine.execBeq rs1 rs2 imm s
  | .bne rs1 rs2 imm => Sys2Proof.Machine.execBne rs1 rs2 imm s
  | .blt rs1 rs2 imm => Sys2Proof.Machine.execBlt rs1 rs2 imm s
  | .bge rs1 rs2 imm => Sys2Proof.Machine.execBge rs1 rs2 imm s
  | .bltu rs1 rs2 imm => Sys2Proof.Machine.execBltu rs1 rs2 imm s
  | .bgeu rs1 rs2 imm => Sys2Proof.Machine.execBgeu rs1 rs2 imm s
  | .lb rd rs1 imm => Sys2Proof.Machine.execLb rd rs1 imm s
  | .lh rd rs1 imm => Sys2Proof.Machine.execLh rd rs1 imm s
  | .lw rd rs1 imm => Sys2Proof.Machine.execLw rd rs1 imm s
  | .ld rd rs1 imm => Sys2Proof.Machine.execLd rd rs1 imm s
  | .lbu rd rs1 imm => Sys2Proof.Machine.execLbu rd rs1 imm s
  | .lhu rd rs1 imm => Sys2Proof.Machine.execLhu rd rs1 imm s
  | .lwu rd rs1 imm => Sys2Proof.Machine.execLwu rd rs1 imm s
  | .sb rs2 rs1 imm => Sys2Proof.Machine.execSb rs2 rs1 imm s
  | .sh rs2 rs1 imm => Sys2Proof.Machine.execSh rs2 rs1 imm s
  | .sw rs2 rs1 imm => Sys2Proof.Machine.execSw rs2 rs1 imm s
  | .sd rs2 rs1 imm => Sys2Proof.Machine.execSd rs2 rs1 imm s
  | .addi rd rs1 imm => Sys2Proof.Machine.execAddi rd rs1 imm s
  | .slti rd rs1 imm => Sys2Proof.Machine.execSlti rd rs1 imm s
  | .sltiu rd rs1 imm => Sys2Proof.Machine.execSltiu rd rs1 imm s
  | .xori rd rs1 imm => Sys2Proof.Machine.execXori rd rs1 imm s
  | .ori rd rs1 imm => Sys2Proof.Machine.execOri rd rs1 imm s
  | .andi rd rs1 imm => Sys2Proof.Machine.execAndi rd rs1 imm s
  | .slli rd rs1 sh => Sys2Proof.Machine.execSlli rd rs1 sh s
  | .srli rd rs1 sh => Sys2Proof.Machine.execSrli rd rs1 sh s
  | .srai rd rs1 sh => Sys2Proof.Machine.execSrai rd rs1 sh s
  | .add rd rs1 rs2 => Sys2Proof.Machine.execAdd rd rs1 rs2 s
  | .sub rd rs1 rs2 => Sys2Proof.Machine.execSub rd rs1 rs2 s
  | .sll rd rs1 rs2 => Sys2Proof.Machine.execSll rd rs1 rs2 s
  | .slt rd rs1 rs2 => Sys2Proof.Machine.execSlt rd rs1 rs2 s
  | .sltu rd rs1 rs2 => Sys2Proof.Machine.execSltu rd rs1 rs2 s
  | .xor rd rs1 rs2 => Sys2Proof.Machine.execXor rd rs1 rs2 s
  | .srl rd rs1 rs2 => Sys2Proof.Machine.execSrl rd rs1 rs2 s
  | .sra rd rs1 rs2 => Sys2Proof.Machine.execSra rd rs1 rs2 s
  | .or rd rs1 rs2 => Sys2Proof.Machine.execOr rd rs1 rs2 s
  | .and rd rs1 rs2 => Sys2Proof.Machine.execAnd rd rs1 rs2 s
  | .addiw rd rs1 imm => Sys2Proof.Machine.execAddiw rd rs1 imm s
  | .slliw rd rs1 sh => Sys2Proof.Machine.execSlliw rd rs1 sh s
  | .srliw rd rs1 sh => Sys2Proof.Machine.execSrliw rd rs1 sh s
  | .sraiw rd rs1 sh => Sys2Proof.Machine.execSraiw rd rs1 sh s
  | .addw rd rs1 rs2 => Sys2Proof.Machine.execAddw rd rs1 rs2 s
  | .subw rd rs1 rs2 => Sys2Proof.Machine.execSubw rd rs1 rs2 s
  | .sllw rd rs1 rs2 => Sys2Proof.Machine.execSllw rd rs1 rs2 s
  | .srlw rd rs1 rs2 => Sys2Proof.Machine.execSrlw rd rs1 rs2 s
  | .sraw rd rs1 rs2 => Sys2Proof.Machine.execSraw rd rs1 rs2 s
  | .fence pred succ => Sys2Proof.Machine.execFence pred succ s
  | .ecall => Sys2Proof.Machine.execEcall s
  | .ebreak => Sys2Proof.Machine.execEbreak s
  | .mul rd rs1 rs2 => Sys2Proof.Machine.execMul rd rs1 rs2 s
  | .mulh rd rs1 rs2 => Sys2Proof.Machine.execMulh rd rs1 rs2 s
  | .mulhsu rd rs1 rs2 => Sys2Proof.Machine.execMulhsu rd rs1 rs2 s
  | .mulhu rd rs1 rs2 => Sys2Proof.Machine.execMulhu rd rs1 rs2 s
  | .div rd rs1 rs2 => Sys2Proof.Machine.execDiv rd rs1 rs2 s
  | .divu rd rs1 rs2 => Sys2Proof.Machine.execDivu rd rs1 rs2 s
  | .rem rd rs1 rs2 => Sys2Proof.Machine.execRem rd rs1 rs2 s
  | .remu rd rs1 rs2 => Sys2Proof.Machine.execRemu rd rs1 rs2 s
  | .mulw rd rs1 rs2 => Sys2Proof.Machine.execMulw rd rs1 rs2 s
  | .divw rd rs1 rs2 => Sys2Proof.Machine.execDivw rd rs1 rs2 s
  | .divuw rd rs1 rs2 => Sys2Proof.Machine.execDivuw rd rs1 rs2 s
  | .remw rd rs1 rs2 => Sys2Proof.Machine.execRemw rd rs1 rs2 s
  | .remuw rd rs1 rs2 => Sys2Proof.Machine.execRemuw rd rs1 rs2 s
  | .csrrw rd rs1 csr => Sys2Proof.Machine.execCsrrw rd rs1 csr s
  | .csrrs rd rs1 csr => Sys2Proof.Machine.execCsrrs rd rs1 csr s
  | .csrrc rd rs1 csr => Sys2Proof.Machine.execCsrrc rd rs1 csr s
  | .csrrwi rd uimm csr => Sys2Proof.Machine.execCsrrwi rd uimm csr s
  | .csrrsi rd uimm csr => Sys2Proof.Machine.execCsrrsi rd uimm csr s
  | .csrrci rd uimm csr => Sys2Proof.Machine.execCsrrci rd uimm csr s
  | .sh1add rd rs1 rs2 => Sys2Proof.Machine.execSh1add rd rs1 rs2 s
  | .sh2add rd rs1 rs2 => Sys2Proof.Machine.execSh2add rd rs1 rs2 s
  | .sh3add rd rs1 rs2 => Sys2Proof.Machine.execSh3add rd rs1 rs2 s
  | .addUw rd rs1 rs2 => Sys2Proof.Machine.execAddUw rd rs1 rs2 s
  | .sh1addUw rd rs1 rs2 => Sys2Proof.Machine.execSh1addUw rd rs1 rs2 s
  | .sh2addUw rd rs1 rs2 => Sys2Proof.Machine.execSh2addUw rd rs1 rs2 s
  | .sh3addUw rd rs1 rs2 => Sys2Proof.Machine.execSh3addUw rd rs1 rs2 s
  | .slliUw rd rs1 sh => Sys2Proof.Machine.execSlliUw rd rs1 sh s
  | .illegalWord w => Sys2Proof.Machine.execIllegalWord w s
  | .fin => Sys2Proof.Machine.execFin s
  | .widf rd k => Sys2Proof.Machine.execWidf rd k s
  | .grow rd rs1 => Sys2Proof.Machine.execGrow rd rs1 s
  | .launch rd rs1 => Sys2Proof.Machine.execLaunch rd rs1 s
  | .wfe rs1 => Sys2Proof.Machine.execWfe rs1 s
  | .lpclr n => Sys2Proof.Machine.execLpclr n s
  | .tret => Sys2Proof.Machine.execTret s
  | .kill rd rs1 => Sys2Proof.Machine.execKill rd rs1 s
  | .placew rd rs1 rs2 => Sys2Proof.Machine.execPlacew rd rs1 rs2 s
  | .qwaitF q rs1 => Sys2Proof.Machine.execQwaitF q rs1 s
  | .qwaitE q rs1 => Sys2Proof.Machine.execQwaitE q rs1 s
  | .qadvC q rs1 => Sys2Proof.Machine.execQadvC q rs1 s
  | .qadvP q rs1 => Sys2Proof.Machine.execQadvP q rs1 s
  | .qcnt rd q => Sys2Proof.Machine.execQcnt rd q s
  | .qslot rd q rs1 => Sys2Proof.Machine.execQslot rd q rs1 s
  | .lpset n rs1 imm => Sys2Proof.Machine.execLpset n rs1 imm s
  | .lpseti n count imm => Sys2Proof.Machine.execLpseti n count imm s
  | .atPfx rs1 tail => Sys2Proof.Machine.execAtPfx rs1 tail s
  | .extPfx e tail => Sys2Proof.Machine.execExtPfx e tail s
  | .send rs1 rs2 => Sys2Proof.Machine.execSend rs1 rs2 s
  | .sendR rd rs1 rs2 => Sys2Proof.Machine.execSendR rd rs1 rs2 s
  | .sendnb rd rs1 rs2 => Sys2Proof.Machine.execSendnb rd rs1 rs2 s
  | .rcall rd rs1 rs2 => Sys2Proof.Machine.execRcall rd rs1 rs2 s
  | .reply => Sys2Proof.Machine.execReply s
  | .rwait rd rs1 => Sys2Proof.Machine.execRwait rd rs1 s
  | .rpoll rd rs1 => Sys2Proof.Machine.execRpoll rd rs1 s
  | .semwait idx rs1 => Sys2Proof.Machine.execSemwait idx rs1 s
  | .semadd idx rs1 => Sys2Proof.Machine.execSemadd idx rs1 s
  | .semset idx rs1 => Sys2Proof.Machine.execSemset idx rs1 s
  | .semrd rd idx => Sys2Proof.Machine.execSemrd rd idx s
  | .bardecl idx rs1 => Sys2Proof.Machine.execBardecl idx rs1 s
  | .barwait idx => Sys2Proof.Machine.execBarwait idx s
  | .chkwait idx rs1 => Sys2Proof.Machine.execChkwait idx rs1 s
  | .chktest rd idx rs1 => Sys2Proof.Machine.execChktest rd idx rs1 s
  | .ecmd rd rs1 => Sys2Proof.Machine.execEcmd rd rs1 s
  | .eseq rd rs1 => Sys2Proof.Machine.execEseq rd rs1 s
  | .acqX rd rs1 => Sys2Proof.Machine.execAcqX rd rs1 s
  | .acqS rd rs1 => Sys2Proof.Machine.execAcqS rd rs1 s
  | .acqw rd rs2 rs1 => Sys2Proof.Machine.execAcqw rd rs2 rs1 s
  | .rel rs1 => Sys2Proof.Machine.execRel rs1 s
  | .relv rs2 rs1 => Sys2Proof.Machine.execRelv rs2 rs1 s
  | .bind rs1 rs2 => Sys2Proof.Machine.execBind rs1 rs2 s
  | .unbind rs1 rs2 => Sys2Proof.Machine.execUnbind rs1 rs2 s
  | .fenceG => Sys2Proof.Machine.execFenceG s
  | .fenceB rs1 => Sys2Proof.Machine.execFenceB rs1 s
  | .fenceE => Sys2Proof.Machine.execFenceE s
  | .fenceJ => Sys2Proof.Machine.execFenceJ s
  | .amoaddW rd rs2 rs1 => Sys2Proof.Machine.execAmoaddW rd rs2 rs1 s
  | .amoaddWP rs2 rs1 => Sys2Proof.Machine.execAmoaddWP rs2 rs1 s
  | .amoaddD rd rs2 rs1 => Sys2Proof.Machine.execAmoaddD rd rs2 rs1 s
  | .amoaddDP rs2 rs1 => Sys2Proof.Machine.execAmoaddDP rs2 rs1 s
  | .amoandW rd rs2 rs1 => Sys2Proof.Machine.execAmoandW rd rs2 rs1 s
  | .amoandWP rs2 rs1 => Sys2Proof.Machine.execAmoandWP rs2 rs1 s
  | .amoandD rd rs2 rs1 => Sys2Proof.Machine.execAmoandD rd rs2 rs1 s
  | .amoandDP rs2 rs1 => Sys2Proof.Machine.execAmoandDP rs2 rs1 s
  | .amoorW rd rs2 rs1 => Sys2Proof.Machine.execAmoorW rd rs2 rs1 s
  | .amoorWP rs2 rs1 => Sys2Proof.Machine.execAmoorWP rs2 rs1 s
  | .amoorD rd rs2 rs1 => Sys2Proof.Machine.execAmoorD rd rs2 rs1 s
  | .amoorDP rs2 rs1 => Sys2Proof.Machine.execAmoorDP rs2 rs1 s
  | .amoxorW rd rs2 rs1 => Sys2Proof.Machine.execAmoxorW rd rs2 rs1 s
  | .amoxorWP rs2 rs1 => Sys2Proof.Machine.execAmoxorWP rs2 rs1 s
  | .amoxorD rd rs2 rs1 => Sys2Proof.Machine.execAmoxorD rd rs2 rs1 s
  | .amoxorDP rs2 rs1 => Sys2Proof.Machine.execAmoxorDP rs2 rs1 s
  | .amominW rd rs2 rs1 => Sys2Proof.Machine.execAmominW rd rs2 rs1 s
  | .amominWP rs2 rs1 => Sys2Proof.Machine.execAmominWP rs2 rs1 s
  | .amominD rd rs2 rs1 => Sys2Proof.Machine.execAmominD rd rs2 rs1 s
  | .amominDP rs2 rs1 => Sys2Proof.Machine.execAmominDP rs2 rs1 s
  | .amomaxW rd rs2 rs1 => Sys2Proof.Machine.execAmomaxW rd rs2 rs1 s
  | .amomaxWP rs2 rs1 => Sys2Proof.Machine.execAmomaxWP rs2 rs1 s
  | .amomaxD rd rs2 rs1 => Sys2Proof.Machine.execAmomaxD rd rs2 rs1 s
  | .amomaxDP rs2 rs1 => Sys2Proof.Machine.execAmomaxDP rs2 rs1 s
  | .amominuW rd rs2 rs1 => Sys2Proof.Machine.execAmominuW rd rs2 rs1 s
  | .amominuWP rs2 rs1 => Sys2Proof.Machine.execAmominuWP rs2 rs1 s
  | .amominuD rd rs2 rs1 => Sys2Proof.Machine.execAmominuD rd rs2 rs1 s
  | .amominuDP rs2 rs1 => Sys2Proof.Machine.execAmominuDP rs2 rs1 s
  | .amomaxuW rd rs2 rs1 => Sys2Proof.Machine.execAmomaxuW rd rs2 rs1 s
  | .amomaxuWP rs2 rs1 => Sys2Proof.Machine.execAmomaxuWP rs2 rs1 s
  | .amomaxuD rd rs2 rs1 => Sys2Proof.Machine.execAmomaxuD rd rs2 rs1 s
  | .amomaxuDP rs2 rs1 => Sys2Proof.Machine.execAmomaxuDP rs2 rs1 s
  | .amoswapW rd rs2 rs1 => Sys2Proof.Machine.execAmoswapW rd rs2 rs1 s
  | .amoswapWP rs2 rs1 => Sys2Proof.Machine.execAmoswapWP rs2 rs1 s
  | .amoswapD rd rs2 rs1 => Sys2Proof.Machine.execAmoswapD rd rs2 rs1 s
  | .amoswapDP rs2 rs1 => Sys2Proof.Machine.execAmoswapDP rs2 rs1 s
  | .amocasW rd rs2 rs3 rs1 => Sys2Proof.Machine.execAmocasW rd rs2 rs3 rs1 s
  | .amocasD rd rs2 rs3 rs1 => Sys2Proof.Machine.execAmocasD rd rs2 rs3 rs1 s
  | .amofaddS rd rs2 rs1 => Sys2Proof.Machine.execAmofaddS rd rs2 rs1 s
  | .amofaddBh rd rs2 rs1 => Sys2Proof.Machine.execAmofaddBh rd rs2 rs1 s
  | .amofmaxS rd rs2 rs1 => Sys2Proof.Machine.execAmofmaxS rd rs2 rs1 s
  | .swldC rd rs1 => Sys2Proof.Machine.execSwldC rd rs1 s
  | .swldV rd rs1 => Sys2Proof.Machine.execSwldV rd rs1 s
  | .swst rs2 rs1 => Sys2Proof.Machine.execSwst rs2 rs1 s
  | .swadd rd rs2 rs1 => Sys2Proof.Machine.execSwadd rd rs2 rs1 s
  | .swarm rd rs2 rs1 => Sys2Proof.Machine.execSwarm rd rs2 rs1 s
  | .swdis rs1 => Sys2Proof.Machine.execSwdis rs1 s
  | .swraw rd rs2 rs1 => Sys2Proof.Machine.execSwraw rd rs2 rs1 s
  | .bmode rd rs2 rs1 => Sys2Proof.Machine.execBmode rd rs2 rs1 s
  | .bcast rs2 rs1 => Sys2Proof.Machine.execBcast rs2 rs1 s
  | .bmv rd rs2 rs1 => Sys2Proof.Machine.execBmv rd rs2 rs1 s
  | .bexpr rd rs2 rs1 => Sys2Proof.Machine.execBexpr rd rs2 rs1 s
  | .bget rs2 rs1 => Sys2Proof.Machine.execBget rs2 rs1 s
  | .bstat rd rs1 => Sys2Proof.Machine.execBstat rd rs1 s
  | .mma acc rs1 rs2 rs3 => Sys2Proof.Machine.execMma acc rs1 rs2 rs3 s
  | .wld n rs1 rs2 => Sys2Proof.Machine.execWld n rs1 rs2 s
  | .accz acc => Sys2Proof.Machine.execAccz acc s
  | .accrd vd acc rs1 => Sys2Proof.Machine.execAccrd vd acc rs1 s
  | .accwr acc vs rs1 => Sys2Proof.Machine.execAccwr acc vs rs1 s
  | .accst acc rs1 => Sys2Proof.Machine.execAccst acc rs1 s
  | .mstat rd => Sys2Proof.Machine.execMstat rd s
  | .vfadd vd va vb => Sys2Proof.Machine.execVfadd vd va vb s
  | .vfsub vd va vb => Sys2Proof.Machine.execVfsub vd va vb s
  | .vfmul vd va vb => Sys2Proof.Machine.execVfmul vd va vb s
  | .vfmax vd va vb => Sys2Proof.Machine.execVfmax vd va vb s
  | .vfmin vd va vb => Sys2Proof.Machine.execVfmin vd va vb s
  | .vfabs vd va => Sys2Proof.Machine.execVfabs vd va s
  | .vfneg vd va => Sys2Proof.Machine.execVfneg vd va s
  | .vfcmp cond vd va vb => Sys2Proof.Machine.execVfcmp cond vd va vb s
  | .viadd vd va vb => Sys2Proof.Machine.execViadd vd va vb s
  | .visub vd va vb => Sys2Proof.Machine.execVisub vd va vb s
  | .vimul vd va vb => Sys2Proof.Machine.execVimul vd va vb s
  | .vand vd va vb => Sys2Proof.Machine.execVand vd va vb s
  | .vor vd va vb => Sys2Proof.Machine.execVor vd va vb s
  | .vxor vd va vb => Sys2Proof.Machine.execVxor vd va vb s
  | .vsll vd va vb => Sys2Proof.Machine.execVsll vd va vb s
  | .vsrl vd va vb => Sys2Proof.Machine.execVsrl vd va vb s
  | .vsra vd va vb => Sys2Proof.Machine.execVsra vd va vb s
  | .vimin vd va vb => Sys2Proof.Machine.execVimin vd va vb s
  | .vimax vd va vb => Sys2Proof.Machine.execVimax vd va vb s
  | .vicmp cond vd va vb => Sys2Proof.Machine.execVicmp cond vd va vb s
  | .vexp2 vd va => Sys2Proof.Machine.execVexp2 vd va s
  | .vrcp vd va => Sys2Proof.Machine.execVrcp vd va s
  | .vrsq vd va => Sys2Proof.Machine.execVrsq vd va s
  | .vlog2 vd va => Sys2Proof.Machine.execVlog2 vd va s
  | .vcvt kind vd va => Sys2Proof.Machine.execVcvt kind vd va s
  | .vfsum vd va => Sys2Proof.Machine.execVfsum vd va s
  | .vfmaxr vd va => Sys2Proof.Machine.execVfmaxr vd va s
  | .visum vd va => Sys2Proof.Machine.execVisum vd va s
  | .vperm vd va vb => Sys2Proof.Machine.execVperm vd va vb s
  | .vbcast vd rs1 => Sys2Proof.Machine.execVbcast vd rs1 s
  | .vmvx rd va lane => Sys2Proof.Machine.execVmvx rd va lane s
  | .vmvv vd va => Sys2Proof.Machine.execVmvv vd va s
  | .vslide vd va amt => Sys2Proof.Machine.execVslide vd va amt s
  | .vlds vd rs1 rs2 => Sys2Proof.Machine.execVlds vd rs1 rs2 s
  | .vsts vs rs1 rs2 => Sys2Proof.Machine.execVsts vs rs1 rs2 s
  | .vldx vd rs1 vb => Sys2Proof.Machine.execVldx vd rs1 vb s
  | .vld vd rs1 imm => Sys2Proof.Machine.execVld vd rs1 imm s
  | .vst vs rs1 imm => Sys2Proof.Machine.execVst vs rs1 imm s
  | .vfma vd va vb vc => Sys2Proof.Machine.execVfma vd va vb vc s
  | .vfms vd va vb vc => Sys2Proof.Machine.execVfms vd va vb vc s
  | .vsel vd va vb vc => Sys2Proof.Machine.execVsel vd va vb vc s
  | .vrec vd va vb vc => Sys2Proof.Machine.execVrec vd va vb vc s
  | .bfmtWrite f b rd src => Sys2Proof.Machine.execBfmtWrite f b rd src s
  | .tstatusWrite f rd src => Sys2Proof.Machine.execTstatusWrite f rd src s
  | .loopCsrWrite f k rd src => Sys2Proof.Machine.execLoopCsrWrite f k rd src s
  | .replyCsrWrite f k rd src => Sys2Proof.Machine.execReplyCsrWrite f k rd src s
  | .trapEntry u => Sys2Proof.Machine.execTrapEntry u s
  | .dispatchRecord src => Sys2Proof.Machine.execDispatchRecord src s
  | .residencyCheck part lid => Sys2Proof.Machine.execResidencyCheck part lid s
  | .batchGrant part cluster => Sys2Proof.Machine.execBatchGrant part cluster s
  | .stageSchedule u => Sys2Proof.Machine.execStageSchedule u s
  | .stackCoreFiringStart u => Sys2Proof.Machine.execStackCoreFiringStart u s
  | .phaseCommit part lid => Sys2Proof.Machine.execPhaseCommit part lid s
  | .launchComplete part lid => Sys2Proof.Machine.execLaunchComplete part lid s
  | .watchdogExpiry u => Sys2Proof.Machine.execWatchdogExpiry u s
  | .messageDepart u => Sys2Proof.Machine.execMessageDepart u s
  | .messageAccept k => Sys2Proof.Machine.execMessageAccept k s
  | .replyArrival k => Sys2Proof.Machine.execReplyArrival k s
  | .replyTimeout u slot => Sys2Proof.Machine.execReplyTimeout u slot s
  | .wfeTimeout u => Sys2Proof.Machine.execWfeTimeout u s
  | .homeLoad u walk => Sys2Proof.Machine.execHomeLoad u walk s
  | .homeStoreArrival u j => Sys2Proof.Machine.execHomeStoreArrival u j s
  | .journalAck u j => Sys2Proof.Machine.execJournalAck u j s
  | .journalRefusal u j => Sys2Proof.Machine.execJournalRefusal u j s
  | .unblockToken k => Sys2Proof.Machine.execUnblockToken k s
  | .timedStoreArrival u j => Sys2Proof.Machine.execTimedStoreArrival u j s
  | .timedStoreAccept u j => Sys2Proof.Machine.execTimedStoreAccept u j s
  | .timedStoreVisible k => Sys2Proof.Machine.execTimedStoreVisible k s
  | .notBeforeLoad u => Sys2Proof.Machine.execNotBeforeLoad u s
  | .acquireRequest u => Sys2Proof.Machine.execAcquireRequest u s
  | .objectGrant k => Sys2Proof.Machine.execObjectGrant k s
  | .acquireCancel u => Sys2Proof.Machine.execAcquireCancel u s
  | .releaseApply k => Sys2Proof.Machine.execReleaseApply k s
  | .atomicEngineGrant c => Sys2Proof.Machine.execAtomicEngineGrant c s
  | .stackAtomicGrant g => Sys2Proof.Machine.execStackAtomicGrant g s
  | .copy c ch => Sys2Proof.Machine.execCopy c ch s
  | .copyt c ch => Sys2Proof.Machine.execCopyt c ch s
  | .csrwalk c ch => Sys2Proof.Machine.execCsrwalk c ch s
  | .swregRegister g => Sys2Proof.Machine.execSwregRegister g s
  | .swregUnregister g => Sys2Proof.Machine.execSwregUnregister g s
  | .reduce g => Sys2Proof.Machine.execReduce g s
  | .apertureStart c part ch v => Sys2Proof.Machine.execApertureStart c part ch v s
  | .chunkComplete c ch idx => Sys2Proof.Machine.execChunkComplete c ch idx s
  | .engineOpComplete e => Sys2Proof.Machine.execEngineOpComplete e s
  | .engineOpFaulted e => Sys2Proof.Machine.execEngineOpFaulted e s
  | .killDone u => Sys2Proof.Machine.execKillDone u s
  | .roosterDue l k => Sys2Proof.Machine.execRoosterDue l k s
  | .sweepVisit l => Sys2Proof.Machine.execSweepVisit l s
  | .alarmPost l => Sys2Proof.Machine.execAlarmPost l s
  | .lawTableCommit idx v => Sys2Proof.Machine.execLawTableCommit idx v s
  | .thresholdCommit stack idx v => Sys2Proof.Machine.execThresholdCommit stack idx v s
  | .stepCounterWrite j v => Sys2Proof.Machine.execStepCounterWrite j v s
  | .handlerTableCommit idx v => Sys2Proof.Machine.execHandlerTableCommit idx v s
  | .bmodeGrant g pch => Sys2Proof.Machine.execBmodeGrant g pch s
  | .bmvBurst g pch => Sys2Proof.Machine.execBmvBurst g pch s
  | .bexprPiece g pch => Sys2Proof.Machine.execBexprPiece g pch s
  | .bankRetry r => Sys2Proof.Machine.execBankRetry r s
  | .retryResend g k => Sys2Proof.Machine.execRetryResend g k s
  | .burstTicketWindowEnd g pch => Sys2Proof.Machine.execBurstTicketWindowEnd g pch s
  | .beadFault g pch progress => Sys2Proof.Machine.execBeadFault g pch progress s
  | .clockExchange die good offset => Sys2Proof.Machine.execClockExchange die good offset s
  | .holdoverExpiry die => Sys2Proof.Machine.execHoldoverExpiry die s
  | .peerClockExchange good offset => Sys2Proof.Machine.execPeerClockExchange good offset s
  | .gangStop => Sys2Proof.Machine.execGangStop s
  | .coreEvict u => Sys2Proof.Machine.execCoreEvict u s
  | .partitionResume => Sys2Proof.Machine.execPartitionResume s
  | .serviceSwitch src => Sys2Proof.Machine.execServiceSwitch src s
  | .serviceShoot src => Sys2Proof.Machine.execServiceShoot src s
  | .servicePlace src => Sys2Proof.Machine.execServicePlace src s
  | .serviceRoot src => Sys2Proof.Machine.execServiceRoot src s
  | .serviceFweight src => Sys2Proof.Machine.execServiceFweight src s
  | .servicePeer src => Sys2Proof.Machine.execServicePeer src s
  | .serviceGrandmaster src => Sys2Proof.Machine.execServiceGrandmaster src s
  | .serviceDiscipline src => Sys2Proof.Machine.execServiceDiscipline src s
  | .serviceHandover src => Sys2Proof.Machine.execServiceHandover src s
  | .serviceAttest src => Sys2Proof.Machine.execServiceAttest src s
  | .serviceRegion src => Sys2Proof.Machine.execServiceRegion src s
  | .ownClaim master link => Sys2Proof.Machine.execOwnClaim master link s
  | .hostQtailWrite part link v => Sys2Proof.Machine.execHostQtailWrite part link v s
  | .walkFill die k => Sys2Proof.Machine.execWalkFill die k s
  | .faultRecordPost part => Sys2Proof.Machine.execFaultRecordPost part s
  | .ringHeadWrite part terminal v => Sys2Proof.Machine.execRingHeadWrite part terminal v s
  | .fstatWrite part v => Sys2Proof.Machine.execFstatWrite part v s
  | .detctlWrite v => Sys2Proof.Machine.execDetctlWrite v s
  | .orderLogRecord part lid kind unit choice => Sys2Proof.Machine.execOrderLogRecord part lid kind unit choice s
  | .budgetTreePeriod demand => Sys2Proof.Machine.execBudgetTreePeriod demand s
  | .pwrctlWrite v => Sys2Proof.Machine.execPwrctlWrite v s
  | .divWrite k v => Sys2Proof.Machine.execDivWrite k v s
  | .voltageRampEnd c => Sys2Proof.Machine.execVoltageRampEnd c s
  | .frequencySwitch c => Sys2Proof.Machine.execFrequencySwitch c s
  | .powerSwitchOpen u => Sys2Proof.Machine.execPowerSwitchOpen u s
  | .powerSwitchClose u => Sys2Proof.Machine.execPowerSwitchClose u s
  | .linkLost link => Sys2Proof.Machine.execLinkLost link s
  | .flitRetry hop => Sys2Proof.Machine.execFlitRetry hop s
  | .lifetimeCommit peaks => Sys2Proof.Machine.execLifetimeCommit peaks s
  | .reset imageOk => Sys2Proof.Machine.execReset imageOk s
  | .lifeCycleChange st => Sys2Proof.Machine.execLifeCycleChange st s
  | .recoveryImage imageOk => Sys2Proof.Machine.execRecoveryImage imageOk s
  | .registerWrite w v => Sys2Proof.Machine.execRegisterWrite w v s
  | .linkDown link => Sys2Proof.Machine.execLinkDown link s
  | .linkRetrain link => Sys2Proof.Machine.execLinkRetrain link s
  | .droopEvent die => Sys2Proof.Machine.execDroopEvent die s
  | .orderlyPowerDown => Sys2Proof.Machine.execOrderlyPowerDown s

end Sys2Proof.Machine
end

