-- ==== Sys2Proof/Machine/Errors.lean ====
section
/-! DEFINITION. What an error of a storage place does (27_reliability R407, R409; 05_core_model R105; 14_tensor_engine R247;
17_transfer_sync R290). Which word fails and when is physical: the agenda says it (notes/assumptions/64). -/

namespace Sys2Proof.Machine

/-- An engine's operation reads an uncorrectable word: it will end FAULTED; the elements it has written stay written (R290). -/
def State.engineError (s : State) (e : EngineQueue) (place : Nat) (addr : Word) : Out :=
  match s.engineHead e with
  | none => idle s
  | some o =>
    if o.fail.isSome then idle s
    else .next ((s.setEngineHead e { o with fail := some { cause := 0x20, sub := 0, addr := addr, progress := progressOf o } }).countLife
      (0x248 + 8 * place) 1)
def State.physError (s : State) : PhysError → Out
  | .corrected place => if place < 3 then .next (s.countLife (0x220 + 8 * place) 1) else idle s
  | .parity die k =>
    if die ≥ 12 then .fault (.noSuchPlace die)
    else
      let x := s.getDie die
      match x.tc[k]? with
      | some w =>
        -- the walk is the die's: an entry of a stripe set has bytes homed there
        let here := fun (o : Nat) => match s.home w.part w.node o with
          | some h => homeDie h == die
          | none => false
        let o := w.base + 4096 * (firstBelow (fun i => here (w.base + 4096 * i)) (w.size / 4096) 0).getD 0
        .next (((s.setDie die { x with tc := x.tc.eraseIdx k }).countLife 0x240 1).startWalk w.part w.node o)
      | none => idle s
  -- an imprecise cause freezes a running context, and its record goes to the terminal ring (R105)
  | .uncorrectable u place =>
    if u ≥ 2305 then .fault (.noSuchPlace u)
    else if place < 3 ∧ (s.getUnit u).run = .running then .next ((s.countLife (0x248 + 8 * place) 1).freeze u 0x20 0 false) else idle s
  | .internal u =>
    if u ≥ 2305 then .fault (.noSuchPlace u)
    else if isCore u ∧ (s.getUnit u).run = .running then .next (s.freeze u 0x21 0 false) else idle s
  | .powerLoss imageOk bell => .next (s.powerLoss imageOk bell)
  | .engine e place addr => if place < 3 then s.engineError e place addr else idle s

end Sys2Proof.Machine
end

