-- ==== Sys2Proof/Machine/Tiles.lean ====
section
/-! DEFINITION. The elements of a tensor instruction, one by one (R246, R269): the agenda may have one read or written ahead of the
instruction's retirement, so that other cores' accesses through the cluster window fall between. A trap or a stop discards what has been
read (R245). -/

namespace Sys2Proof.Machine

/-- An instruction that writes its own scratchpad element by element. -/
def storesElems : Instr → Bool
  | .vst .. | .vsts .. | .accst .. | .extPfx _ (.one (.vst ..)) | .extPfx _ (.viaAt _ (.vst ..)) => true
  | _ => false
/-- The first byte and the bytes of the element of the own scratchpad that holds byte a. -/
def State.elemAt (s : State) (a : Nat) : Nat × Nat :=
  let e := wholeBytes (s.bankFmt a)
  (a / e * e, e)
/-- The instruction of the unit in focus reads the element at byte a now. An own write that is not performed, or a range lock, keeps it. -/
def State.seeElem (s : State) (a : Nat) : State :=
  let q := s.elemAt a
  if spadBytes ≤ a ∨ s.spanPending q.1 q.2 ∨ (s.lockedElem q.1 q.2 q.2 false).isSome then s
  else
    let m := (List.range q.2).foldl (fun t i => put seen0 t (q.1 + i) (some (s.spadByte (q.1 + i)))) s.cur.tile.seen
    { s with cur := { s.cur with tile := { s.cur.tile with seen := m } } }
/-- The vector or accumulator store of the unit in focus writes the element at byte a now, as it will stand when the instruction has retired;
nothing while the instruction would not retire. -/
def State.putElem (s : State) (a : Nat) : State :=
  let q := s.elemAt a
  match s.fetch with
  | .error _ => s
  | .ok (i, r) =>
    if !storesElems i ∨ spadBytes ≤ a then s
    else
      -- a byte outside the scratchpad marks the instruction as begun: its retirement takes the mark away
      let marked := { r with cur := { r.cur with tile := { r.cur.tile with put := spadBytes :: r.cur.tile.put } } }
      match exec i marked with
      | .next t =>
        if t.cur.tile.put = [] then
          let bs := t.readBytes (fun i => scratchKey s.focus (q.1 + i)) q.2
          let w := r.writeSpad q.1 bs
          { w with cur := { w.cur with tile := { w.cur.tile with put := w.cur.tile.put ++ (List.range q.2).map (q.1 + ·) } } }
        else s
      | _ => s
/-- The tensor instruction that core u is at reads or writes one element ahead. -/
def State.element (s : State) (u a : Nat) (write : Bool) : Out :=
  if u ≥ 2048 then .fault (.noSuchPlace u)
  else
    let t := s.refocus u
    if t.cur.run ≠ .running ∨ t.cur.wait ≠ .none ∨ t.breaks u ∨ t.fetchHeld then idle s
    else .next (if write then t.putElem a else t.seeElem a)

end Sys2Proof.Machine
end

