-- ==== Sys2Proof/Machine/Step.lean ====
section
/-! DEFINITION. One step of the package (notes/assumptions/14): the next entry of the agenda, else an instruction of the unit in focus. -/

namespace Sys2Proof.Machine

/-- The unit in focus stands still: a held terminal record freezes its context (R386), or its cluster relocks (R405). -/
def State.standsStill (s : State) : Bool :=
  s.heldBy s.focus || (isCore s.focus && decide (s.now < (s.getCluster (clusterOf s.focus)).pwr.relock))
/-- The unit in focus stops when its partition's switch is due (R359), takes a pending asynchronous cause (R105, R106), or runs one
instruction, whose fetch a burst holds. -/
def runUnit (s : State) : Host.Outcome State Fault Refusal :=
  if s.cur.run ≠ .running ∨ s.standsStill then .next s
  else if s.mustStop then exec .gangStop s
  else if s.cur.priv = .u ∧ s.cur.asyncs ≠ [] ∧ interruptible s.cur.wait then exec (.trapEntry s.focus) s
  else if s.fetchHeld then .next s
  else match s.fetch with
    | .error e => raisePlace e
    | .ok (i, t) => exec i t

/-- One step: `pace` ticks pass, timed stores that are due are written (R158), then the agenda's next entry comes about, or the unit in
focus runs. -/
def step (s : State) : Host.Outcome State Fault Refusal :=
  let t := State.flushDue (s.elapse s.pace)
  match t.agenda with
  | [] => runUnit t
  | .event i c :: rest => if encode i = [] then exec i { t with agenda := rest, choice := c } else .next { t with agenda := rest }
  | .error e :: rest => State.physError { t with agenda := rest } e
  | .evict u a :: rest => if u < 2305 then .next (State.evictLine { t with agenda := rest } u a) else .fault (.noSuchPlace u)
  | .abandon u n :: rest => if State.standsStill (t.refocus u) then .next { t with agenda := rest } else State.abandon { t with agenda := rest } u n
  | .element u a w :: rest => if State.standsStill (t.refocus u) then .next { t with agenda := rest } else State.element { t with agenda := rest } u a w
  | .run u :: rest => if u < 2305 then runUnit (State.refocus { t with agenda := rest } u) else .fault (.noSuchPlace u)
  | .pass n :: rest => .next (State.elapse { t with agenda := rest } n)

/-- The state with an instruction's bits stored where the next step fetches. -/
def State.withFetchWord (s : State) (nbits w : Nat) : State :=
  let v := w % 2 ^ nbits
  s.place (bytesOfWord (BitVec.ofNat 32 v) ++ bytesOfWord (BitVec.ofNat 32 (v / 2 ^ 32)) ++ bytesOfWord (BitVec.ofNat 32 (v / 2 ^ 64)))

end Sys2Proof.Machine
end

