-- ==== Sys2Proof/WellFormed.lean ====
section
/-! DEFINITION. Well-formed instructions: operands inside the limits of their rows (R50, R52, R56, R61, R63), and steps without a word
that name a unit, cluster, stack, die, partition or link the K9 has (R10, R13, R18). -/

namespace Sys2Proof

/-- Units: cores 0-2047, stack cores 2048-2303, the management core 2304 (R10, R323). -/
def okUnit (u : Nat) : Bool := decide (u < 2305)
/-- Law units: one per core, and 4096 + GS for stack GS (R195, R330). -/
def okLaw (l : Nat) : Bool := decide (l < 2048) || (decide (4096 ≤ l) && decide (l < 4104))
def okCluster (c : Nat) : Bool := decide (c < 128)
def okStack (g : Nat) : Bool := decide (g < 8)
def okPch (p : Nat) : Bool := decide (p < 128)
def okDie (d : Nat) : Bool := decide (d < 12)
def okPart (p : Nat) : Bool := decide (p < 16)
def okLink (n : Nat) : Bool := decide (n < 2)
/-- Host links 0-1, peer links 2-13, bridges 14-29. -/
def okAnyLink (n : Nat) : Bool := decide (n < 30)
def okChan (ch : Nat) : Bool := decide (ch < 8)

/-- A load or store: what AT accepts (R61). -/
def isMem : Follower → Bool
  | .load _ _ _ _ | .store _ _ _ _ => true
  | _ => false

/-- What may follow AT (R61), or what R63 refuses after it. -/
def okAtTail : Tail → Bool
  | .one f => isMem f
  | .viaExt _ f => isMem f
  | .viaAt _ _ => false
  | .bad w => (memFollower w).isNone && (extOf w).isNone
  | .badExt _ w => (memFollower w).isNone
  | .badAt _ _ => false

/-- What may follow EXT (R61), or what R63 refuses after it. -/
def okExtTail : Tail → Bool
  | .one _ => true
  | .viaAt _ f => isMem f
  | .viaExt _ _ => false
  | .bad w => (extFollower w).isNone && (atOf w).isNone
  | .badAt _ w => (memFollower w).isNone
  | .badExt _ _ => false

def okSubmitter : Submitter → Bool
  | .unit u => okUnit u
  | .host p n => okPart p && okLink n
def okRequester : Requester → Bool
  | .mailbox p n => okPart p && okLink n
  | .unit u => okUnit u
def okQueue : EngineQueue → Bool
  | .chan c ch => okCluster c && okChan ch
  | .red g => okStack g
  | .swreg g => okStack g
def okReq : ReqId → Bool
  | .load u => okUnit u
  | .store u j => okUnit u && decide (j < 64)
  | .atomic u => okUnit u
  | .engine e => okQueue e
  | .bank g p => okStack g && okPch p
def okRegWrite : RegWrite → Bool
  | .mmio _ => true
  | .bar p n _ => okPart p && okLink n

/-- Operands inside the limits of their rows. -/
def wellFormed : Instr → Bool
  | .wld n _ _ => decide (n.val ≠ 0)
  | .illegalWord w => (decodeOne w).isNone && !isPfx w
  | .atPfx _ t => okAtTail t
  | .extPfx _ t => okExtTail t
  | .trapEntry u | .watchdogExpiry u | .messageDepart u | .wfeTimeout u | .notBeforeLoad u
  | .acquireRequest u | .acquireCancel u | .killDone u => okUnit u
  | .stageSchedule u | .coreEvict u | .powerSwitchOpen u | .powerSwitchClose u => decide (u < 2048)
  | .stackCoreFiringStart u => decide (2048 ≤ u) && decide (u < 2304)
  | .homeLoad u _ => okUnit u
  | .homeStoreArrival u j | .journalAck u j | .journalRefusal u j | .timedStoreArrival u j | .timedStoreAccept u j =>
    okUnit u && decide (j < 64)
  | .replyTimeout u i => okUnit u && decide (i < 16)
  | .dispatchRecord src => okSubmitter src
  | .residencyCheck p _ | .phaseCommit p _ | .launchComplete p _ => okPart p
  | .batchGrant p c => okPart p && okCluster c
  | .atomicEngineGrant c | .voltageRampEnd c | .frequencySwitch c => okCluster c
  | .stackAtomicGrant g | .swregRegister g | .swregUnregister g | .reduce g => okStack g
  | .copy c ch | .copyt c ch | .csrwalk c ch => okCluster c && okChan ch
  | .apertureStart c p ch _ => okCluster c && okPart p && okChan ch
  | .chunkComplete c ch _ => okCluster c && okChan ch
  | .engineOpComplete e | .engineOpFaulted e => okQueue e
  | .roosterDue l _ | .sweepVisit l | .alarmPost l => okLaw l
  | .bmodeGrant g p | .bmvBurst g p | .bexprPiece g p | .burstTicketWindowEnd g p => okStack g && okPch p
  | .beadFault g p _ => okStack g && okPch p
  | .bankRetry r => okReq r
  | .retryResend g _ => okStack g
  | .clockExchange d _ _ | .holdoverExpiry d | .walkFill d _ => okDie d
  | .serviceSwitch r | .serviceShoot r | .servicePlace r | .serviceRoot r | .serviceFweight r | .servicePeer r | .serviceGrandmaster r
  | .serviceDiscipline r | .serviceHandover r | .serviceAttest r | .serviceRegion r => okRequester r
  | .hostQtailWrite p n _ => okPart p && okLink n
  | .faultRecordPost p | .fstatWrite p _ => okPart p
  | .ringHeadWrite p _ _ => okPart p
  | .orderLogRecord p _ _ u _ => okPart p && okUnit u
  | .linkLost n | .linkDown n | .linkRetrain n => okAnyLink n
  | .registerWrite w _ => okRegWrite w
  | _ => true

end Sys2Proof
end

