-- ==== Sys2Proof/Certificates/Slice0/Obligations.lean ====
section
/-! DEFINITION. The statements for the provers, with the small vocabulary (`Claim`) they are written in. Each docstring names the rules of
spec/ it formalises; an obligation that rests on the model's own choice names its log entry. -/

namespace Sys2Proof.Claim
open Sys2Proof.Machine

-- integer arithmetic, said over Int and Nat

/-- An integer as a 64-bit value. -/
def int (v : Int) : Word := BitVec.ofInt 64 v
/-- Bits 31:0 of an integer, sign-extended. -/
def word32 (v : Int) : Word := int (v.bmod (2 ^ 32))
/-- Bits 31:0 of a register as an unsigned number. -/
def low (v : Word) : Nat := v.toNat % 2 ^ 32
/-- Bits 31:0 of a register as a signed number. -/
def slow (v : Word) : Int := (low v : Int).bmod (2 ^ 32)
/-- 1 or 0. -/
def flag (b : Bool) : Word := if b then 1#64 else 0#64

/-- Destination and value of the register instructions of R43. -/
def baseResult (s : State) : Instr → Option (Reg × Word)
  | .lui rd imm => some (rd, int (imm.toInt * 4096))
  | .auipc rd imm => some (rd, int (s.cur.pc.toInt + imm.toInt * 4096))
  | .addi rd a imm => some (rd, int ((s.x a).toInt + imm.toInt))
  | .slti rd a imm => some (rd, flag (decide ((s.x a).toInt < imm.toInt)))
  | .sltiu rd a imm => some (rd, flag (decide (((s.x a).toNat : Int) < imm.toInt % 2 ^ 64)))
  | .xori rd a imm => some (rd, s.x a ^^^ int imm.toInt)
  | .ori rd a imm => some (rd, s.x a ||| int imm.toInt)
  | .andi rd a imm => some (rd, s.x a &&& int imm.toInt)
  | .slli rd a sh => some (rd, int ((s.x a).toNat * 2 ^ sh.toNat))
  | .srli rd a sh => some (rd, int ((s.x a).toNat / 2 ^ sh.toNat))
  | .srai rd a sh => some (rd, int ((s.x a).toInt / 2 ^ sh.toNat))
  | .addiw rd a imm => some (rd, word32 ((s.x a).toInt + imm.toInt))
  | .slliw rd a sh => some (rd, word32 ((s.x a).toNat * 2 ^ sh.toNat))
  | .srliw rd a sh => some (rd, word32 (low (s.x a) / 2 ^ sh.toNat))
  | .sraiw rd a sh => some (rd, word32 (slow (s.x a) / 2 ^ sh.toNat))
  | .add rd a b => some (rd, int ((s.x a).toInt + (s.x b).toInt))
  | .sub rd a b => some (rd, int ((s.x a).toInt - (s.x b).toInt))
  | .sll rd a b => some (rd, int ((s.x a).toNat * 2 ^ ((s.x b).toNat % 64)))
  | .slt rd a b => some (rd, flag (decide ((s.x a).toInt < (s.x b).toInt)))
  | .sltu rd a b => some (rd, flag (decide ((s.x a).toNat < (s.x b).toNat)))
  | .xor rd a b => some (rd, s.x a ^^^ s.x b)
  | .srl rd a b => some (rd, int ((s.x a).toNat / 2 ^ ((s.x b).toNat % 64)))
  | .sra rd a b => some (rd, int ((s.x a).toInt / 2 ^ ((s.x b).toNat % 64)))
  | .or rd a b => some (rd, s.x a ||| s.x b)
  | .and rd a b => some (rd, s.x a &&& s.x b)
  | .addw rd a b => some (rd, word32 ((s.x a).toInt + (s.x b).toInt))
  | .subw rd a b => some (rd, word32 ((s.x a).toInt - (s.x b).toInt))
  | .sllw rd a b => some (rd, word32 ((s.x a).toNat * 2 ^ ((s.x b).toNat % 32)))
  | .srlw rd a b => some (rd, word32 (low (s.x a) / 2 ^ ((s.x b).toNat % 32)))
  | .sraw rd a b => some (rd, word32 (slow (s.x a) / 2 ^ ((s.x b).toNat % 32)))
  | _ => none

/-- Destination and value of the M instructions of R43. -/
def mulDivResult (s : State) : Instr → Option (Reg × Word)
  | .mul rd a b => some (rd, int ((s.x a).toInt * (s.x b).toInt))
  | .mulh rd a b => some (rd, int ((s.x a).toInt * (s.x b).toInt / 2 ^ 64))
  | .mulhsu rd a b => some (rd, int ((s.x a).toInt * (s.x b).toNat / 2 ^ 64))
  | .mulhu rd a b => some (rd, int ((s.x a).toNat * (s.x b).toNat / 2 ^ 64))
  | .div rd a b => some (rd, int (if s.x b = 0 then -1 else (s.x a).toInt.tdiv (s.x b).toInt))
  | .divu rd a b => some (rd, int (if s.x b = 0 then -1 else (s.x a).toNat / (s.x b).toNat))
  | .rem rd a b => some (rd, int (if s.x b = 0 then (s.x a).toInt else (s.x a).toInt.tmod (s.x b).toInt))
  | .remu rd a b => some (rd, int (if s.x b = 0 then (s.x a).toNat else (s.x a).toNat % (s.x b).toNat))
  | .mulw rd a b => some (rd, word32 ((s.x a).toInt * (s.x b).toInt))
  | .divw rd a b => some (rd, word32 (if low (s.x b) = 0 then -1 else (slow (s.x a)).tdiv (slow (s.x b))))
  | .divuw rd a b => some (rd, word32 (if low (s.x b) = 0 then -1 else low (s.x a) / low (s.x b)))
  | .remw rd a b => some (rd, word32 (if low (s.x b) = 0 then slow (s.x a) else (slow (s.x a)).tmod (slow (s.x b))))
  | .remuw rd a b => some (rd, word32 (if low (s.x b) = 0 then low (s.x a) else low (s.x a) % low (s.x b)))
  | _ => none

/-- Destination and value of the Zba instructions of R43. -/
def shiftAddResult (s : State) : Instr → Option (Reg × Word)
  | .sh1add rd a b => some (rd, int ((s.x a).toNat * 2 + (s.x b).toNat))
  | .sh2add rd a b => some (rd, int ((s.x a).toNat * 4 + (s.x b).toNat))
  | .sh3add rd a b => some (rd, int ((s.x a).toNat * 8 + (s.x b).toNat))
  | .addUw rd a b => some (rd, int (low (s.x a) + (s.x b).toNat))
  | .sh1addUw rd a b => some (rd, int (low (s.x a) * 2 + (s.x b).toNat))
  | .sh2addUw rd a b => some (rd, int (low (s.x a) * 4 + (s.x b).toNat))
  | .sh3addUw rd a b => some (rd, int (low (s.x a) * 8 + (s.x b).toNat))
  | .slliUw rd a sh => some (rd, int (low (s.x a) * 2 ^ sh.toNat))
  | _ => none

/-- Condition and offset of a conditional branch. -/
def branchOf (s : State) : Instr → Option (Bool × BitVec 12)
  | .beq a b imm => some (decide (s.x a = s.x b), imm)
  | .bne a b imm => some (decide (s.x a ≠ s.x b), imm)
  | .blt a b imm => some (decide ((s.x a).toInt < (s.x b).toInt), imm)
  | .bge a b imm => some (decide ((s.x b).toInt ≤ (s.x a).toInt), imm)
  | .bltu a b imm => some (decide ((s.x a).toNat < (s.x b).toNat), imm)
  | .bgeu a b imm => some (decide ((s.x b).toNat ≤ (s.x a).toNat), imm)
  | _ => none

/-- Bit 1 of a target. -/
def bit1 (t : Word) : Prop := t.toNat / 2 % 2 = 1

/-- Only the pc, the registers, the loop counts, the wait and the part of a tile access done so far (R246) of the unit in focus differ. -/
def onlyRetired (s t : State) : Prop :=
  t = { s with cur := { s.cur with x := t.cur.x, pc := t.cur.pc, lp0 := { s.cur.lp0 with count := t.cur.lp0.count },
                                   lp1 := { s.cur.lp1 with count := t.cur.lp1.count }, wait := .none, tile := {} } }
/-- Register rd holds v and every other register is as before; x0 stays 0. -/
def setsOnly (s t : State) (rd : Reg) (v : Word) : Prop := ∀ r, t.x r = if r = rd ∧ rd ≠ 0 then v else s.x r

/-- The trap entry of R106 from U mode: what the unit in focus holds afterwards. -/
def trapUnit (u : Machine.Unit) (code : Nat) (tval tinst : Word) : Machine.Unit :=
  { u with t := { u.t with tstatus := u.t.tstatus &&& ~~~0x303#64, tpc := u.pc, tcause := BitVec.ofNat 64 code, tval := tval, tinst := tinst,
                           tjidx := 0 },
           priv := .s, pc := u.t.tvec, wait := .none, tile := {} }
/-- Nothing but the unit in focus and the device's lifetime counts differs. -/
def onlyCur (s t : State) : Prop := t = { s with cur := t.cur, dev := { s.dev with life := t.dev.life } }
/-- The unit in focus enters its supervisor's handler. -/
def entersTrap (s t : State) (code : Nat) (tval tinst : Word) : Prop := onlyCur s t ∧ t.cur = trapUnit s.cur code tval tinst
/-- A core in U mode with a handler. -/
def handled (s : State) : Prop := isCore s.focus = true ∧ s.cur.priv = .u ∧ s.cur.t.tvec ≠ 0

end Sys2Proof.Claim

open Sys2Proof Sys2Proof.Machine Sys2Proof.Claim

-- the base instructions

/-- R44: the register instructions of R43 write the result of the ratified specification, said over Int and Nat, and retire. -/
def Sys2Proof.Claim.BaseIntegerResults : Prop :=
  ∀ i s rd v, baseResult s i = some (rd, v) → exec i s = .next (s.done 1 rd v)

/-- R44: the M instructions; division by zero and overflow give the specified results without a trap. -/
def Sys2Proof.Claim.MulDivResults : Prop :=
  ∀ i s rd v, mulDivResult s i = some (rd, v) → exec i s = .next (s.done 1 rd v)

/-- R43, R44: the Zba instructions. -/
def Sys2Proof.Claim.ShiftAddResults : Prop :=
  ∀ i s rd v, shiftAddResult s i = some (rd, v) → exec i s = .next (s.done 1 rd v)

/-- R47: a branch that is not taken retires; a taken one goes to its target, or traps MISALIGNED with it when its bit 1 is set. -/
def Sys2Proof.Claim.BranchesGoOrTrap : Prop :=
  ∀ i s b imm, branchOf s i = some (b, imm) →
    (b = false → exec i s = .next (s.retireN 1)) ∧
    (b = true → ¬ bit1 (int (s.cur.pc.toInt + 2 * imm.toInt)) → exec i s = .next (s.jump 1 (int (s.cur.pc.toInt + 2 * imm.toInt)))) ∧
    (b = true → bit1 (int (s.cur.pc.toInt + 2 * imm.toInt)) → exec i s = raise s 1 (int (s.cur.pc.toInt + 2 * imm.toInt)))

/-- R47: JAL and JALR write the address of the next word and go to their target, JALR's with bit 0 cleared; bit 1 set traps. -/
def Sys2Proof.Claim.JumpsLinkAndGo : Prop :=
  ∀ s (rd a : Reg) (imm : BitVec 20) (off : BitVec 12),
    let t := int (s.cur.pc.toInt + 2 * imm.toInt)
    let t' := BitVec.ofNat 64 (((s.x a + int off.toInt).toNat / 2) * 2)
    (¬ bit1 t → exec (.jal rd imm) s = .next ((s.setReg rd (s.cur.pc + 4)).jump 1 t)) ∧
    (bit1 t → exec (.jal rd imm) s = raise s 1 t) ∧
    (¬ bit1 t' → exec (.jalr rd a off) s = .next ((s.setReg rd (s.cur.pc + 4)).jump 1 t')) ∧
    (bit1 t' → exec (.jalr rd a off) s = raise s 1 t')

/-- R39, R50, R102: what retiring changes: of the whole state only the destination register (x0 discards), the pc, the loop counts, the wait and
the elements of an access under way (`tile`) of the unit in focus; memory and every other register, special register and unit are as before. -/
def Obligations.RetiringChangesOnlyThis : Prop :=
  ∀ s n (rd : Reg) v t, n ≠ 0 →
    onlyRetired s (s.done n rd v) ∧ setsOnly s (s.done n rd v) rd v ∧ (s.done n rd v).mem = s.mem ∧
    onlyRetired s (s.retireN n) ∧ (∀ r, (s.retireN n).x r = s.x r) ∧
    onlyRetired s ((s.setReg rd v).jump n t) ∧ setsOnly s ((s.setReg rd v).jump n t) rd v ∧
    (s.cur.priv ≠ .u ∨ (s.cur.lp0.count = 0 ∧ s.cur.lp1.count = 0) →
      (s.retireN n).cur.pc = s.cur.pc + BitVec.ofNat 64 (4 * n) ∧ (s.jump n t).cur.pc = t ∧
      (s.retireN n).cur.lp0 = s.cur.lp0 ∧ (s.retireN n).cur.lp1 = s.cur.lp1)

/-- R102, R62: in U mode the instruction one of whose words is the end of an active loop goes back while the count is above 1, lp1 before
lp0 (that any word counts, as R62 says, and not the last alone, is log 95); a transfer out of an active loop clears it, one inside leaves
it; in S mode loops are off. -/
def Sys2Proof.Claim.HardwareLoopsRepeatAndEnd : Prop :=
  ∀ (s : State) (n : Nat) (t : Word), n ≠ 0 → s.cur.pc.toNat + 4 * n < 2 ^ 64 →
    let u := s.cur
    let last := u.pc + BitVec.ofNat 64 (4 * (n - 1))
    let ends := fun (l : Loop) => ∃ i, i < n ∧ l.last = u.pc + BitVec.ofNat 64 (4 * i)
    let inside := fun (l : Loop) => l.start.toNat ≤ t.toNat ∧ t.toNat ≤ l.last.toNat
    let v := (s.retireN n).cur
    let w := (s.jump n t).cur
    (u.priv = .u →
      (u.lp1.count.toNat > 1 → ends u.lp1 →
        v.pc = BitVec.ofNat 64 (u.lp1.start.toNat / 4 * 4) ∧ v.lp1.count = u.lp1.count - 1 ∧ v.lp0.count = u.lp0.count) ∧
      (u.lp1.count = 1 → ends u.lp1 → v.lp1.count = 0) ∧
      ((u.lp1.count.toNat ≤ 1 ∧ (ends u.lp1 ∨ u.lp1.count = 0)) → u.lp0.count.toNat > 1 → ends u.lp0 →
        v.pc = BitVec.ofNat 64 (u.lp0.start.toNat / 4 * 4) ∧ v.lp0.count = u.lp0.count - 1) ∧
      (u.lp1.count.toNat ≤ 1 → ends u.lp1 → u.lp0.count = 1 → ends u.lp0 → v.lp0.count = 0 ∧ v.pc = last + 4) ∧
      (u.lp1.count ≠ 0 → inside u.lp1 → w.lp1.count = u.lp1.count) ∧ (u.lp1.count ≠ 0 → ¬ inside u.lp1 → w.lp1.count = 0) ∧
      (u.lp0.count ≠ 0 → inside u.lp0 → w.lp0.count = u.lp0.count) ∧ (u.lp0.count ≠ 0 → ¬ inside u.lp0 → w.lp0.count = 0) ∧
      w.pc = t) ∧
    (u.priv ≠ .u → v.lp0 = u.lp0 ∧ v.lp1 = u.lp1 ∧ v.pc = last + 4 ∧ w.lp0 = u.lp0 ∧ w.lp1 = u.lp1 ∧ w.pc = t)

-- traps

/-- R105, R106: a precise trap of a core in U mode with a handler saves the pc and the cause, clears PRV and ACT, and goes to tvec in S
mode; nothing else of the unit, of memory or of the package changes but the lifetime counts. -/
def Sys2Proof.Claim.TrapEntryFromUser : Prop :=
  ∀ s c tv ti, handled s → c ≠ 0x16 → ∃ t, raise s c tv ti = .next t ∧ entersTrap s t c tv ti

/-- R106: with no handler, and for a synchronous trap in S mode (DOUBLE), the context freezes, its record joins the terminal ring's
queue, and no handler runs. -/
def Sys2Proof.Claim.UnhandledTrapFreezes : Prop :=
  ∀ s c tv ti, isCore s.focus = true → (s.cur.priv = .u ∧ s.cur.t.tvec = 0 ∨ s.cur.priv = .s) →
    ∃ t r, raise s c tv ti = .next t ∧ t.cur.run = .frozen c ∧ t.cur.pc = s.cur.pc ∧ t.cur.x = s.cur.x ∧ t.cur.priv = s.cur.priv ∧ t.mem = s.mem ∧
      (t.getPart s.cur.part).terminal.waiting = (s.getPart s.cur.part).terminal.waiting ++ [r] ∧
      r.cause = c ∧ r.val = tv ∧ r.lid = s.cur.firing.lid ∧ r.double = decide (s.cur.priv = .s)

/-- R46, R40, R41: ECALL and EBREAK of a core in U mode take their traps, and a word that is no instruction traps ILLEGAL-INSTRUCTION
with tval 0 and the word in tinst. -/
def Sys2Proof.Claim.EcallEbreakIllegalTrap : Prop :=
  ∀ s w, handled s →
    (∃ t, exec .ecall s = .next t ∧ entersTrap s t 0x14 0 0) ∧
    (∃ t, exec .ebreak s = .next t ∧ entersTrap s t 0x15 0 0) ∧
    (∃ t, exec (.illegalWord w) s = .next t ∧ entersTrap s t 0 0 (w.setWidth 64))

-- loads, stores and prefixed forms

namespace Sys2Proof.Claim

/-- A load or store as one instruction: its words, what it moves, its address, and the time of an AT before it (R60, R61, R128). -/
structure MemForm (κ : Type) where
  n : Nat
  kind : κ
  reg : Reg
  addr : Word
  time : Option Word
/-- The sign-extended EXT immediate E ‖ imm12 (R60). -/
def ext (e : BitVec 20) (imm : BitVec 12) : Word := int (((e.toNat * 4096 + imm.toNat : Nat) : Int).bmod (2 ^ 32))
def followLoad (s : State) (n : Nat) (imm : BitVec 12 → Word) (t : Option Word) : Follower → Option (MemForm LoadKind)
  | .load k rd a i => some ⟨n, k, rd, s.x a + imm i, t⟩
  | _ => none
def followStore (s : State) (n : Nat) (imm : BitVec 12 → Word) (t : Option Word) : Follower → Option (MemForm StoreKind)
  | .store k b a i => some ⟨n, k, b, s.x a + imm i, t⟩
  | _ => none
def plain (imm : BitVec 12) : Word := int imm.toInt
/-- The load an instruction is, plain or behind prefixes. -/
def loadForm (s : State) : Instr → Option (MemForm LoadKind)
  | .lb rd a i => some ⟨1, .lb, rd, s.x a + plain i, none⟩
  | .lh rd a i => some ⟨1, .lh, rd, s.x a + plain i, none⟩
  | .lw rd a i => some ⟨1, .lw, rd, s.x a + plain i, none⟩
  | .ld rd a i => some ⟨1, .ld, rd, s.x a + plain i, none⟩
  | .lbu rd a i => some ⟨1, .lbu, rd, s.x a + plain i, none⟩
  | .lhu rd a i => some ⟨1, .lhu, rd, s.x a + plain i, none⟩
  | .lwu rd a i => some ⟨1, .lwu, rd, s.x a + plain i, none⟩
  | .atPfx r (.one f) => followLoad s 2 plain (some (s.x r)) f
  | .atPfx r (.viaExt e f) => followLoad s 3 (ext e) (some (s.x r)) f
  | .extPfx e (.one f) => followLoad s 2 (ext e) none f
  | .extPfx e (.viaAt r f) => followLoad s 3 (ext e) (some (s.x r)) f
  | _ => none
/-- The store an instruction is, plain or behind prefixes. -/
def storeForm (s : State) : Instr → Option (MemForm StoreKind)
  | .sb b a i => some ⟨1, .sb, b, s.x a + plain i, none⟩
  | .sh b a i => some ⟨1, .sh, b, s.x a + plain i, none⟩
  | .sw b a i => some ⟨1, .sw, b, s.x a + plain i, none⟩
  | .sd b a i => some ⟨1, .sd, b, s.x a + plain i, none⟩
  | .atPfx r (.one f) => followStore s 2 plain (some (s.x r)) f
  | .atPfx r (.viaExt e f) => followStore s 3 (ext e) (some (s.x r)) f
  | .extPfx e (.one f) => followStore s 2 (ext e) none f
  | .extPfx e (.viaAt r f) => followStore s 3 (ext e) (some (s.x r)) f
  | _ => none
/-- Bytes moved. -/
def bytesL : LoadKind → Nat
  | .lb | .lbu => 1 | .lh | .lhu => 2 | .lw | .lwu => 4 | .ld => 8
def bytesS : StoreKind → Nat
  | .sb => 1 | .sh => 2 | .sw => 4 | .sd => 8
/-- The register value of a loaded little-endian number. -/
def loaded (k : LoadKind) (v : Nat) : Word :=
  match k with
  | .lb => int ((v : Int).bmod (2 ^ 8)) | .lh => int ((v : Int).bmod (2 ^ 16)) | .lw => int ((v : Int).bmod (2 ^ 32))
  | .ld | .lbu | .lhu | .lwu => BitVec.ofNat 64 v
/-- Nothing stands between the unit and n bytes of a scratchpad: no range lock (R289), no own write under way to them (R182), no timed
store whose T has come and that waits to be written there (R160). -/
def clear (s : State) (core a n : Nat) (write : Bool) : Prop :=
  s.spotLocked (.scratch core a) n write = false ∧ s.ownPending (.scratch core a) n = false ∧ s.dueOver (scratchKey core a) n = false
/-- No waiting acquire's object, at the engine of a core's cluster, has one of n bytes of its scratchpad in it. -/
def noWaiter (s : State) (core a n : Nat) : Prop :=
  ∀ w, w ∈ s.waitersOf (core / 16) → w.loc + 8 ≤ scratchKey core a ∨ scratchKey core a + n ≤ w.loc
/-- The time of an AT lets a load be served at once: its die is SETTLED or in HOLDOVER, and T is not ahead of the unit's atime. -/
def dueNow (s : State) (t : Option Word) : Prop := ∀ T, t = some T → s.clkState (dieOf s.focus) ≠ 0 ∧ (T - s.atime).toInt ≤ 0

end Sys2Proof.Claim

/-- R43, R22, R60, R156: a load of a core from its own scratchpad or from its cluster's window, plain, under EXT, or under AT with a
time that is not ahead, answers the bytes at its address, least significant first, and retires; a copy of their line in the core's global read cache goes. -/
def Sys2Proof.Claim.LocalLoadsReturnTheirBytes : Prop :=
  ∀ i s f core b, loadForm s i = some f → s.cur.wait = .none → s.resolve f.addr (bytesL f.kind) .r = .ok (.scratch core b) →
    clear s core b (bytesL f.kind) false → dueNow s f.time →
    exec i s = .next (State.done { s with cur := { s.cur with
        cache := s.cur.cache.filter (fun l => l.addr != lineOf (s.spotGeq (.scratch core b))) } } f.n f.reg
      (loaded f.kind (readNat s.mem (scratchKey core b) (bytesL f.kind))))

/-- R22, R47, R154: what a core's address names. An aligned address below 0x80000 is its own scratchpad; an address in the cluster
window is the scratchpad of the logical core there, where the region table grants the access; a misaligned address is refused as
MISALIGNED first, an address with no target as LOCAL-PROTECTION, a node whose entry is not valid as PLACE-MISS. -/
def Sys2Proof.Claim.AddressesNameTheirTargets : Prop :=
  ∀ (s : State) (a : Word) (n : Nat) (need : Need), isCore s.focus = true → n ∈ [1, 2, 4, 8] →
    (a.toNat % n ≠ 0 → s.resolve a n need = .error (1, a)) ∧
    (a.toNat % n = 0 →
      (a.toNat < 0x80000 → s.resolve a n need = .ok (.scratch s.focus a.toNat)) ∧
      (0x80000 ≤ a.toNat → a.toNat < 0x800000 → s.resolve a n need = .error (2, a)) ∧
      (0x2000000 ≤ a.toNat → a.toNat / 2 ^ 56 ≠ 1 → s.resolve a n need = .error (2, a)) ∧
      (∀ lc core, s.myLog = some lc → 0x800000 ≤ a.toNat → a.toNat < 0x1000000 →
        s.physCore s.cur.part lc ((a.toNat - 0x800000) / 0x80000) = some core →
        (s.localOk a.toNat n need = true → s.resolve a n need = .ok (.scratch core (a.toNat % 0x80000))) ∧
        (s.localOk a.toNat n need = false → s.resolve a n need = .error (2, a))) ∧
      (∀ node off, node < 256 → off < 2 ^ 48 → a.toNat = 2 ^ 56 + node * 2 ^ 48 + off →
        ((s.home s.cur.part node off).isSome → s.resolve a n need = .ok (.global node off)) ∧
        (s.home s.cur.part node off = none → s.resolve a n need = .error (5, BitVec.ofNat 64 node))))

/-- R154, R289, R110, R152: a load or store whose address is refused traps with the cause and tval of the first refusal, one that
meets a range lock traps RANGE-LOCKED; a global load that misses asks its home and retires with the value that comes back, or traps with
the cause that comes back. (The tval of a stripe set with a member that has no valid entry is notes/assumptions/68's choice.) -/
def Sys2Proof.Claim.LoadsTrapOrAskTheirHome : Prop :=
  ∀ i s f, loadForm s i = some f → f.time = none →
    (s.cur.wait = .none →
      (∀ c tv, s.resolve f.addr (bytesL f.kind) .r = .error (c, tv) → exec i s = raise s c tv) ∧
      (∀ spot, s.resolve f.addr (bytesL f.kind) .r = .ok spot → s.spotLocked spot (bytesL f.kind) false = true →
        exec i s = raise s 0xD f.addr) ∧
      (∀ node off, s.resolve f.addr (bytesL f.kind) .r = .ok (.global node off) →
        s.spotLocked (.global node off) (bytesL f.kind) false = false → s.underWay f.addr.toNat (bytesL f.kind) = false →
        youngest s.cur f.addr.toNat (bytesL f.kind) = none → cacheFind s.cur s.cur.part f.addr = none →
        exec i s = .next { s with cur := { s.cur with wait := .load f.addr (bytesL f.kind) none } })) ∧
    (∀ v, s.cur.wait = .value v → exec i s = .next (s.done f.n f.reg (loaded f.kind (v.toNat % 256 ^ bytesL f.kind)))) ∧
    (∀ c sub tv, s.cur.wait = .refusal c sub tv → exec i s = raise s c tv (sub := sub))

/-- R43, R22, R150: an untimed store of a core to a scratchpad bank that is not STATE writes exactly its bytes, the low bytes of its
register, least significant first; every other byte of memory, every register and the journal are as before. (No release of the core to
its cluster is under way, and no acquire waits for an object among the bytes.) -/
def Sys2Proof.Claim.LocalStoresWriteTheirBytes : Prop :=
  ∀ i s f core b, storeForm s i = some f → f.time = none →
    s.resolve f.addr (bytesS f.kind) .w = .ok (.scratch core b) → clear s core b (bytesS f.kind) true →
    s.releasing s.focus = false → noWaiter s core b (bytesS f.kind) → (∀ k, k < bytesS f.kind → s.isState core ((b + k) / 16 * 16) = false) →
    ∃ t, exec i s = .next t ∧
      (∀ k, k < bytesS f.kind → t.byte (scratchKey core b + k) = BitVec.ofNat 8 ((s.x f.reg).toNat / 256 ^ k)) ∧
      (∀ k, k < scratchKey core b ∨ scratchKey core b + bytesS f.kind ≤ k → t.byte k = s.byte k) ∧
      t.cur = { (s.retireN f.n).cur with cache := t.cur.cache } ∧ t.others = s.others ∧ t.clusters = s.clusters ∧ t.stks = s.stks

/-- R104, R150, R153: an untimed store to a global address takes a free journal entry, marked ISSUED with its address, data,
node and place in the unit's order, and retires; no byte of memory changes, and the cached line of its address goes. With no entry free
it has not retired. (Which FREE entry it takes, and that it waits while none stands above those of its home, is notes/assumptions/69's choice.) -/
def Sys2Proof.Claim.GlobalStoresTakeJournalEntries : Prop :=
  ∀ i s f node off, storeForm s i = some f → f.time = none → s.resolve f.addr (bytesS f.kind) .w = .ok (.global node off) →
    s.spotLocked (.global node off) (bytesS f.kind) true = false → s.underWay f.addr.toNat (bytesS f.kind) = false →
    let same := fun (e : JEntry) => s.entryKey s.focus e == s.addrKey s.focus s.cur.part f.addr
    (freeEntry s.cur same = none → exec i s = .next s) ∧
    (∀ j, freeEntry s.cur same = some j → (look jentry0 s.cur.journal j).st = .free ∧ ∃ t, exec i s = .next t ∧
      t.cur = { (s.retireN f.n).cur with
        journal := put jentry0 s.cur.journal j
          { st := .issued, kind := .store, addr := f.addr, data := BitVec.ofNat 64 ((s.x f.reg).toNat % 256 ^ bytesS f.kind), size := bytesS f.kind,
            node := node, ord := s.cur.jord, sent := s.cur.jord, fid := s.cur.firing.fid, part := s.cur.part, lid := s.cur.firing.lid },
        jord := s.cur.jord + 1, cache := s.cur.cache.filter (fun l => l.addr != lineOf f.addr) } ∧
      t = { s with cur := t.cur })

/-- R33, R154, R156, R158: a timed store is refused as UNTIMED-TARGET, CLOCK-UNSETTLED, HORIZON-EXCEEDED or LEAD-TOO-SHORT in that
order; otherwise it takes a journal entry with TIMED and its T, whatever its address class, and writes no byte yet. -/
def Sys2Proof.Claim.TimedStoresAreCheckedAndQueued : Prop :=
  ∀ i s f T spot, storeForm s i = some f → f.time = some T → s.resolve f.addr (bytesS f.kind) .w = .ok spot →
    let d := (T - s.atime).toInt
    let untimed := (∃ k a, spot = .sram k a) ∨ (∃ a, spot = .mmio a) ∨ (∃ node off, spot = .global node off ∧ (node = 0x90 ∨ node = 0x91))
    let peer := ∃ node off, spot = .global node off ∧ 0xA0 ≤ node ∧ node ≤ 0xBF
    let die := s.getDie (dieOf s.focus)
    let unsettled := s.clkState (dieOf s.focus) = 0 ∨ (peer ∧ die.peerLock = false)
    let same := fun (e : JEntry) => s.entryKey s.focus e == s.addrKey s.focus s.cur.part f.addr
    (untimed → exec i s = raise s 0x19 f.addr) ∧
    (¬ untimed → unsettled → exec i s = raise s 0x11 (s.clkstat (dieOf s.focus))) ∧
    (¬ untimed → ¬ unsettled → d > 2 ^ 32 → exec i s = raise s 0xA T) ∧
    (¬ untimed → ¬ unsettled → d ≤ 2 ^ 32 → d < s.lead spot → exec i s = raise s 9 (BitVec.ofNat 64 (s.lead spot))) ∧
    (¬ untimed → ¬ unsettled → d ≤ 2 ^ 32 → s.lead spot ≤ d → s.spotLocked spot (bytesS f.kind) true = false →
      s.underWay (s.addrGeq s.focus s.cur.part f.addr).toNat (bytesS f.kind) = false → ∀ j, freeEntry s.cur same = some j →
      ∃ t e, exec i s = .next t ∧ t.mem = s.mem ∧ t.cur.journal = put jentry0 s.cur.journal j e ∧ t.cur.x = s.cur.x ∧ t.cur.pc = (s.retireN f.n).cur.pc ∧
        e.st = .issued ∧ e.timed = true ∧ e.time = T ∧ e.addr = f.addr ∧ e.size = bytesS f.kind ∧ e.accepted = false ∧
        e.data = BitVec.ofNat 64 ((s.x f.reg).toNat % 256 ^ bytesS f.kind))

namespace Sys2Proof.Claim
/-- The value of an immediate follower over its extended immediate. -/
def immValue (k : ImmKind) (a imm : Word) : Word :=
  match k with
  | .addi => int (a.toInt + imm.toInt)
  | .slti => flag (decide (a.toInt < imm.toInt))
  | .sltiu => flag (decide (a.toNat < imm.toNat))
  | .xori => a ^^^ imm | .ori => a ||| imm | .andi => a &&& imm
  | .addiw => word32 (a.toInt + imm.toInt)
/-- Legal AT and EXT words, field by field (R59, R63). -/
def legalAt (w : Code) : Prop :=
  w.toNat % 128 = 0x0B ∧ w.toNat / 2 ^ 12 % 8 = 3 ∧ w.toNat / 2 ^ 7 % 4 = 0 ∧ w.toNat / 2 ^ 9 % 8 = 0 ∧ w.toNat / 2 ^ 20 = 0
def legalExt (w : Code) : Prop := w.toNat % 128 = 0x0B ∧ w.toNat / 2 ^ 12 % 8 = 3 ∧ w.toNat / 2 ^ 7 % 4 = 1
/-- The plain loads and stores: what AT accepts (R61). -/
def loadOrStore (w : Code) : Prop :=
  (w.toNat % 128 = 3 ∧ w.toNat / 2 ^ 12 % 8 ≠ 7) ∨ (w.toNat % 128 = 0x23 ∧ w.toNat / 2 ^ 12 % 8 ≤ 3)
/-- What EXT accepts (R61): those, ADDI, SLTI, SLTIU, XORI, ORI, ANDI, ADDIW, JALR, VLD and VST. -/
def extAccepts (w : Code) : Prop :=
  loadOrStore w ∨ (w.toNat % 128 = 0x13 ∧ w.toNat / 2 ^ 12 % 8 ≠ 1 ∧ w.toNat / 2 ^ 12 % 8 ≠ 5) ∨
    ((w.toNat % 128 = 0x1B ∨ w.toNat % 128 = 0x67) ∧ w.toNat / 2 ^ 12 % 8 = 0) ∨
    (w.toNat % 128 = 0x7B ∧ (w.toNat / 2 ^ 12 % 8 = 4 ∨ w.toNat / 2 ^ 12 % 8 = 5))
end Sys2Proof.Claim

/-- R60, R61: EXT gives ADDI, SLTI, SLTIU, XORI, ORI, ANDI and ADDIW the immediate E ‖ imm12, sign-extended from bit 31; the pair is one
instruction of two words. JALR under EXT goes to x[rs1] + the immediate with bit 0 cleared and links the address after the pair. -/
def Sys2Proof.Claim.ExtWidensImmediates : Prop :=
  ∀ s e k (rd a : Reg) imm,
    exec (.extPfx e (.one (.opImm k rd a imm))) s = .next (s.done 2 rd (immValue k (s.x a) (ext e imm))) ∧
    (let t := BitVec.ofNat 64 (((s.x a + ext e imm).toNat / 2) * 2)
     (¬ bit1 t → exec (.extPfx e (.one (.jalr rd a imm))) s = .next ((s.setReg rd (s.cur.pc + 8)).jump 2 t)) ∧
     (bit1 t → exec (.extPfx e (.one (.jalr rd a imm))) s = raise s 1 t))

/-- R63: in a sequence of prefixes the word after them that is neither a prefix nor a follower every prefix accepts traps ILLEGAL-INSTRUCTION with tval
1, a second prefix of the first's kind and a third prefix with tval 2, each at the first prefix with that word in tinst and nothing done. On a
stack core EXT with VLD or VST traps with tval 4 and the follower in tinst. -/
def Obligations.RefusedPrefixSequencesTrap : Prop :=
  ∀ (s : State) (w1 w2 w3 : Code),
    let pfx := fun (w : Code) => legalAt w ∨ legalExt w
    let traps := fun (n : Word) (w : Code) => exec (decodeWords w1 w2 w3) s = raise s 0 n (w.setWidth 64)
    (legalAt w1 → legalAt w2 → traps 2 w2) ∧
    (legalAt w1 → ¬ pfx w2 → ¬ loadOrStore w2 → traps 1 w2) ∧
    (legalExt w1 → legalExt w2 → traps 2 w2) ∧
    (legalExt w1 → ¬ pfx w2 → ¬ extAccepts w2 → traps 1 w2) ∧
    ((legalAt w1 ∧ legalExt w2) ∨ (legalExt w1 ∧ legalAt w2) → (pfx w3 → traps 2 w3) ∧ (¬ pfx w3 → ¬ loadOrStore w3 → traps 1 w3)) ∧
    (isSc s.focus = true → legalExt w1 → w2.toNat % 128 = 0x7B → (w2.toNat / 2 ^ 12 % 8 = 4 ∨ w2.toNat / 2 ^ 12 % 8 = 5) → traps 4 w2)

-- CSRs

namespace Sys2Proof.Claim
/-- What the six CSR instructions make of a CSR's old value and the operand (R43). -/
def csrValue (f : CsrOp) (old op : Word) : Word :=
  match f with
  | .rw | .rwi => op
  | .rs | .rsi => old ||| op
  | .rc | .rci => old &&& ~~~op
/-- The operand: x[rs1], or the 5-bit immediate. -/
def csrArg (s : State) (f : CsrOp) (src : Reg) : Word :=
  match f with
  | .rw | .rs | .rc => s.x src
  | .rwi | .rsi | .rci => BitVec.ofNat 64 src.val
/-- CSRRW and CSRRWI always write; the others write when rs1 is not x0 and the immediate is not 0. -/
def csrStores (f : CsrOp) (src : Reg) : Prop := f = .rw ∨ f = .rwi ∨ src ≠ 0
/-- tstatus as it reads above U mode: bit 2, PEND, is set while an asynchronous cause is held (R106, R108). -/
def tstatusNow (u : Machine.Unit) : Word := u.t.tstatus ||| (if u.asyncs = [] then 0#64 else 4#64)
/-- A supervisor CSR's number and value, above U mode (R95). -/
def supervisorCsr (u : Machine.Unit) : List (Nat × Word) :=
  let t := u.t
  [(0x5C0, tstatusNow u), (0x5C1, t.tvec), (0x5C2, t.tpc), (0x5C3, t.tcause), (0x5C4, t.tval), (0x5C5, t.tjidx), (0x5C6, t.tinst), (0x5C7, t.tscratch)]
/-- A user CSR's number and value, on a core. -/
def userCsr (s : State) : List (Nat × Word) :=
  [(0xCC0, s.atime), (0xCC1, s.cur.firing.wid), (0xCC2, s.cid), (0xCC3, BitVec.ofNat 64 s.cur.firing.lid), (0xCC4, s.cur.firing.stage),
   (0xCC5, BitVec.ofNat 64 s.cur.fduty), (0xCC6, s.mreply), (0x800, s.cur.lp0.start), (0x801, s.cur.lp0.last), (0x802, s.cur.lp0.count),
   (0x803, s.cur.lp1.start), (0x804, s.cur.lp1.last), (0x805, s.cur.lp1.count), (0x806, s.cur.rcto), (0x807, s.cur.rctl)]
/-- The instruction that a form names. -/
def csrOf (f : CsrOp) (rd src : Reg) (csr : BitVec 12) : Instr :=
  match f with
  | .rw => .csrrw rd src csr
  | .rs => .csrrs rd src csr
  | .rc => .csrrc rd src csr
  | .rwi => .csrrwi rd (BitVec.ofNat 5 src.val) csr
  | .rsi => .csrrsi rd (BitVec.ofNat 5 src.val) csr
  | .rci => .csrrci rd (BitVec.ofNat 5 src.val) csr
end Sys2Proof.Claim

/-- R28, R48, R95, R106, R108: a CSR instruction that only reads writes the CSR's value to rd and retires: each user CSR at every level,
each supervisor CSR above U mode (tstatus with PEND set while an asynchronous cause is held), bfmt b at 0x880 + b. -/
def Sys2Proof.Claim.CsrReadsReturnTheRegister : Prop :=
  ∀ s f (rd src : Reg) (csr : BitVec 12), isCore s.focus = true → ¬ csrStores f src →
    (∀ v, (csr.toNat, v) ∈ userCsr s → exec (csrOf f rd src csr) s = .next (s.done 1 rd v)) ∧
    (∀ v, (csr.toNat, v) ∈ supervisorCsr s.cur → s.cur.priv ≠ .u → exec (csrOf f rd src csr) s = .next (s.done 1 rd v)) ∧
    (∀ b, b < 128 → csr.toNat = 0x880 + b → exec (csrOf f rd src csr) s = .next (s.done 1 rd (look word0 s.cur.bfmt b)))

/-- R28, R48, R88, R97, R108: a number that is not a CSR, a supervisor CSR in U mode, a write to a read-only CSR, and a write of an
invalid format or a RSVD bit of bfmt, of a RSVD bit of rcto or rctl, of a RSVD bit, ACT 3 or PRV 2 or 3 of tstatus trap
ILLEGAL-INSTRUCTION with tval 5 and the word in tinst. -/
def Sys2Proof.Claim.RefusedCsrAccessesTrap : Prop :=
  ∀ s f (rd src : Reg) (csr : BitVec 12), isCore s.focus = true →
    let n := csr.toNat
    let w := ((encode (csrOf f rd src csr)).headD 0).setWidth 64
    (¬ (0xCC0 ≤ n ∧ n ≤ 0xCC6) ∧ ¬ (0x800 ≤ n ∧ n ≤ 0x807) ∧ ¬ (0x880 ≤ n ∧ n ≤ 0x8FF) ∧ ¬ (0x5C0 ≤ n ∧ n ≤ 0x5C7) →
      exec (csrOf f rd src csr) s = raise s 0 5 w) ∧
    (0x5C0 ≤ n → n ≤ 0x5C7 → s.cur.priv = .u → exec (csrOf f rd src csr) s = raise s 0 5 w) ∧
    (0xCC0 ≤ n → n ≤ 0xCC6 → csrStores f src → exec (csrOf f rd src csr) s = raise s 0 5 w) ∧
    let new := fun old => csrValue f old (csrArg s f src)
    let word := fun (c : Nat) => ((encode (csrOf f rd src (BitVec.ofNat 12 c))).headD 0).setWidth 64
    let u := s.cur
    let st := new (tstatusNow u)
    csrStores f src →
      (∀ b : Fin 128, let v := new (look word0 u.bfmt b.val)
        v.toNat % 16 > 8 ∨ 32 ≤ v.toNat → exec (.bfmtWrite f b rd src) s = raise s 0 5 (word (0x880 + b.val))) ∧
      (2 ^ 40 ≤ (new u.rcto).toNat → exec (.replyCsrWrite f 0 rd src) s = raise s 0 5 (word 0x806)) ∧
      (2 ≤ (new u.rctl).toNat → exec (.replyCsrWrite f 1 rd src) s = raise s 0 5 (word 0x807)) ∧
      (u.priv = .u → exec (.tstatusWrite f rd src) s = raise s 0 5 (word 0x5C0)) ∧
      (u.priv ≠ .u → st.toNat / 2 ^ 10 ≠ 0 ∨ st.toNat / 8 % 32 ≠ 0 ∨ st.toNat / 2 ^ 8 % 4 = 3 ∨ 2 ≤ st.toNat % 4 →
        exec (.tstatusWrite f rd src) s = raise s 0 5 (word 0x5C0))

/-- R88, R97, R101, R108: a CSR instruction that writes gives rd the old value and the register the new one: bfmt a valid format, rcto
40 bits, rctl one bit, a loop's start and end, and its count where R101's nesting allows it (else LOOP-SETUP 3, the register as it was),
tstatus its PRV and ACT bits (PEND is ignored), above U mode tvec an aligned address and every other trap CSR the value; memory and every
other register are as before. -/
def Sys2Proof.Claim.CsrWritesReplaceTheRegister : Prop :=
  ∀ s f (rd src : Reg), isCore s.focus = true → csrStores f src →
    let new := fun old => csrValue f old (csrArg s f src)
    let u := s.cur
    let st := tstatusNow u
    (∀ b : Fin 128, let v := new (look word0 u.bfmt b.val); (v.toNat % 16 ≤ 8 ∧ v.toNat < 32 →
      ∃ t, exec (.bfmtWrite f b rd src) s = .next t ∧
        t.cur = (State.done { s with cur := { u with bfmt := put word0 u.bfmt b.val v } } 1 rd (look word0 u.bfmt b.val)).cur ∧ t.mem = s.mem)) ∧
    ((new u.rcto).toNat < 2 ^ 40 → exec (.replyCsrWrite f 0 rd src) s = .next (State.done { s with cur := { u with rcto := new u.rcto } } 1 rd u.rcto)) ∧
    ((new u.rctl).toNat < 2 → exec (.replyCsrWrite f 1 rd src) s = .next (State.done { s with cur := { u with rctl := new u.rctl } } 1 rd u.rctl)) ∧
    exec (.loopCsrWrite f 0 rd src) s = .next (State.done { s with cur := { u with lp0 := { u.lp0 with start := new u.lp0.start } } } 1 rd u.lp0.start) ∧
    exec (.loopCsrWrite f 1 rd src) s = .next (State.done { s with cur := { u with lp0 := { u.lp0 with last := new u.lp0.last } } } 1 rd u.lp0.last) ∧
    (u.lp1.count ≠ 0 → new u.lp0.count ≠ 0 → exec (.loopCsrWrite f 2 rd src) s = raise s 0x17 3) ∧
    (u.lp1.count = 0 ∨ new u.lp0.count = 0 →
      exec (.loopCsrWrite f 2 rd src) s = .next (State.done { s with cur := { u with lp0 := { u.lp0 with count := new u.lp0.count } } } 1 rd u.lp0.count)) ∧
    exec (.loopCsrWrite f 3 rd src) s = .next (State.done { s with cur := { u with lp1 := { u.lp1 with start := new u.lp1.start } } } 1 rd u.lp1.start) ∧
    exec (.loopCsrWrite f 4 rd src) s = .next (State.done { s with cur := { u with lp1 := { u.lp1 with last := new u.lp1.last } } } 1 rd u.lp1.last) ∧
    (let fits := u.lp0.count ≠ 0 ∧ u.lp0.start.toNat ≤ u.lp1.start.toNat ∧ u.lp1.last.toNat ≤ u.lp0.last.toNat
     (¬ fits → new u.lp1.count ≠ 0 → exec (.loopCsrWrite f 5 rd src) s = raise s 0x17 3) ∧
     (fits ∨ new u.lp1.count = 0 →
      exec (.loopCsrWrite f 5 rd src) s = .next (State.done { s with cur := { u with lp1 := { u.lp1 with count := new u.lp1.count } } } 1 rd u.lp1.count))) ∧
    (u.priv ≠ .u → new st &&& 0xFFFFFFFFFFFFFCFA#64 = 0 → new st &&& 0x300#64 ≠ 0x300 →
      exec (.tstatusWrite f rd src) s = .next (State.done { s with cur := { u with t := { u.t with tstatus := new st &&& 0x301#64 } } } 1 rd st)) ∧
    (u.priv ≠ .u →
      let writes := fun (csr : BitVec 12) (old : Word) (t : TrapRegs) =>
        exec (csrOf f rd src csr) s = .next (State.done { s with cur := { u with t := t } } 1 rd old)
      writes 0x5C1#12 u.t.tvec { u.t with tvec := new u.t.tvec &&& ~~~3#64 } ∧ writes 0x5C2#12 u.t.tpc { u.t with tpc := new u.t.tpc } ∧
      writes 0x5C3#12 u.t.tcause { u.t with tcause := new u.t.tcause } ∧ writes 0x5C4#12 u.t.tval { u.t with tval := new u.t.tval } ∧
      writes 0x5C5#12 u.t.tjidx { u.t with tjidx := new u.t.tjidx } ∧ writes 0x5C6#12 u.t.tinst { u.t with tinst := new u.t.tinst } ∧
      writes 0x5C7#12 u.t.tscratch { u.t with tscratch := new u.t.tscratch })

-- firings, loops, traps' return (R100-R127, R143-R149)

/-- R100, R111: FIN in U mode with every bound window advanced by its whole rate ends the firing: the registers, vectors, accumulators,
loops and handles are discarded, the journal, bank formats and memory stay, and an owed call without a reply is answered with status 3. -/
def Sys2Proof.Claim.FinEndsTheFiring : Prop :=
  ∀ s : State, s.cur.priv = .u → (∀ n, n < 16 → ∀ h, look handle0 s.cur.handles n = some h → h.adv = h.rate) →
    ∃ t, exec .fin s = .next t ∧ t.cur.run = .idle ∧ t.cur.x = Vector.replicate 32 0 ∧ t.cur.handles = [] ∧ t.cur.firing = {} ∧
      t.cur.lp0 = {} ∧ t.cur.lp1 = {} ∧ t.cur.ten.v = [] ∧ t.cur.ten.acc = [] ∧ t.cur.wait = .none ∧
      t.cur.journal = s.cur.journal ∧ t.cur.bfmt = s.cur.bfmt ∧ t.cur.sendq = s.cur.sendq ∧ t.cur.eng = s.cur.eng ∧ t.mem = s.mem ∧
      (s.cur.firing.owed = none ∨ s.cur.firing.replied = true → t.replies = s.replies) ∧
      (∀ r d, s.cur.firing.owed = some r → s.cur.firing.replied = false → s.replyDst r = some d →
        t.replies = s.replies ++ [{ dst := d, src := s.focus, part := r.part, node := r.node, ounit := r.ounit, slot := r.slot, gen := r.gen, status := 3, pay := [0, 0, 0, 0, 0, 0] }])

namespace Sys2Proof.Claim
/-- Every bound handle of unit u, in order, advances over its remaining window: an input's slots are released, an output's published with
the tag of all ones (R112); none where a tag's post must wait. -/
def abandoned (s : State) (u : Nat) : Option State :=
  (List.range 16).foldl (fun acc q => acc.bind (fun t =>
    match look handle0 (t.getUnit u).handles q with
    | none => some t
    | some h => (if h.out then t.publish u q h.cursor (h.rate - h.adv) (BitVec.allOnes 64)
        else some (t.releaseSlots u q h.cursor (h.rate - h.adv))).map (fun t1 =>
          t1.setUnit u { t1.getUnit u with handles := put handle0 (t1.getUnit u).handles q none }))) (some s)
end Sys2Proof.Claim

/-- R112: FIN above U mode makes no rate check: it advances every bound handle over its remaining window, answers an owed call with status
1, tcause and tval, discards the held causes and ends the firing; the journal is untouched, and the core is in U mode for its next firing. -/
def Sys2Proof.Claim.FinAboveUserAbandonsTheFiring : Prop :=
  ∀ s : State, s.cur.priv ≠ .u →
    (abandoned s s.focus = none → exec .fin s = .next s) ∧
    (∀ t, abandoned s s.focus = some t →
      let x := t.getUnit s.focus
      let t1 := t.answerOwed s.focus 1 x.t.tcause x.t.tval
      let t2 := State.endFiring (t1.setUnit s.focus { t1.getUnit s.focus with asyncs := [] }) s.focus
      let y := t2.getUnit s.focus
      exec .fin s = .next t2 ∧ y.run = .idle ∧ y.priv = .u ∧ y.x = Vector.replicate 32 0 ∧ y.firing = {} ∧ y.handles = [] ∧ y.asyncs = [] ∧
        y.journal = x.journal ∧ y.bfmt = x.bfmt ∧
        (x.firing.owed = none ∨ x.firing.replied = true → t2.replies = t.replies) ∧
        (∀ r d, x.firing.owed = some r → x.firing.replied = false → t.replyDst r = some d →
          t2.replies = t.replies ++ [{ dst := d, src := s.focus, part := r.part, node := r.node, ounit := r.ounit, slot := r.slot, gen := r.gen,
                                       status := 1, pay := [x.t.tcause, x.t.tval, 0, 0, 0, 0] }]))

/-- R111, R121: FIN with a window short of its rate traps RATE-VIOLATION and names the lowest such handle and its shortfall; nothing of
the firing ends. -/
def Sys2Proof.Claim.FinChecksRates : Prop :=
  ∀ (s : State) n h, s.cur.priv = .u → n < 16 → look handle0 s.cur.handles n = some h → h.adv < h.rate →
    (∀ m, m < n → ∀ g, look handle0 s.cur.handles m = some g → g.adv = g.rate) →
    exec .fin s = raise s 0x10 (BitVec.ofNat 64 (0x300 + n + (h.rate - h.adv) * 2 ^ 16))

/-- R113, R114, R115: WIDF reads a field of the WID by the launch's widths, most significant first; GROW raises the group count when
the new count fits the WID space and answers the count before, else it answers all ones and changes nothing. -/
def Sys2Proof.Claim.WidfAndGrowUseTheLaunch : Prop :=
  ∀ (s : State) (rd a : Reg) (k : Fin 6) l, isSc s.focus = false → s.getLaunch s.cur.part s.cur.firing.lid = some l →
    let ws := l.record.widths
    let g := (s.x a).toNat
    (∀ w, ws[k.val]? = some w → exec (.widf rd k) s =
      .next (s.done 1 rd (BitVec.ofNat 64 (s.cur.firing.wid.toNat / 2 ^ (ws.drop (k.val + 1)).sum % 2 ^ w)))) ∧
    (ws[k.val]? = none → exec (.widf rd k) s = .next (s.done 1 rd 0)) ∧
    (l.groups + g ≤ 2 ^ ws.sum → l.groups + g < 2 ^ 64 → exec (.grow rd a) s = .next (State.done (s.setLaunch s.cur.part
      { l with groups := l.groups + g, waitFrom := if l.next < l.groups then l.waitFrom else s.now }) 1 rd (BitVec.ofNat 64 l.groups))) ∧
    (2 ^ ws.sum < l.groups + g → exec (.grow rd a) s = .next (s.done 1 rd (BitVec.allOnes 64)))

/-- R116, R117, R182, R321: LAUNCH checks its record's address, waits until the firing's stores, posted atomics and releases are performed, and until
the record's bytes can be read (a write of its own to them, or their home, holds them), reads the record as loads would (the first failure traps), hands it to the dispatcher and waits; the dispatcher's answer goes to rd. -/
def Sys2Proof.Claim.LaunchSubmitsItsRecord : Prop :=
  ∀ (s : State) (rd a : Reg), isSc s.focus = false →
    let fresh := s.cur.wait = .none ∨ s.cur.wait = .retry (s.x a)
    (fresh → (s.x a).toNat % 64 ≠ 0 → exec (.launch rd a) s = raise s 1 (s.x a)) ∧
    (fresh → (s.x a).toNat % 64 = 0 → 0x1000000 ≤ (s.x a).toNat → (s.x a).toNat < 0x2000000 →
      exec (.launch rd a) s = raise s 2 (s.x a)) ∧
    (let own := fun (f _ : Nat) => f == s.cur.firing.fid
     let len := fun (h : List Byte) => max 64 (natOfBytes (h.drop 6))
     let later := { s with cur := { s.cur with wait := .retry (s.x a) } }
     fresh → s.recordAddr (s.x a) = none →
     (s.allDrained s.focus own = false → exec (.launch rd a) s = .next s) ∧
     (s.allDrained s.focus own = true → s.recordHeld (s.x a) 8 = true → exec (.launch rd a) s = .next later) ∧
     (s.allDrained s.focus own = true → s.recordHeld (s.x a) 8 = false →
       (∀ e, State.readAs 1 s (s.x a) = .error e → exec (.launch rd a) s = raisePlace e) ∧
       (∀ h t, State.readAs 1 s (s.x a) = .ok (h, t) →
         (s.recordHeld (s.x a) (len h) = true → exec (.launch rd a) s = .next later) ∧
         (s.recordHeld (s.x a) (len h) = false → ∀ bs t', State.readAs ((len h + 7) / 8) t (s.x a) = .ok (bs, t') →
           exec (.launch rd a) s = .next { t' with cur := { t'.cur with wait := .record (s.x a) bs } })))) ∧
    (∀ v, s.cur.wait = .value v → exec (.launch rd a) s = .next (s.done 1 rd v))

/-- R103, R144, R145: WFE clears the latch and retires when the latch is set or its time has come, and otherwise waits; the coming of its
time answers it. A reply slot whose deadline has passed becomes READY with status 2 at that, once, and sets the latch. -/
def Sys2Proof.Claim.WfeWaitsForLatchOrTime : Prop :=
  ∀ (s : State) (a : Reg), isSc s.focus = false →
    let t := s.expire
    let gone := State.retire { t with cur := { t.cur with latch := false } }
    let ready := s.cur.latch = true ∨ s.slotExpired s.focus = true ∨ (s.x a ≠ 0 ∧ (s.x a).toNat ≤ s.atime.toNat)
    (s.cur.wait = .none → ready → exec (.wfe a) s = .next gone) ∧
    (s.cur.wait = .none → ¬ ready → exec (.wfe a) s = .next { s with cur := { s.cur with wait := .event (s.x a) } }) ∧
    (s.cur.wait = .value 0 → exec (.wfe a) s = .next gone) ∧
    (s.slotExpired s.focus = false → t = s) ∧
    (s.slotExpired s.focus = true → t.cur.latch = true ∧ t.slotExpired s.focus = false ∧
      ∀ k, k < 16 → look slot0 t.cur.slots k = s.slotNow s.focus k) ∧
    (∀ u T, (s.getUnit u).wait = .event T → T ≠ 0 → T.toNat ≤ (s.atimeOf (dieOf u)).toNat →
      exec (.wfeTimeout u) s = .next (s.setUnit u { s.getUnit u with wait := .value 0 }))

/-- R101, R126: LPSET and LPSETI with a distance and a legal nesting set the loop's start, end and count and go on; count 0 skips the
body; a distance of 0 traps LOOP-SETUP 1, a nesting that is not legal traps LOOP-SETUP 2; LPCLR clears counts only. -/
def Sys2Proof.Claim.LoopSetupAndClear : Prop :=
  ∀ (s : State) (a : Reg) (imm : BitVec 12) (i : Instr) (n : Fin 2) (count : Word),
    (i = .lpset n a imm ∧ count = s.x a ∨ ∃ k : Fin 32, i = .lpseti n k imm ∧ count = BitVec.ofNat 64 k.val) →
    let u := s.cur
    let last := u.pc + BitVec.ofNat 64 (4 * imm.toNat)
    let l : Loop := { start := u.pc + 4, last := last, count := count }
    let legal := if n = 0 then u.lp1.count = 0
      else u.lp0.count ≠ 0 ∧ u.lp0.start.toNat ≤ (u.pc + 4).toNat ∧ last.toNat ≤ u.lp0.last.toNat
    let set := { s with cur := if n = 0 then { u with lp0 := l } else { u with lp1 := l } }
    (imm = 0 → exec i s = raise s 0x17 1) ∧
    (imm ≠ 0 → ¬ legal → exec i s = raise s 0x17 2) ∧
    (imm ≠ 0 → legal → count ≠ 0 → exec i s = .next (set.retireN 1)) ∧
    (imm ≠ 0 → legal → count = 0 → u.priv ≠ .u ∨ n = 0 ∨ u.lp0.last ≠ last →
      ∃ t, exec i s = .next t ∧ t.cur.pc = last + 4 ∧ t.cur.x = u.x ∧ t.mem = s.mem ∧ (if n = 0 then t.cur.lp0 else t.cur.lp1) = l) ∧
    exec (.lpclr 0) s = .next (State.retireN { s with cur := { u with lp0 := { u.lp0 with count := 0 }, lp1 := { u.lp1 with count := 0 } } } 1) ∧
    exec (.lpclr 1) s = .next (State.retireN { s with cur := { u with lp1 := { u.lp1 with count := 0 } } } 1)

/-- R107, R108, R143: TRET in S mode with ACT 0 returns to tpc at the level PRV names and leaves the journal alone; in U mode it traps
ILLEGAL-INSTRUCTION with tval 3. -/
def Sys2Proof.Claim.TretReturnsToTheFiring : Prop :=
  ∀ s : State, isSc s.focus = false →
    (s.cur.priv = .u → exec .tret s = raise s 0 3 ((encode .tret).headD 0 |>.setWidth 64)) ∧
    (s.cur.priv ≠ .u → s.cur.t.tstatus.extractLsb' 8 2 = 0#2 → s.cur.firing.inWd = false →
      exec .tret s = .next { s with cur := { s.cur with
        priv := if s.cur.t.tstatus.getLsbD 0 then .s else .u, pc := BitVec.ofNat 64 (s.cur.t.tpc.toNat / 4 * 4), wait := .none, tile := {},
        t := { s.cur.t with tstatus := s.cur.t.tstatus &&& ~~~0x300#64 } } })

/-- R104, R107: with ACT drop, TRET frees every REFUSED entry of the node of the entry in tjidx; with ACT replay it sends each of them
again, but for those of MISSED-DEADLINE, which it frees; every other entry is as before. (That tjidx counts modulo 64, and that a FREE
entry's node is 0, is the model's: log 74; the order of the replay is log 69's.) -/
def Sys2Proof.Claim.TretReplaysOrDropsRefusedEntries : Prop :=
  ∀ (s : State) (j : Nat), isSc s.focus = false → s.cur.priv ≠ .u → j < 64 →
    let act := (s.cur.t.tstatus.extractLsb' 8 2).toNat
    let node := (look jentry0 s.cur.journal (s.cur.t.tjidx.toNat % 64)).node
    let e := look jentry0 s.cur.journal j
    act = 1 ∨ act = 2 → ∃ t, exec .tret s = .next t ∧ t.mem = s.mem ∧ t.cur.x = s.cur.x ∧
      let e' := look jentry0 t.cur.journal j
      (e.st = .refused → e.node = node → act = 2 → e' = {}) ∧
      (e.st = .refused → e.node = node → act = 1 → e.sub = 6 → e' = {}) ∧
      (e.st = .refused → e.node = node → act = 1 → e.sub ≠ 6 → e'.st = .issued ∧ e'.addr = e.addr ∧ e'.data = e.data ∧ e'.stage = .toHome) ∧
      (e.st ≠ .refused ∨ e.node ≠ node → e' = e)

/-- R105, R106: a core that runs in U mode and does not hold an answer takes its oldest pending asynchronous cause: the trap entry with
bit 63 of tcause set, tjidx the entry that it names, tpc the first instruction that has not retired. -/
def Sys2Proof.Claim.AsynchronousTrapEntry : Prop :=
  ∀ (s : State) u a rest, isCore u = true → (s.getUnit u).asyncs = a :: rest → (s.getUnit u).run = .running → (s.getUnit u).priv = .u →
    interruptible (s.getUnit u).wait = true → (s.getUnit u).t.tvec ≠ 0 → a.code ≠ 0x16 →
    ∃ t, exec (.trapEntry u) s = .next t ∧ t.focus = u ∧ t.mem = s.mem ∧
      let w := trapUnit (s.getUnit u) a.code a.tval 0
      let regs := w.t
      t.cur = { w with t := { regs with tcause := BitVec.ofNat 64 a.code ||| 0x8000000000000000#64, tjidx := BitVec.ofNat 64 a.jidx }, asyncs := rest }

/-- R146, R366: KILL in S mode waits for kill-done and then writes its counts; kill-done waits for the context's bank commands and its
engines and writes the number of engine operations aborted in bits 31:0 and of stores discarded in 63:32; the firing's journal entries,
queued messages and reply slots are free, and no other unit changes when no engine operation is aborted. A firing of a killed launch that
its partition's resume found unable to end ends once it can. -/
def Sys2Proof.Claim.KillAnswersAtKillDone : Prop :=
  ∀ (s : State) (rd a : Reg), isSc s.focus = false →
    (s.cur.priv = .u → exec (.kill rd a) s = raise s 0 3 ((encode (.kill rd a)).headD 0 |>.setWidth 64)) ∧
    (s.cur.priv ≠ .u → s.cur.wait = .none →
      exec (.kill rd a) s = .next { s with cur := { s.cur with wait := .killing (decide ((s.x a).toNat % 2 = 1)) } }) ∧
    (∀ v, s.cur.priv ≠ .u → s.cur.wait = .value v → exec (.kill rd a) s = .next (s.done 1 rd v)) ∧
    (∀ u all, (s.getUnit u).wait = .killing all → s.bankBusy (s.killCtx u all) = true → exec (.killDone u) s = .next s) ∧
    (∀ u all t, (s.getUnit u).wait = .killing all → s.bankBusy (s.killCtx u all) = false → s.killAll (s.killCtx u all) = some t →
      let c := s.killCtx u all
      let counts := killResult ((s.chanOps c).length + (s.stackOps c).length) (s.lostStores c)
      exec (.killDone u) s = .next (t.setUnit u { t.getUnit u with wait := .value counts })) ∧
    (∀ u all, (s.getUnit u).wait = .killing all → s.killAll (s.killCtx u all) = none → exec (.killDone u) s = .next s) ∧
    (∀ u, (s.getUnit u).wait = .none → (s.getUnit u).run = .frozen 0x21 →
      (s.endOther u = none → exec (.killDone u) s = .next s) ∧ ∀ t, s.endOther u = some t → exec (.killDone u) s = .next t) ∧
    (∀ u, (s.getUnit u).wait = .killing false →
      let c := s.killCtx u false
      let x := s.getUnit u
      s.chanOps c = [] → s.stackOps c = [] → s.bankBusy c = false →
      ∃ t, exec (.killDone u) s = .next t ∧ t.mem = s.mem ∧ (∀ v, v ≠ u → t.getUnit v = s.getUnit v) ∧
        let y := t.getUnit u
        y.wait = .value (BitVec.ofNat 64 (min (s.lostStores c) (2 ^ 32 - 1) * 2 ^ 32)) ∧ y.pc = x.pc ∧ y.x = x.x ∧ y.priv = x.priv ∧
        (∀ j e, (j, e) ∈ y.journal → (j, e) ∈ x.journal ∧ ¬ (e.st ≠ .free ∧ e.part = x.part ∧ e.fid = x.firing.fid)) ∧
        (∀ o ∈ y.sendq, ¬ (o.msg.part = x.part ∧ o.fid = x.firing.fid)) ∧ ∀ k, k < 16 → (look slot0 y.slots k).st = .free)

/-- R148, R149: PLACEW in M mode refuses a running partition with 1 and TABLE 3 with 4, and otherwise writes a node entry that R20
admits, a core map without a clash, or a stripe set, with status 0; below M mode it traps ILLEGAL-INSTRUCTION with tval 3. (The order of
the statuses, 1 then 4 then 2 then 3, and the TARGETs that a peer entry may hold are log 56's.) -/
def Sys2Proof.Claim.PlacewWritesTheTables : Prop :=
  ∀ (s : State) (rd a b : Reg), isSc s.focus = false →
    let sel := (s.x a).toNat
    let p := sel / 2 ^ 16 % 16
    let idx := sel % 256
    let x := s.getPart p
    let plainSel := fun (table : Nat) => sel = p * 2 ^ 16 + table * 2 ^ 12 + idx
    (s.cur.priv ≠ .m → exec (.placew rd a b) s = raise s 0 3 ((encode (.placew rd a b)).headD 0 |>.setWidth 64)) ∧
    (s.cur.priv = .m →
      (s.suspended p = false → exec (.placew rd a b) s = .next (s.done 1 rd 1)) ∧
      (s.suspended p = true → plainSel 3 → exec (.placew rd a b) s = .next (s.done 1 rd 4)) ∧
      (s.suspended p = true → plainSel 0 → nodeEntryOk idx (s.x b) = true →
        exec (.placew rd a b) s = .next (State.done (s.setPart p { x with nodes := put node0 x.nodes idx ((s.x b).setWidth 32) }) 1 rd 0)) ∧
      (s.suspended p = true → plainSel 0 → nodeEntryOk idx (s.x b) = false → exec (.placew rd a b) s = .next (s.done 1 rd 2)) ∧
      (s.suspended p = true → plainSel 1 → idx < 128 → mapClashes (s.x b) (s.presentMask p idx) = true →
        exec (.placew rd a b) s = .next (s.done 1 rd 3)) ∧
      (s.suspended p = true → plainSel 1 → idx < 128 → mapClashes (s.x b) (s.presentMask p idx) = false →
        exec (.placew rd a b) s = .next (State.done (s.setPart p { x with cores := put cores0 x.cores idx (s.x b) }) 1 rd 0)) ∧
      (s.suspended p = true → plainSel 2 → idx < 16 → stripeOk (s.x b) = true →
        exec (.placew rd a b) s = .next (State.done (s.setPart p { x with stripes := put word0 x.stripes idx (s.x b) }) 1 rd 0)))

-- queues (R121-R125)

/-- R121-R125: the six queue instructions on a bound handle. QWAIT.F retires when the window's slots are published and otherwise
waits; QWAIT.E retires; QCNT and QSLOT write the counts and the slot's address; QADV.C releases and QADV.P publishes the slots, with the
firing's wid as their tag, and move the cursor. -/
def Sys2Proof.Claim.QueueInstructionsUseTheWindow : Prop :=
  ∀ (s : State) (q : Fin 16) (rd a : Reg) h c, isSc s.focus = false → look handle0 s.cur.handles q.val = some h → s.queueOf s.focus q.val = some c →
    let k := (s.x a).toNat
    let left := h.rate - h.adv
    (h.out = false → k ≤ left → (∀ j, j < k → h.cursor + j ∈ c.st.pub) →
      exec (.qwaitF q a) s = .next (State.retireN { s with cur := { s.cur with cache := [] } } 1)) ∧
    (h.out = false → k ≤ left → ¬ (∀ j, j < k → h.cursor + j ∈ c.st.pub) → exec (.qwaitF q a) s = .next s) ∧
    (h.out = true → k ≤ left → exec (.qwaitE q a) s = .next (s.retireN 1)) ∧
    exec (.qcnt rd q) s = .next (s.done 1 rd (BitVec.ofNat 64 (left + (if h.out then freeOf c.q c.st else filledOf c.st) * 2 ^ 32))) ∧
    (k < left → exec (.qslot rd q a) s =
      .next (s.done 1 rd (BitVec.ofNat 64 (0x800000 + c.q.core * 0x80000 + (c.q.base + (h.cursor + k) % c.q.depth * (8 * c.q.slot8)))))) ∧
    (h.out = false → k = 0 → exec (.qadvC q a) s = .next (s.retireN 1)) ∧
    (h.out = false → k ≠ 0 → k ≤ left → ∃ t, exec (.qadvC q a) s = .next t ∧ t.mem = s.mem ∧ t.cur.x = s.cur.x ∧
      t.cur.handles = put handle0 s.cur.handles q.val (some { h with cursor := h.cursor + k, adv := h.adv + k })) ∧
    (h.out = true → k ≠ 0 → k ≤ left → s.homeDrained s.focus (0x10 + s.focus / 16) (fun f _ => f == s.cur.firing.fid) = true →
      ∀ t', s.publish s.focus q.val h.cursor k s.cur.firing.wid = some t' →
      exec (.qadvP q a) s = .next (State.retireN { t' with cur := { t'.cur with
        handles := put handle0 t'.cur.handles q.val (some { h with cursor := h.cursor + k, adv := h.adv + k }) } } 1))

/-- R121: a queue instruction on an unbound handle, with more than the window's remaining slots, or in the wrong direction traps
RATE-VIOLATION with the tval of its case and the handle's number. -/
def Sys2Proof.Claim.QueueMisuseTrapsRateViolation : Prop :=
  ∀ (s : State) (q : Fin 16) (rd a : Reg), isSc s.focus = false →
    let trap := fun (n : Nat) => raise s 0x10 (BitVec.ofNat 64 (n + q.val))
    (look handle0 s.cur.handles q.val = none →
      exec (.qwaitF q a) s = trap 0x100 ∧ exec (.qwaitE q a) s = trap 0x100 ∧ exec (.qadvC q a) s = trap 0x100 ∧ exec (.qadvP q a) s = trap 0x100 ∧
      exec (.qcnt rd q) s = trap 0x100 ∧ exec (.qslot rd q a) s = trap 0x100) ∧
    (∀ h c, look handle0 s.cur.handles q.val = some h → s.queueOf s.focus q.val = some c →
      (h.out = true → exec (.qwaitF q a) s = trap 0x400 ∧ exec (.qadvC q a) s = trap 0x400) ∧
      (h.out = false → exec (.qwaitE q a) s = trap 0x400 ∧ exec (.qadvP q a) s = trap 0x400) ∧
      (h.out = false → h.rate - h.adv < (s.x a).toNat → exec (.qwaitF q a) s = trap 0x200 ∧ exec (.qadvC q a) s = trap 0x200) ∧
      (h.out = true → h.rate - h.adv < (s.x a).toNat → exec (.qwaitE q a) s = trap 0x200 ∧ exec (.qadvP q a) s = trap 0x200) ∧
      (h.rate - h.adv ≤ (s.x a).toNat → exec (.qslot rd q a) s = trap 0x200))

-- messages, calls and replies (R129-R142)

namespace Sys2Proof.Claim
/-- The state with a message of the unit in focus at the end of its send queue (R15, R130): ORIGIN of the sender, a0-a5 as the payload. -/
def sent (s : State) (kind slot gen : Nat) (hpc target : Word) (d : Dest) (node : Nat) : State :=
  let m : Msg := { kind := kind, onode := s.originNode s.cur.part s.focus, ounit := s.cidOf s.cur.part s.focus, slot := slot, gen := gen,
                   lid := s.cur.firing.lid, part := s.cur.part, hpc := hpc, pay := [s.x 10, s.x 11, s.x 12, s.x 13, s.x 14, s.x 15], target := target }
  { s with cur := { s.cur with sendq := s.cur.sendq ++ [{ msg := m, dest := d, node := node, ord := s.cur.jord, fid := s.cur.firing.fid }] } }
/-- Slot k allocated: WAITING, GEN one higher, its deadline rcto (at least 4,096) ticks from now (R97, R103). -/
def allocated (s : State) (k : Nat) : State :=
  let slot : Slot := { st := .waiting, gen := (look slot0 s.cur.slots k).gen + 1,
                       deadline := s.atime.toNat + max 4096 (s.cur.rcto.toNat % 2 ^ 40), status := 0, pay := [] }
  { s with cur := { s.cur with slots := put slot0 s.cur.slots k slot } }
/-- a0-a5 with a reply's payload. -/
def withPayload (s : State) (p : List Word) : State :=
  (((((s.setReg 10 (p.getD 0 0)).setReg 11 (p.getD 1 0)).setReg 12 (p.getD 2 0)).setReg 13 (p.getD 3 0)).setReg 14 (p.getD 4 0)).setReg 15 (p.getD 5 0)
end Sys2Proof.Claim

/-- R130, R103: SEND, SENDNB and SEND.R put their message in the send queue and retire, SEND.R with a fresh reply slot's number in rd; with 16
messages queued SEND and SEND.R trap SEND-QUEUE-FULL and SENDNB answers 1; with no FREE slot SEND.R traps REPLY-SLOTS-EXHAUSTED. -/
def Sys2Proof.Claim.SendsQueueTheirMessage : Prop :=
  ∀ (s : State) (rd a b : Reg) d node, isSc s.focus = false → s.sendTarget (s.x a) = .ok (d, node) → (s.x b).toNat % 4 = 0 →
    (s.cur.sendq.length < 16 →
      exec (.send a b) s = .next (State.retireN (sent s 0 0 0 (s.x b) 0 d node) 1) ∧
      exec (.sendnb rd a b) s = .next (State.done (sent s 0 0 0 (s.x b) 0 d node) 1 rd 0) ∧
      ∀ k, freeSlot s.cur = some k → exec (.sendR rd a b) s =
        .next (State.done (sent (allocated s k) 1 k ((look slot0 s.cur.slots k).gen + 1).toNat (s.x b) 0 d node) 1 rd (BitVec.ofNat 64 k))) ∧
    (16 ≤ s.cur.sendq.length → exec (.send a b) s = raise s 6 0 ∧ exec (.sendnb rd a b) s = .next (s.done 1 rd 1)) ∧
    (freeSlot s.cur = none → exec (.sendR rd a b) s = raise s 7 0)

/-- R135, R16: RCALL allocates a reply slot and queues a message of kind 2 with the whole target address; R130: a handler address that is not a
multiple of 4 traps MISALIGNED first, then a target the place table does not name PLACE-MISS, then no FREE slot REPLY-SLOTS-EXHAUSTED, then a
full send queue SEND-QUEUE-FULL. -/
def Sys2Proof.Claim.RcallQueuesItsCall : Prop :=
  ∀ (s : State) (rd a b : Reg),
    (∀ d node k, s.callTarget (s.x a) = .ok (d, node) → (s.x b).toNat % 4 = 0 → s.cur.sendq.length < 16 → freeSlot s.cur = some k →
      exec (.rcall rd a b) s =
        .next (State.done (sent (allocated s k) 2 k ((look slot0 s.cur.slots k).gen + 1).toNat (s.x b) (s.x a) d node) 1 rd (BitVec.ofNat 64 k))) ∧
    ((s.x b).toNat % 4 ≠ 0 → exec (.rcall rd a b) s = raise s 1 (s.x b) ∧ exec (.send a b) s = raise s 1 (s.x b)) ∧
    (∀ c tv, (s.x b).toNat % 4 = 0 → s.sendTarget (s.x a) = .error (c, tv) → exec (.send a b) s = raise s c tv) ∧
    (∀ c tv, (s.x b).toNat % 4 = 0 → s.callTarget (s.x a) = .error (c, tv) → exec (.rcall rd a b) s = raise s c tv) ∧
    (∀ d node, (s.x b).toNat % 4 = 0 → s.callTarget (s.x a) = .ok (d, node) →
      (freeSlot s.cur = none → exec (.rcall rd a b) s = raise s 7 0) ∧
      (freeSlot s.cur ≠ none → 16 ≤ s.cur.sendq.length → exec (.rcall rd a b) s = raise s 6 0)) ∧
    (2 ^ 12 ≤ (s.x a).toNat → s.sendTarget (s.x a) = .error (5, s.x a))

/-- R135, R17, R25: the target of an RCALL, from its address alone: the unit itself for its own memory, the logical core of its cluster's
window, the logical core of a cluster node, the stack core that bits 16:12 name of a stack node or of the stripe set's stack; a core that is
absent, and a host node, a peer node, a node that is not valid and an offset past the cluster's cores, trap PLACE-MISS with the core's id or
the node, every other local address LOCAL-PROTECTION. -/
def Sys2Proof.Claim.RcallNamesItsTarget : Prop :=
  ∀ (s : State) (v : Word), s.focus < 2304 →
    let a := v.toNat
    let p := s.cur.part
    let to_ := fun (d : Dest) (n : Nat) => s.callTarget v = .ok (d, n)
    let core := fun (c k : Nat) => ((s.physCore p c k).isSome → to_ (.core (16 * c + k)) (0x10 + c)) ∧
      (s.physCore p c k = none → s.callTarget v = .error (5, BitVec.ofNat 64 (16 * c + k)))
    (isCore s.focus = true → a < 0x80000 → to_ (.core (s.cidOf p s.focus)) (0x10 + s.cidOf p s.focus / 16)) ∧
    (∀ g, isSc s.focus = true → s.logStack p (stackOf s.focus) = some g → a < 0x10000 → to_ (.stackCore g ((s.focus - 2048) % 32)) g) ∧
    (isCore s.focus = true → ∀ lc, s.myLog = some lc → 0x800000 ≤ a → a < 0x1000000 → core lc ((a - 0x800000) / 0x80000)) ∧
    (isCore s.focus = true → (0x80000 ≤ a ∧ a < 0x800000) ∨ (0x1000000 ≤ a ∧ a / 2 ^ 56 ≠ 1) → s.callTarget v = .error (2, v)) ∧
    (isSc s.focus = true → 0x10000 ≤ a → a / 2 ^ 56 ≠ 1 → s.callTarget v = .error (2, v)) ∧
    (∀ node off, node < 256 → off < 2 ^ 48 → v = globalAddr node off →
      let miss := s.callTarget v = .error (5, BitVec.ofNat 64 node)
      (nodeValid (s.node p node) = false → miss) ∧
      (nodeValid (s.node p node) = true →
        (0x10 ≤ node → node < 0x90 → off < 0x800000 → core (node - 0x10) (off / 0x80000)) ∧
        (0x10 ≤ node → node < 0x90 → 0x800000 ≤ off → miss) ∧
        (node < 8 → to_ (.stackCore node (off / 4096 % 32)) node) ∧
        (0x90 ≤ node → node < 0xF0 → miss) ∧
        (∀ m, 0xF0 ≤ node → (s.stripe p (nodeTarget (s.node p node) % 16))[off / 4096 % (s.stripe p (nodeTarget (s.node p node) % 16)).length]? = some m →
          (s.physStack p m).isSome → to_ (.stackCore m (off / 4096 % 32)) m)))

/-- R103, R136-R141: REPLY answers the owed call once, with a0-a5 and status 0, when the firing's writes to its own home are performed; RWAIT and
RPOLL consume a READY slot with its status and payload, answer 3 for a FREE slot or a number above 15, and on a WAITING slot RWAIT waits
and RPOLL answers 4; a WAITING slot past its deadline is READY with status 2; status 1 traps REMOTE-FAULT while rctl bit 0 is set. -/
def Sys2Proof.Claim.RepliesAndReplySlots : Prop :=
  ∀ (s : State) (rd a : Reg),
    let k := (s.x a).toNat
    -- with the slots whose deadlines have passed READY
    let t0 := s.expire
    let slot := t0.slotNow s.focus k
    let free := { t0 with cur := { t0.cur with slots := put slot0 t0.cur.slots k { gen := slot.gen } } }
    (s.cur.firing.owed = none ∨ s.cur.firing.replied = true → exec .reply s = .next (s.retireN 1)) ∧
    (∀ r d, s.cur.firing.owed = some r → s.cur.firing.replied = false → s.replyDst r = some d →
      s.homeDrained s.focus (unitHome s.focus) (fun f _ => f == s.cur.firing.fid) = true →
      ∃ t, exec .reply s = .next t ∧ t.cur.firing.replied = true ∧ t.cur.x = s.cur.x ∧ t.mem = s.mem ∧ t.replies = s.replies ++
        [{ dst := d, src := s.focus, part := r.part, node := r.node, ounit := r.ounit, slot := r.slot, gen := r.gen, status := 0,
           pay := [s.x 10, s.x 11, s.x 12, s.x 13, s.x 14, s.x 15] }]) ∧
    (15 < k ∨ slot.st = .free → exec (.rwait rd a) s = .next (t0.done 1 rd 3) ∧ exec (.rpoll rd a) s = .next (t0.done 1 rd 3)) ∧
    (k ≤ 15 → slot.st = .waiting → exec (.rwait rd a) s = .next t0 ∧ exec (.rpoll rd a) s = .next (t0.done 1 rd 4)) ∧
    (k ≤ 15 → slot.st = .ready → slot.status = 1 → s.cur.rctl.getLsbD 0 = true →
      exec (.rwait rd a) s = raise t0 8 (slot.pay.getD 0 0) ∧ exec (.rpoll rd a) s = raise t0 8 (slot.pay.getD 0 0)) ∧
    (k ≤ 15 → slot.st = .ready → slot.status = 0 ∨ (slot.status = 1 ∧ s.cur.rctl.getLsbD 0 = false) →
      exec (.rpoll rd a) s = .next (State.done (withPayload free slot.pay) 1 rd (BitVec.ofNat 64 slot.status)) ∧
      exec (.rwait rd a) s = .next (State.done (withPayload { free with cur := { free.cur with cache := [] } } slot.pay) 1 rd (BitVec.ofNat 64 slot.status))) ∧
    (k ≤ 15 → slot.st = .ready → 2 ≤ slot.status →
      exec (.rpoll rd a) s = .next (free.done 1 rd (BitVec.ofNat 64 slot.status)) ∧ exec (.rwait rd a) s = .next (free.done 1 rd (BitVec.ofNat 64 slot.status)))

-- the synchronisation unit and the engines' sequence numbers (R275, R288)

namespace Sys2Proof.Claim
/-- A semaphore word from its FAULT and VALUE (R286). -/
def semWord (fault : Bool) (v : Nat) : Word := BitVec.ofNat 64 ((if fault then 2 ^ 63 else 0) + v % 2 ^ 32)
def withSem (s : State) (n : Nat) (w : Word) : State :=
  let c := s.focus / 16
  s.setCluster c { s.getCluster c with sems := put word0 (s.getCluster c).sems n w }
def withBar (s : State) (n : Nat) (w : Word) : State :=
  { s with cur := { s.cur with eng := { s.cur.eng with bars := put word0 s.cur.eng.bars n w } } }
def noCache (s : State) : State := { s with cur := { s.cur with cache := [] } }
end Sys2Proof.Claim

/-- R288: the eight synchronisation instructions of a core, over the semaphore's VALUE and FAULT, the barrier's PENDING, EXCESS and OVERRUN,
and the bitmap's bits (that BARWAIT on a barrier declared with some bytes also waits while an accepted operation has arrivals to make there
is log 94's); R275: ESEQ waits for DONE, answers it with EFAULT and clears EFAULT. -/
def Sys2Proof.Claim.SynchronisationInstructions : Prop :=
  ∀ (s : State) (i : Fin 64) (b : Fin 16) (m : Fin 8) (rd a : Reg), isSc s.focus = false →
    let w := look word0 (s.getCluster (s.focus / 16)).sems i.val
    let v : Nat := w.toNat % 2 ^ 32
    let bar := (look word0 s.cur.eng.bars b.val).toNat
    let bits := look word0 s.cur.eng.cbms m.val
    let n : Nat := (s.x a).toNat % 2 ^ 32
    (w.msb = true → exec (.semwait i a) s = raise s 0x0F (BitVec.ofNat 64 (0x1001000 + 32 * i.val))) ∧
    (w.msb = false → n ≤ v → exec (.semwait i a) s = .next ((noCache s).retireN 1)) ∧
    (w.msb = false → v < n → exec (.semwait i a) s = .next s) ∧
    exec (.semadd i a) s = .next ((withSem s i.val (semWord w.msb (max 0 (min (2 ^ 32 - 1) ((v : Int) + (n : Int).bmod (2 ^ 32)))).toNat)).retireN 1) ∧
    exec (.semset i a) s = .next ((withSem s i.val (semWord false n)).retireN 1) ∧
    exec (.semrd rd i) s = .next ((noCache s).done 1 rd w) ∧
    (let bytes := (s.x a).toNat % 2 ^ 40
     let rest := s.cur.eng.declared.filter (fun j => j != b.val)
     let t := withBar s b.val (BitVec.ofNat 64 bytes)
     exec (.bardecl b a) s = .next (State.retireN { t with cur := { t.cur with eng := { t.cur.eng with
       declared := if bytes = 0 then rest else b.val :: rest } } } 1)) ∧
    let due := b.val ∈ s.cur.eng.declared ∧ s.arrivalsDue b.val = true
    (bar % 2 ^ 40 ≠ 0 ∨ due → exec (.barwait b) s = .next s) ∧
    (bar % 2 ^ 40 = 0 → ¬ due → bar / 2 ^ 63 = 1 → exec (.barwait b) s = raise s 0x0E (BitVec.ofNat 64 (bar / 2 ^ 40 % 2 ^ 23))) ∧
    (bar % 2 ^ 40 = 0 → ¬ due → bar / 2 ^ 63 = 0 → exec (.barwait b) s = .next ((noCache s).retireN 1)) ∧
    (bits &&& s.x a = s.x a → ∃ t, exec (.chkwait m a) s = .next t ∧ t.cur.eng.cbms = put word0 s.cur.eng.cbms m.val (bits &&& ~~~(s.x a)) ∧
      t.cur.x = s.cur.x ∧ t.cur.pc = (s.retireN 1).cur.pc ∧ t.mem = s.mem) ∧
    (bits &&& s.x a ≠ s.x a → exec (.chkwait m a) s = .next s) ∧
    exec (.chktest rd m a) s = .next ((noCache s).done 1 rd (bits &&& s.x a)) ∧
    (let g := s.cur.eng
     let upto := min ((s.x a).toNat % 2 ^ 63) g.issued
     (g.finished < upto → exec (.eseq rd a) s = .next s) ∧
     (upto ≤ g.finished → exec (.eseq rd a) s = .next (State.done
        { s with cur := { s.cur with cache := [], eng := { g with efault := false } } } 1 rd
        (BitVec.ofNat 64 (g.finished % 2 ^ 63 + if g.efault then 2 ^ 63 else 0)))))

/-- R66, R274: ECMD with a command word that passes every check and whose stores are performed queues its operation, counts it in ISSUED,
answers its sequence number and retires; an address past the local memory fails with subcode 5, one that is no multiple of 32 traps
MISALIGNED, a failed check traps ILLEGAL-COMMAND with the address and the first failed subcode. -/
def Sys2Proof.Claim.EcmdChecksAndQueues : Prop :=
  ∀ (s : State) (rd a : Reg),
    let at_ := s.x a
    let size := if isSc s.focus then 0x10000 else 0x80000
    let bs := s.localBytes at_.toNat 32
    let e := ecwOf (dwAt bs 0) (dwAt bs 8) (dwAt bs 16) (dwAt bs 24)
    (size - 32 < at_.toNat → exec (.ecmd rd a) s = raise s 0x13 ((at_ <<< 8) ||| 5#64)) ∧
    (at_.toNat ≤ size - 32 → at_.toNat % 32 ≠ 0 → exec (.ecmd rd a) s = raise s 1 at_) ∧
    (at_.toNat ≤ size - 32 → at_.toNat % 32 = 0 →
      (∀ n, s.ecwCheck e = some n → exec (.ecmd rd a) s = raise s 0x13 ((at_ <<< 8) ||| BitVec.ofNat 64 n)) ∧
      (∀ k, s.ecwCheck e = none → s.formKind s.cur.part (s.focus / 16) e = some k → s.ecmdDrained k = false → exec (.ecmd rd a) s = .next s) ∧
      (∀ k seq t, s.ecwCheck e = none → s.formKind s.cur.part (s.focus / 16) e = some k → s.ecmdDrained k = true → s.queueOp e k = some (seq, t) →
        exec (.ecmd rd a) s = .next (t.done 1 rd (BitVec.ofNat 64 seq)) ∧ seq = s.cur.eng.issued + 1))

-- objects, fences and atomics (R164-R180)

/-- R173, R45, R150, R318: FENCE and FENCE.G empty the unit's read cache; FENCE.J waits until every journal entry of the unit is FREE or,
timed, ACCEPTED, and its posted atomics and releases are applied; FENCE.E also waits for the firing's engine operations; FENCE.B waits for
the firing's journal entries to its stack, timed ones too, to be FREE and for its bank commands at its pseudo-channel, at every stack for
x0. Each then retires. -/
def Sys2Proof.Claim.FencesWaitAndRetire : Prop :=
  ∀ (s : State) (a : Reg) (p q : BitVec 4),
    exec (.fence p q) s = .next ((noCache s).retireN 1) ∧
    exec .fenceG s = .next ((noCache s).retireN 1) ∧
    (let performed := (∀ j e, (j, e) ∈ s.cur.journal → e.st = .free ∨ (e.timed = true ∧ e.accepted = true)) ∧
       s.pendingAtomic s.focus (fun _ => true) = false ∧ ∀ r, r ∈ s.releases → r.src ≠ s.focus
     (performed → exec .fenceJ s = .next (s.retireN 1)) ∧
     (¬ performed → exec .fenceJ s = .next s) ∧
     (performed → s.opsPending s.focus s.cur.firing.fid = false → exec .fenceE s = .next (s.retireN 1)) ∧
     (¬ performed ∨ s.opsPending s.focus s.cur.firing.fid = true → exec .fenceE s = .next s)) ∧
    (let freeTo := fun (t : State) (g : Option Nat) =>
       ∀ j e, (j, e) ∈ t.cur.journal → e.st = .free ∨ e.fid ≠ t.cur.firing.fid ∨ t.stackEntry e g = false
     let quiet := freeTo s none ∧ ∀ g c b, g < 8 → (c, b) ∈ (s.getStack g).pch → ∀ k, k ∈ b.cmds → k.src ≠ s.focus ∨ k.part ≠ s.cur.part
     let held := s.addrHeld (isSc s.focus) s.cur.part (s.x a) = true
     (s.x a = 0 → (quiet → exec (.fenceB a) s = .next ((noCache s).retireN 1)) ∧ (¬ quiet → exec (.fenceB a) s = .next s)) ∧
     (s.x a ≠ 0 → held → exec (.fenceB a) s = .next s) ∧
     (s.x a ≠ 0 → ¬ held → ∀ g c site t, s.bankPlace (s.x a) .any = .ok (g, c, site, t) →
       let done := freeTo t (some g) ∧ t.bankOut t.focus g c = false
       (done → exec (.fenceB a) s = .next ((noCache t).retireN 1)) ∧ (¬ done → exec (.fenceB a) s = .next t)) ∧
     (∀ node off, node < 256 → off < 2 ^ 48 → s.x a = globalAddr node off → 8 ≤ node → node < 0xF0 → ¬ held →
       exec (.fenceB a) s = raise s 5 (BitVec.ofNat 64 node)))

namespace Sys2Proof.Claim
/-- An object word (R164): XHELD, SHARERS, VALUE. -/
def objWord (x : Bool) (n v : Nat) : Word := BitVec.ofNat 64 ((if x then 2 ^ 63 else 0) + n * 2 ^ 48 + v)
def xheld (w : Word) : Bool := w.msb
def nshare (w : Word) : Nat := w.toNat / 2 ^ 48 % 2 ^ 15
def objVal (w : Word) : Nat := w.toNat % 2 ^ 48
/-- The acquire that an instruction is: form, destination, address register, threshold. -/
def acquireOf (s : State) : Instr → Option (AcqForm × Reg × Reg × Nat)
  | .acqX rd a => some (.x, rd, a, 0)
  | .acqS rd a => some (.s, rd, a, 0)
  | .acqw rd b a => some (.w, rd, a, objVal (s.x b))
  | _ => none
/-- A grant is possible on a word (R166). -/
def grants (f : AcqForm) (thr : Nat) (w : Word) : Prop :=
  match f with
  | .x => xheld w = false ∧ nshare w = 0
  | .s => xheld w = false ∧ nshare w < 32767
  | .w => xheld w = false ∧ nshare w < 32767 ∧ thr ≤ objVal w
/-- The word after a grant. -/
def afterGrant (f : AcqForm) (w : Word) : Word :=
  match f with
  | .x => objWord true (nshare w) (objVal w)
  | _ => objWord false (nshare w + 1) (objVal w)
/-- The word after a release (R169). -/
def afterRelease (v : Option Nat) (w : Word) : Word :=
  objWord false (if xheld w then nshare w else nshare w - 1) (v.getD (objVal w))
end Sys2Proof.Claim

/-- R166, R167: an acquire of an object in a scratchpad of the unit's own cluster that is grantable, with nobody waiting for it and no order
log, takes the object, empties the read cache and answers VALUE; one whose object is not grantable joins its wait list. An acquire with a
global address asks its home; an answer that has come completes it, a cause that has come traps. (The cluster's engine has no other request.) -/
def Sys2Proof.Claim.AcquiresTakeTheObject : Prop :=
  ∀ (s : State) i f (rd a : Reg) thr, acquireOf s i = some (f, rd, a, thr) →
    (∀ v, s.cur.wait = .value v → exec i s = .next ((noCache s).done 1 rd v)) ∧
    (∀ c sub tv, s.cur.wait = .refusal c sub tv → exec i s = raise s c tv (sub := sub)) ∧
    (s.cur.wait = .none →
      (∀ core b, s.engineCheck (s.x a) 8 = .ok (.scratch core b) → s.localSpot s.focus s.cur.part (s.x a) = some (core, b) → core < 2048 →
        s.ownPending (.scratch core b) 8 = false → (s.getCluster (core / 16)).aeReqs = [] → s.suspended s.cur.part = false →
        s.recorded s.cur.part s.cur.firing.lid = false → (∀ w, w ∈ (s.getCluster (core / 16)).waiters → w.loc ≠ scratchKey core b) →
        s.dueOver (scratchKey core b) 8 = false →
        let w := s.read (scratchKey core b) 8
        (grants f thr w → ∃ t, exec i s = .next ((noCache t).done 1 rd (BitVec.ofNat 64 (objVal w))) ∧
          t.mem = writeNat s.mem (scratchKey core b) (afterGrant f w).toNat 8 ∧ t.cur.x = s.cur.x ∧ t.cur.journal = s.cur.journal) ∧
        (¬ grants f thr w → (s.getCluster (core / 16)).waiters.length < 256 →
          ∃ t, exec i s = .next t ∧ t.mem = s.mem ∧ t.cur = { s.cur with wait := .parked (s.x a) })) ∧
      (∀ node off, s.engineCheck (s.x a) 8 = .ok (.global node off) → s.underWay (globalAddr node off).toNat 8 = false →
        exec i s = .next { s with cur := { s.cur with wait := .acquire f (s.x a) thr } }))

/-- R169, R170, R171: REL and RELV, once the firing's stores to the bound regions are performed, send their release: to a global object as
a journal entry, to a scratchpad without one; applied there, at an engine that has no other request, it clears XHELD or counts one sharer down
and RELV sets VALUE. BIND and UNBIND add and remove the binding; a malformed descriptor traps ILLEGAL-COMMAND 9, a full table 7, a 17th region
8 (that 9 comes before 7 and 7 before 8 is the model's choice, notes/assumptions/76). -/
def Sys2Proof.Claim.ReleasesAndBindings : Prop :=
  ∀ (s : State) (a b : Reg),
    let v := BitVec.ofNat 48 (s.x b).toNat
    (∀ core k, s.engineCheck (s.x a) 8 = .ok (.scratch core k) → s.releaseDrained (s.spotGeq (.scratch core k)) = true →
      let line := lineOf (s.spotGeq (.scratch core k))
      let gone := fun (x : Option (BitVec 48)) => State.retireN { s with
        cur := { s.cur with jord := s.cur.jord + 1, cache := s.cur.cache.filter (fun l => l.addr != line) },
        releases := s.releases ++ [{ src := s.focus, part := s.cur.part, lid := s.cur.firing.lid, addr := s.x a, value := x,
                                     fid := s.cur.firing.fid, ord := s.cur.jord }] } 1
      exec (.rel a) s = .next (gone none) ∧ exec (.relv b a) s = .next (gone (some v))) ∧
    (∀ node off j, s.engineCheck (s.x a) 8 = .ok (.global node off) → s.releaseDrained (s.spotGeq (.global node off)) = true →
      s.underWay (s.x a).toNat 8 = false →
      freeEntry s.cur (fun o => s.entryKey s.focus o == s.addrKey s.focus s.cur.part (s.x a)) = some j →
      let takes := fun (i : Instr) (k : JKind) => ∃ t e, exec i s = .next t ∧ t = { s with cur := t.cur } ∧ t.cur.x = s.cur.x ∧
        t.cur.pc = (s.retireN 1).cur.pc ∧ t.cur.journal = put jentry0 s.cur.journal j e ∧ e.st = .issued ∧ e.kind = k ∧ e.addr = s.x a ∧ e.node = node
      takes (.rel a) .rel ∧ takes (.relv b a) .relv) ∧
    (∀ r rest core k, s.releases = r :: rest → s.suspended r.part = false → s.releaseBehind 0 r = false →
      s.localSpot r.src r.part r.addr = some (core, k) → core < 2048 → (s.getCluster (core / 16)).aeReqs = [] → s.recorded r.part r.lid = false →
      (∀ w, w ∈ (s.getCluster (core / 16)).waiters → w.loc ≠ scratchKey core k) →
      let loc := scratchKey core k
      s.dueOver loc 8 = false →
      ∃ t, exec (.releaseApply 0) s = .next t ∧ t.releases = rest ∧ t.cur = s.cur ∧
        t.mem = writeNat s.mem loc (afterRelease (r.value.map BitVec.toNat) (s.read loc 8)).toNat 8) ∧
    (∀ spot base n, s.engineCheck (s.x a) 8 = .ok spot → s.regionOf (s.x b) = some (base, n) →
      let p := s.getPart s.cur.part
      let obj := s.spotGeq spot
      let same := fun (x : Binding) => x.obj == obj && x.base == base && x.log2 == n
      (p.bindings.any same = false → p.bindings.length < 8192 → (p.bindings.filter (fun x => x.obj == obj)).length < 16 →
        exec (.bind a b) s = .next (State.retireN (s.setPart s.cur.part
          { p with bindings := p.bindings ++ [{ obj := obj, base := base, log2 := n, lid := s.cur.firing.lid }] }) 1)) ∧
      (p.bindings.any same = true → exec (.bind a b) s = .next (s.retireN 1)) ∧
      (p.bindings.any same = false → 8192 ≤ p.bindings.length → exec (.bind a b) s = raise s 0x13 7) ∧
      (p.bindings.any same = false → p.bindings.length < 8192 → 16 ≤ (p.bindings.filter (fun x => x.obj == obj)).length →
        exec (.bind a b) s = raise s 0x13 8) ∧
      exec (.unbind a b) s = .next (State.retireN (s.setPart s.cur.part { p with bindings := p.bindings.filter (fun x => !same x) }) 1)) ∧
    (∀ spot, s.engineCheck (s.x a) 8 = .ok spot → s.regionOf (s.x b) = none →
      exec (.bind a b) s = raise s 0x13 9 ∧ exec (.unbind a b) s = raise s 0x13 9)

namespace Sys2Proof.Claim
/-- OPF of the integer atomics (R175, R176) on n bits, over Int and Nat. -/
def opValue (n : Nat) (op : AOp) (old b c : BitVec n) : BitVec n :=
  match op with
  | .add => BitVec.ofNat n (old.toNat + b.toNat)
  | .and => old &&& b
  | .or => old ||| b
  | .xor => old ^^^ b
  | .min => if old.toInt < b.toInt then old else b
  | .max => if old.toInt < b.toInt then b else old
  | .minu => if old.toNat < b.toNat then old else b
  | .maxu => if old.toNat < b.toNat then b else old
  | .swap => b
  | .cas => if old = c then b else old
  | .faddS => (amoFadd (old.setWidth 32) (b.setWidth 32)).setWidth n
  | .faddBh => (amoFaddBh (old.setWidth 32) (b.setWidth 32)).setWidth n
  | .fmaxS => (amoFmax (old.setWidth 32) (b.setWidth 32)).setWidth n
  | .acquire _ _ | .release _ => old
/-- An atomic: what it computes, on 4 or 8 bytes, its destination when it returns the old value, its address, operand and compare registers. -/
structure Amo where
  op : AOp
  n : Nat
  rd : Option Reg
  addr : Reg
  b : Reg
  c : Reg := 0
/-- The atomic that an instruction is (R54, R55). -/
def amoOf : Instr → Option Amo
  | .amoaddW rd b a => some { op := .add, n := 4, rd := some rd, addr := a, b := b }
  | .amoaddD rd b a => some { op := .add, n := 8, rd := some rd, addr := a, b := b }
  | .amoaddWP b a => some { op := .add, n := 4, rd := none, addr := a, b := b }
  | .amoaddDP b a => some { op := .add, n := 8, rd := none, addr := a, b := b }
  | .amoandW rd b a => some { op := .and, n := 4, rd := some rd, addr := a, b := b }
  | .amoandD rd b a => some { op := .and, n := 8, rd := some rd, addr := a, b := b }
  | .amoandWP b a => some { op := .and, n := 4, rd := none, addr := a, b := b }
  | .amoandDP b a => some { op := .and, n := 8, rd := none, addr := a, b := b }
  | .amoorW rd b a => some { op := .or, n := 4, rd := some rd, addr := a, b := b }
  | .amoorD rd b a => some { op := .or, n := 8, rd := some rd, addr := a, b := b }
  | .amoorWP b a => some { op := .or, n := 4, rd := none, addr := a, b := b }
  | .amoorDP b a => some { op := .or, n := 8, rd := none, addr := a, b := b }
  | .amoxorW rd b a => some { op := .xor, n := 4, rd := some rd, addr := a, b := b }
  | .amoxorD rd b a => some { op := .xor, n := 8, rd := some rd, addr := a, b := b }
  | .amoxorWP b a => some { op := .xor, n := 4, rd := none, addr := a, b := b }
  | .amoxorDP b a => some { op := .xor, n := 8, rd := none, addr := a, b := b }
  | .amominW rd b a => some { op := .min, n := 4, rd := some rd, addr := a, b := b }
  | .amominD rd b a => some { op := .min, n := 8, rd := some rd, addr := a, b := b }
  | .amominWP b a => some { op := .min, n := 4, rd := none, addr := a, b := b }
  | .amominDP b a => some { op := .min, n := 8, rd := none, addr := a, b := b }
  | .amomaxW rd b a => some { op := .max, n := 4, rd := some rd, addr := a, b := b }
  | .amomaxD rd b a => some { op := .max, n := 8, rd := some rd, addr := a, b := b }
  | .amomaxWP b a => some { op := .max, n := 4, rd := none, addr := a, b := b }
  | .amomaxDP b a => some { op := .max, n := 8, rd := none, addr := a, b := b }
  | .amominuW rd b a => some { op := .minu, n := 4, rd := some rd, addr := a, b := b }
  | .amominuD rd b a => some { op := .minu, n := 8, rd := some rd, addr := a, b := b }
  | .amominuWP b a => some { op := .minu, n := 4, rd := none, addr := a, b := b }
  | .amominuDP b a => some { op := .minu, n := 8, rd := none, addr := a, b := b }
  | .amomaxuW rd b a => some { op := .maxu, n := 4, rd := some rd, addr := a, b := b }
  | .amomaxuD rd b a => some { op := .maxu, n := 8, rd := some rd, addr := a, b := b }
  | .amomaxuWP b a => some { op := .maxu, n := 4, rd := none, addr := a, b := b }
  | .amomaxuDP b a => some { op := .maxu, n := 8, rd := none, addr := a, b := b }
  | .amoswapW rd b a => some { op := .swap, n := 4, rd := some rd, addr := a, b := b }
  | .amoswapD rd b a => some { op := .swap, n := 8, rd := some rd, addr := a, b := b }
  | .amoswapWP b a => some { op := .swap, n := 4, rd := none, addr := a, b := b }
  | .amoswapDP b a => some { op := .swap, n := 8, rd := none, addr := a, b := b }
  | .amocasW rd b c a => some { op := .cas, n := 4, rd := some rd, addr := a, b := b, c := c }
  | .amocasD rd b c a => some { op := .cas, n := 8, rd := some rd, addr := a, b := b, c := c }
  | .amofaddS rd b a => some { op := .faddS, n := 4, rd := some rd, addr := a, b := b }
  | .amofaddBh rd b a => some { op := .faddBh, n := 4, rd := some rd, addr := a, b := b }
  | .amofmaxS rd b a => some { op := .fmaxS, n := 4, rd := some rd, addr := a, b := b }
  | _ => none
/-- The new value of the location, from the old one. -/
def Amo.result (m : Amo) (s : State) (old : Word) : Word :=
  if m.n = 8 then opValue 64 m.op old (s.x m.b) (s.x m.c)
  else (opValue 32 m.op (old.setWidth 32) ((s.x m.b).setWidth 32) ((s.x m.c).setWidth 32)).setWidth 64
/-- x[rd]: the old value, sign-extended from its bytes. -/
def Amo.answer (m : Amo) (old : Word) : Word := if m.n = 8 then old else int ((old.toNat : Int).bmod (2 ^ 32))
end Sys2Proof.Claim

/-- R174-R176: an atomic on a scratchpad of the unit's own cluster whose engine is idle is applied there and retires: the location holds
OPF(old, b), every other byte of memory is as before, and a returning form gives rd the old value, sign-extended; a posted form writes no
register. An answer that comes from another home completes a returning form; the unit's cached copy of the location's line goes with it. (No other write of the unit to the cluster is under way, and no
acquire waits for an object among the bytes.) -/
def Sys2Proof.Claim.AtomicsUpdateAndAnswer : Prop :=
  ∀ (s : State) i m, amoOf i = some m →
    (∀ v rd, s.cur.wait = .value v → m.rd = some rd → exec i s = .next (State.done { s with cur := { s.cur with
      cache := s.cur.cache.filter (fun l => l.addr != lineOf (s.x m.addr)) } } 1 rd (m.answer v))) ∧
    (s.cur.wait = .none → ∀ core k, s.engineCheck (s.x m.addr) m.n = .ok (.scratch core k) → s.focus < 2305 →
      s.localSpot s.focus s.cur.part (s.x m.addr) = some (core, k) → s.ownPending (.scratch core k) m.n = false →
      s.amoUnderWay (0x10 + s.focus / 16) m.rd.isNone = false → s.dueOver (scratchKey core k) m.n = false → (s.getCluster (s.focus / 16)).aeReqs = [] → s.recorded s.cur.part s.cur.firing.lid = false →
      s.suspended s.cur.part = false → noWaiter s core k m.n → (∀ j, j < m.n → s.isState core ((k + j) / 16 * 16) = false) →
      let old := s.read (scratchKey core k) m.n
      ∃ t, exec i s = .next t ∧ t.read (scratchKey core k) m.n = BitVec.ofNat 64 ((m.result s old).toNat % 256 ^ m.n) ∧
        (∀ q, q < scratchKey core k ∨ scratchKey core k + m.n ≤ q → t.byte q = s.byte q) ∧
        t.cur.pc = (s.retireN 1).cur.pc ∧ t.cur.journal = s.cur.journal ∧
        (match m.rd with
          | some rd => setsOnly s t rd (m.answer old)
          | none => ∀ r, t.x r = s.x r))

/-- R153, R104, R175: a posted integer atomic to a global address takes a free journal entry with its operand and retires; a returning
one asks the engine of the home that its translation leads to, or waits while an own write to its bytes or an own posted atomic to its home is
under way (R180) or its page cannot be walked (R377), or traps with the cause of its translation. -/
def Sys2Proof.Claim.GlobalAtomicsGoToTheirHome : Prop :=
  ∀ (s : State) i m node off, amoOf i = some m → s.cur.wait = .none → s.engineCheck (s.x m.addr) m.n = .ok (.global node off) →
    let addr := s.x m.addr
    let home := s.addrKey s.focus s.cur.part addr
    (∀ j, m.rd = none → s.underWay addr.toNat m.n = false → freeEntry s.cur (fun o => s.entryKey s.focus o == home) = some j →
      ∃ t e, exec i s = .next t ∧ t.cur.journal = put jentry0 s.cur.journal j e ∧
      t = { s with cur := t.cur } ∧ t.cur.x = s.cur.x ∧ t.cur.pc = (s.retireN 1).cur.pc ∧ e.st = .issued ∧ e.addr = addr ∧ e.size = m.n ∧
      e.data = BitVec.ofNat 64 ((s.x m.b).toNat % 256 ^ m.n) ∧ e.timed = false ∧ e.node = node) ∧
    (∀ rd, m.rd = some rd →
      (s.writePending addr.toNat m.n = true ∨ s.amoUnderWay home = true ∨ s.walkHeld s.cur.part node off = true → exec i s = .next s) ∧
      (s.writePending addr.toNat m.n = false → s.amoUnderWay home = false → s.walkHeld s.cur.part node off = false →
        (∀ f, s.translate s.cur.part node off m.n .rw = .error f →
          exec i s = raise (s.noteFail s.focus f node off addr s.accKind) f.cause (failTval f node addr) (sub := f.sub)) ∧
        (∀ x g, s.translate s.cur.part node off m.n .rw = .ok x → engineOf x.home = some g →
          ∃ t r, exec i s = .next t ∧ t.mem = s.mem ∧ t.cur = { s.cur with wait := .atomic r } ∧ r ∈ t.reqsOf g ∧ r.src = s.focus ∧ r.addr = addr ∧
            r.op = m.op ∧ r.b = s.x m.b ∧ r.c = s.x m.c ∧ r.wide = decide (m.n = 8) ∧ r.returning = true)))

-- the law unit (R202-R227)

namespace Sys2Proof.Claim
/-- λ, S and φ of a coordinate, and x of a RAMP coordinate, as R92 lays them out, said over integers. -/
def lamOf (c : Word) : Int := ((c.toNat % 2 ^ 63 : Nat) : Int).bmod (2 ^ 63)
def signOf (c : Word) : Nat := c.toNat / 2 ^ 63
def oscLamOf (c : Word) : Int := ((c.toNat / 2 ^ 32 : Nat) : Int).bmod (2 ^ 32)
def oscPhiOf (c : Word) : Nat := c.toNat % 2 ^ 32
/-- The law entry's rate fields, said the same way: κ, ρ and ω (R198). -/
def oscKappa (e : LawEntry) : Int := ((e.p0.toNat % 2 ^ 32 : Nat) : Int).bmod (2 ^ 32)
def oscOmega (e : LawEntry) : Nat := e.p0.toNat / 2 ^ 32
def clampTo (lo hi v : Int) : Int := if v < lo then lo else if hi < v then hi else v
/-- A law operation has ended: the word's cached lines go, rd takes its result, the pc advances. -/
def lawDone (s : State) (w : WordAt) (a : Word) (rd : Reg) (r : Word) : Out :=
  .next (State.done { s with cur := dropLine (dropLine s.cur w.addr) a } 1 rd r)
/-- The word is the unit's to reach at once, and h is the state when it does: the word lies in a scratchpad, or in a stack whose page has
been found and that serves the unit now; no journalled store to it waits. -/
def atHand (s : State) (a : Word) (w : WordAt) (h : State) : Prop :=
  s.addrHeld (isSc s.focus) s.cur.part a = false ∧ youngest s.cur w.addr.toNat 16 = none ∧ youngest s.cur a.toNat 16 = none ∧
  ((s.lawPlace a = .ok (w, none) ∧ h = s) ∨
    ∃ t, s.lawPlace a = .ok (w, some t) ∧ s.servesSite s.cur.part t s.focus (.atomic s.focus) false = true ∧
      h = (s.fill s.cur.part (a.toNat / 2 ^ 48 % 256) (a.toNat % 2 ^ 48)).dropTicketSite t (.atomic s.focus))
end Sys2Proof.Claim

/-- R202: ADVANCE by the law's kind, said over integers: HOLD keeps the coordinate; LEAK subtracts κ·Δ from λ and ends at exactly -64 with S
cleared; RAMP clamps, adds ρ·Δ and clamps; OSC leaks its amplitude to no less than -64 and turns its phase by ω·Δ modulo a turn. -/
def Obligations.CoordinatesAdvanceByTheirLaw : Prop :=
  ∀ (e : LawEntry) (c : Word) (d : Nat),
    (e.kind = 0 → advance e c d = c) ∧
    (e.kind = 1 → 0 ≤ lamOf e.p0 →
      let l := lamOf c - lamOf e.p0 * d
      lamOf (advance e c d) = max l (-2 ^ 62) ∧ signOf (advance e c d) = if l ≤ -2 ^ 62 then 0 else signOf c) ∧
    (e.kind = 2 → e.p1.toInt ≤ e.p2.toInt →
      (advance e c d).toInt = clampTo e.p1.toInt e.p2.toInt (clampTo e.p1.toInt e.p2.toInt c.toInt + e.p0.toInt * d)) ∧
    (e.kind = 3 → 0 ≤ oscKappa e →
      oscLamOf (advance e c d) = max (oscLamOf c - oscKappa e * d) (-2 ^ 31) ∧
      oscPhiOf (advance e c d) = (oscPhiOf c + oscOmega e * d) % 2 ^ 32)

/-- R203: advancing in two steps is advancing once, for every law whose κ is not negative and whose range is not empty. -/
def Obligations.AdvancingComposes : Prop :=
  ∀ (e : LawEntry) (c : Word) (a b : Nat),
    (e.kind = 1 → 0 ≤ lamOf e.p0) → (e.kind = 2 → e.p1.toInt ≤ e.p2.toInt) → (e.kind = 3 → 0 ≤ oscKappa e) → e.kind ≤ 3 →
    advance e (advance e c a) b = advance e c (a + b)

/-- R221, R222: a law instruction reports the first failed check: a trap of its address first, then a word in a swap-out record, bit 127 set,
a law that is not valid (SWRAW makes no such check), then its own check; the word, the Rooster and every register stay as they are. So in a
scratchpad and in a stack alike. -/
def Sys2Proof.Claim.LawFaultsInOrder : Prop :=
  ∀ (s : State) (rd a b : Reg),
    (∀ f, s.addrHeld (isSc s.focus) s.cur.part (s.x a) = false → s.lawPlace (s.x a) = .error f →
      exec (.swldC rd a) s = raisePlace f ∧ exec (.swldV rd a) s = raisePlace f ∧ exec (.swst b a) s = raisePlace f ∧
      exec (.swadd rd b a) s = raisePlace f ∧ exec (.swarm rd b a) s = raisePlace f ∧ exec (.swdis a) s = raisePlace f ∧
      exec (.swraw rd b a) s = raisePlace f) ∧
    ∀ w h, atHand s (s.x a) w h →
      let v := h.wordOf w
      let e := h.lawEntry w.part v.law
      let th := h.thrEntry w.l w.part ((s.x b).toNat % 256)
      let bad := fun (i : Instr) (n : Nat) => exec i s = raise h 0x12 (BitVec.ofNat 64 n)
      let all := fun (n : Nat) => bad (.swldC rd a) n ∧ bad (.swldV rd a) n ∧ bad (.swst b a) n ∧ bad (.swadd rd b a) n ∧ bad (.swarm rd b a) n ∧
        bad (.swdis a) n
      let thrLow := if th.sel then th.thr.toNat / 2 ^ 32 else th.thr.toNat % 2 ^ 32
      (h.swapped w = true → all 8 ∧ bad (.swraw rd b a) 8) ∧
      (h.swapped w = false → v.top = true → all 7 ∧ bad (.swraw rd b a) 7) ∧
      (h.swapped w = false → v.top = false → e.valid = false → all 1) ∧
      (h.swapped w = false → v.top = false → 1 < (s.x b).toNat → bad (.swraw rd b a) 6) ∧
      (h.swapped w = false → v.top = false → e.valid = true →
        (e.kind = 0 → bad (.swadd rd b a) 2) ∧
        (e.kind ≠ 0 → (s.x b).toNat / 2 ^ 23 % 256 = 255 ∨ (e.kind = 3 ∧ (s.x b).toNat / 2 ^ 55 % 256 = 255) → bad (.swadd rd b a) 3) ∧
        ((s.x b).toNat % 256 = 0 ∨ 512 ≤ (s.x b).toNat ∨ th.valid = false → bad (.swarm rd b a) 4) ∧
        ((s.x b).toNat % 256 ≠ 0 → (s.x b).toNat < 512 → th.valid = true →
          e.kind = 0 ∨ (th.sel = true ∧ e.kind ≠ 3) ∨ (256 ≤ (s.x b).toNat ∧ th.sel = false) ∨ (e.kind = 3 ∧ thrLow ≠ 0) → bad (.swarm rd b a) 5))

/-- R202, R210, R222-R227: on a word at hand, in a scratchpad or a stack, whose checks pass and that has no crossing due, the law operations
take the coordinate c advanced to the home's time t: SWLD.C answers c, SWLD.V its observation, neither touching the word; SWST stores the
register as the kind admits it and SWADD the input's result, both stamped t, and an armed word's crossing is then entered anew, or posted
where its threshold is met (that nothing of a threshold entry with VALID 0 is evaluated is log 90's); SWDIS clears ARMED and removes the entry; SWARM re-bases and
arms under the threshold it names, REARM and phase thresholds too (its launch and phase are kept; status 1 is for a crossing that needs an entry:
log 91); SWRAW answers a stored doubleword. -/
def Sys2Proof.Claim.LawInstructionsActOnTheWord : Prop :=
  ∀ (s : State) (rd a b : Reg) (w : WordAt) (h : State), atHand s (s.x a) w h →
    let v := h.wordOf w
    let e := h.lawEntry w.part v.law
    let t := h.nowu w.l w.part e
    let c := advance e v.coord ((t + 2 ^ 40 - v.stamp) % 2 ^ 40)
    -- what SWST and SWADD leave: an unarmed or fired word as it is, an armed one with a new GEN and its next crossing
    let armed := v.armed = true ∧ v.fired = false
    let own := h.thrEntry w.l w.part v.alarm
    let based := fun (c' : Word) (sat : Bool) => { v with coord := c', stamp := t % 2 ^ 40, sat := v.sat || sat }
    let stores := fun (i : Instr) (c' : Word) (sat : Bool) (r : Reg) (x : Word) =>
      let n := { based c' sat with gen := v.gen + 1 }
      (¬ armed → exec i s = lawDone (h.putWord w (based c' sat)) w (s.x a) r x) ∧
      (armed → own.valid = true →
        (thrMet e own c' = true → h.postRoom w.l = true →
          exec i s = lawDone ((h.post w e own (based c' sat) t c' 2 false).1.putWord w (h.post w e own (based c' sat) t c' 2 false).2) w (s.x a) r x) ∧
        (thrMet e own c' = true → h.postRoom w.l = false → exec i s = .next { s with cur := { s.cur with wait := .law (s.x a) } }) ∧
        (thrMet e own c' = false → crossing e own c' = none → exec i s = lawDone ((h.putWord w n).dropRooster w) w (s.x a) r x) ∧
        (∀ d q, thrMet e own c' = false → crossing e own c' = some (d, q) → h.roosterRoom w = true →
          exec i s = lawDone ((h.putWord w n).putRooster w (mkRooster w e n (t + (d + q - 1) / q) 1 d q t)) w (s.x a) r x) ∧
        (∀ d q, thrMet e own c' = false → crossing e own c' = some (d, q) → h.roosterRoom w = false →
          exec i s = lawDone (h.putWord w n) w (s.x a) r x)) ∧
      (armed → own.valid = false → exec i s = lawDone ((h.putWord w n).dropRooster w) w (s.x a) r x)
    let th := h.thrEntry w.l w.part ((s.x b).toNat % 256)
    let u := { v with coord := c, stamp := t % 2 ^ 40, armed := true, fired := false, alarm := (s.x b).toNat % 256, gen := v.gen + 1,
                      rearm := decide (256 ≤ (s.x b).toNat) }
    let mark := fun (x : State) => x.setArm w (some (h.cur.firing.lid, h.cur.firing.phase))
    h.swapped w = false → v.top = false → (¬ armed ∨ own.valid = false ∨ ∀ tc, h.nextCrossing w e own t v = some tc → (t : Int) < tc) →
      ((s.x b).toNat ≤ 1 → exec (.swraw rd b a) s = lawDone h w (s.x a) rd (BitVec.ofNat 64 (readNat h.mem (w.key + 8 * (s.x b).toNat) 8))) ∧
      (e.valid = true →
        exec (.swldC rd a) s = lawDone h w (s.x a) rd c ∧
        exec (.swldV rd a) s = lawDone h w (s.x a) rd (obs e c) ∧
        exec (.swdis a) s = lawDone ((h.putWord w { v with armed := false }).dropRooster w) w (s.x a) 0 0 ∧
        (e.kind = 0 ∨ e.kind = 3 ∨ (e.kind = 1 ∧ s.x b ≠ 0xC000000000000000#64) → stores (.swst b a) (s.x b) false 0 0) ∧
        (e.kind = 1 → s.x b = 0xC000000000000000#64 → stores (.swst b a) 0x4000000000000000#64 false 0 0) ∧
        (e.kind = 2 → e.p1.toInt ≤ e.p2.toInt →
          let n := clampTo e.p1.toInt e.p2.toInt (s.x b).toInt
          stores (.swst b a) (int n) (decide (n ≠ (s.x b).toInt)) 0 0) ∧
        (e.kind ≠ 0 → (s.x b).toNat / 2 ^ 23 % 256 ≠ 255 → e.kind ≠ 3 ∨ (s.x b).toNat / 2 ^ 55 % 256 ≠ 255 →
          stores (.swadd rd b a) (input e c (s.x b)).c (input e c (s.x b)).sat rd (obs e (input e c (s.x b)).c)) ∧
        ((s.x b).toNat % 256 ≠ 0 → (s.x b).toNat < 512 → th.valid = true → e.kind ≠ 0 → (th.sel = true → e.kind = 3) →
          (256 ≤ (s.x b).toNat → th.sel = true) → (e.kind = 3 → (if th.sel then th.thr.toNat / 2 ^ 32 else th.thr.toNat % 2 ^ 32) = 0) →
          (thrMet e th c = false → crossing e th c = none →
            exec (.swarm rd b a) s = lawDone (mark ((h.putWord w u).dropRooster w)) w (s.x a) rd 0) ∧
          (∀ d r, thrMet e th c = false → crossing e th c = some (d, r) → h.roosterRoom w = true →
            exec (.swarm rd b a) s = lawDone (mark ((h.putWord w u).putRooster w (mkRooster w e u (t + (d + r - 1) / r) 1 d r t))) w (s.x a) rd 0) ∧
          (∀ d r, thrMet e th c = false → crossing e th c = some (d, r) → h.roosterRoom w = false →
            exec (.swarm rd b a) s = lawDone (h.putWord w (based c false)) w (s.x a) rd 1) ∧
          (thrMet e th c = true → h.postRoom w.l = true →
            exec (.swarm rd b a) s = lawDone (mark ((h.post w e th u t c 1 false).1.putWord w { u with fired := true })) w (s.x a) rd 2)))

/-- R210, R212, R231: an access that finds a crossing of its word at or before the present delivers it first: the word is FIRED, the post
carries the crossing's own time and coordinate with path 1, and the instruction then acts; with the post queue full it waits. -/
def Sys2Proof.Claim.LawAccessesDeliverACrossing : Prop :=
  ∀ (s : State) (rd a : Reg) (w : WordAt) (h : State) (tc : Int), atHand s (s.x a) w h →
    let v := h.wordOf w
    let e := h.lawEntry w.part v.law
    let t := h.nowu w.l w.part e
    let th := h.thrEntry w.l w.part v.alarm
    let c := advance e v.coord ((t + 2 ^ 40 - v.stamp) % 2 ^ 40)
    let there := advance e v.coord (tc - ((t : Int) - ((t + 2 ^ 40 - v.stamp) % 2 ^ 40 : Nat))).toNat
    h.swapped w = false → v.top = false → e.valid = true → th.valid = true → v.armed = true → v.fired = false → (v.rearm = false ∨ th.sel = false) →
    h.nextCrossing w e th t v = some tc → tc ≤ t →
      (h.postRoom w.l = false → exec (.swldC rd a) s = .next { s with cur := { s.cur with wait := .law (s.x a) } }) ∧
      (h.postRoom w.l = true →
        exec (.swldC rd a) s = lawDone ((h.post w e th v tc there 1 false).1.putWord w { v with fired := true }) w (s.x a) rd c)

/-- R204, R205, R207, R208: what a law unit computes. The threshold is met by R207's comparisons; a time-driven crossing
exists exactly in the rows of R208, at the distance and rate they give, and the k-th crossing is the least number of units that covers its
distance; OBS keeps a HOLD coordinate, gives L at -64, +0 for an OSC word there, and the FP32 code of each exact power of two (for OSC at
every quarter turn); INPUT adds to the exact real: a zero moves nothing, a word at -64 takes the input's logarithm and sign or angle, two
opposite powers of two cancel to -64, two equal ones double and stop at the top with SAT, and RAMP adds and clamps. -/
def Sys2Proof.Claim.LawFunctionsFollowTheirTables : Prop :=
  ∀ (e : LawEntry) (th : ThrEntry) (c x : Word) (k : Int) (neg : Bool), -63 ≤ k → k ≤ 63 →
    let sign : Nat := if neg then 1 else 0
    let code := sign * 2 ^ 31 + (k + 127).toNat * 2 ^ 23
    let rho := e.p0.toInt
    let clamped := fun (n : Int) => clampTo e.p1.toInt e.p2.toInt n
    (thrMet e th c = true ↔ th.sel = false ∧
      ((e.kind = 1 ∧ signOf th.thr = signOf c ∧ (if th.up then lamOf th.thr ≤ lamOf c else lamOf c ≤ lamOf th.thr)) ∨
       (e.kind = 2 ∧ (if th.up then th.thr.toInt ≤ c.toInt else c.toInt ≤ th.thr.toInt)) ∨
       (e.kind = 3 ∧ (if th.up then oscLamOf th.thr ≤ oscLamOf c else oscLamOf c ≤ oscLamOf th.thr)))) ∧
    (∀ d r, crossing e th c = some (d, r) ↔
      (e.kind = 1 ∧ th.sel = false ∧ th.up = false ∧ 0 < lamOf e.p0 ∧ signOf th.thr = signOf c ∧
        d = (lamOf c - lamOf th.thr).toNat ∧ r = (lamOf e.p0).toNat) ∨
      (e.kind = 2 ∧ th.sel = false ∧ th.up = false ∧ rho < 0 ∧ e.p1.toInt ≤ th.thr.toInt ∧ d = (c.toInt - th.thr.toInt).toNat ∧ r = (-rho).toNat) ∨
      (e.kind = 2 ∧ th.sel = false ∧ th.up = true ∧ 0 < rho ∧ th.thr.toInt ≤ e.p2.toInt ∧ d = (th.thr.toInt - c.toInt).toNat ∧ r = rho.toNat) ∨
      (e.kind = 3 ∧ th.sel = false ∧ th.up = false ∧ 0 < oscKappa e ∧ d = (oscLamOf c - oscLamOf th.thr).toNat ∧ r = (oscKappa e).toNat) ∨
      (e.kind = 3 ∧ th.sel = true ∧ 0 < oscOmega e ∧ r = oscOmega e ∧
        (d : Int) = ((oscPhiOf th.thr : Int) - oscPhiOf c - 1) % 2 ^ 32 + 1)) ∧
    (∀ d r n, 0 < r → 0 < n → d + (n - 1) * 2 ^ 32 ≤ dcOf d r n * r ∧ ∀ m, d + (n - 1) * 2 ^ 32 ≤ m * r → dcOf d r n ≤ m) ∧
    (e.kind = 0 → obs e c = c) ∧
    (e.kind = 1 → lamOf c = -2 ^ 62 → obs e c = BitVec.ofNat 64 (e.p1.toNat % 2 ^ 32)) ∧
    (e.kind = 1 → e.p1.toNat % 2 ^ 32 = 0 → lamOf c = k * 2 ^ 56 → signOf c = sign → obs e c = BitVec.ofNat 64 code) ∧
    (e.kind = 2 → -32 ≤ k → k ≤ 30 → c.toInt = (if neg then -1 else 1) * 2 ^ (k + 32).toNat → obs e c = BitVec.ofNat 64 code) ∧
    (e.kind = 3 → oscLamOf c = -2 ^ 31 → obs e c = 0) ∧
    (e.kind = 3 → oscLamOf c = k * 2 ^ 25 →
      (oscPhiOf c = sign * 2 ^ 31 → obs e c = BitVec.ofNat 64 code) ∧
      (oscPhiOf c = sign * 2 ^ 31 + 2 ^ 30 → obs e c = BitVec.ofNat 64 (code * 2 ^ 32))) ∧
    (x.toNat % 2 ^ 31 = 0 →
      (e.kind = 1 → lamOf c ≠ -2 ^ 62 → input e c x = ⟨c, false⟩) ∧ (e.kind = 1 → lamOf c = -2 ^ 62 → input e c x = ⟨0x4000000000000000#64, false⟩) ∧
      (e.kind = 2 → e.p1.toInt ≤ e.p2.toInt → input e c x = ⟨int (clamped c.toInt), decide (clamped c.toInt ≠ c.toInt)⟩) ∧
      (e.kind = 3 → x.toNat / 2 ^ 32 % 2 ^ 31 = 0 → input e c x = ⟨c, false⟩)) ∧
    (x.toNat % 2 ^ 32 = code →
      (e.kind = 1 → lamOf c = -2 ^ 62 → input e c x = ⟨BitVec.ofNat 64 (sign * 2 ^ 63 + (k * 2 ^ 56 % 2 ^ 63).toNat), false⟩) ∧
      (e.kind = 1 → lamOf c = k * 2 ^ 56 → signOf c ≠ sign → input e c x = ⟨0x4000000000000000#64, false⟩) ∧
      (e.kind = 1 → lamOf c = k * 2 ^ 56 → signOf c = sign → k < 63 →
        input e c x = ⟨BitVec.ofNat 64 (sign * 2 ^ 63 + ((k + 1) * 2 ^ 56 % 2 ^ 63).toNat), false⟩) ∧
      (e.kind = 1 → lamOf c = k * 2 ^ 56 → signOf c = sign → k = 63 → input e c x = ⟨BitVec.ofNat 64 (sign * 2 ^ 63 + (2 ^ 62 - 1)), true⟩) ∧
      (e.kind = 2 → -32 ≤ k → k ≤ 30 → e.p1.toInt ≤ e.p2.toInt →
        let n := c.toInt + (if neg then -1 else 1) * 2 ^ (k + 32).toNat
        input e c x = ⟨int (clamped n), decide (clamped n ≠ n)⟩) ∧
      (e.kind = 3 → oscLamOf c = -2 ^ 31 → x.toNat / 2 ^ 32 = 0 →
        input e c x = ⟨BitVec.ofNat 64 ((k * 2 ^ 25 % 2 ^ 32).toNat * 2 ^ 32 + sign * 2 ^ 31), false⟩)) ∧
    (x.toNat = code * 2 ^ 32 → e.kind = 3 → oscLamOf c = -2 ^ 31 →
      input e c x = ⟨BitVec.ofNat 64 ((k * 2 ^ 25 % 2 ^ 32).toNat * 2 ^ 32 + sign * 2 ^ 31 + 2 ^ 30), false⟩)

-- the stacks' banks (R298-R316)

namespace Sys2Proof.Claim
/-- The fields of a BCAST operand (R307). -/
def castOk (v : Word) : Prop :=
  v.toNat / 2 ^ 51 % 2 ^ 12 = 0 ∧ v.toNat / 2 ^ 19 % 2 ^ 17 = 0 ∧ 1 ≤ v.toNat / 2 ^ 36 % 2 ^ 10 ∧ v.toNat / 2 ^ 36 % 2 ^ 10 ≤ 512 ∧
  (if v.toNat / 2 ^ 63 = 1 then v.toNat / 2 ^ 46 % 32 + v.toNat / 2 ^ 36 % 2 ^ 10 ≤ 32
   else v.toNat / 2 ^ 36 % 2 ^ 10 % 16 = 0 ∧ v.toNat / 2 ^ 46 % 32 + v.toNat / 2 ^ 36 % 2 ^ 10 / 16 ≤ 32)
/-- The fields of a BEXPR operand for a handler word (R316). -/
def bexprOk (s : State) (a v : Word) (h : Nat) : Prop :=
  let size := bexprSize (hFmt h)
  v.toNat / 2 ^ 56 = 0 ∧ v.toNat / 2 ^ 54 % 2 = 0 ∧ v.toNat / 2 ^ 46 % 4 = 0 ∧ v.toNat / 2 ^ 32 % 256 = 0 ∧ 1 ≤ v.toNat % 2 ^ 32 ∧
  (v.toNat / 2 ^ 55 % 2 = 1 → isSc s.focus = false) ∧ a.toNat % max 1 size = 0 ∧ a.toNat % 2 ^ 48 + max 1 (v.toNat % 2 ^ 32 * size) ≤ 2 ^ 48
/-- The frames of a BEXPR's range, as its acceptance finds them (R305, R316). -/
def bexprFrames (s : State) (a v : Word) (h : Nat) : Option (List Site) :=
  s.framesOf s.cur.part (a.toNat / 2 ^ 48 % 256) (a.toNat % 2 ^ 48) (max 1 (v.toNat % 2 ^ 32 * bexprSize (hFmt h))) (if hReplies h then .r else .rw)
end Sys2Proof.Claim

/-- R306, R312: BMODE 1 enters a NORMAL pseudo-channel of a stack below CAP at once with X and P cleared (status 0), is told 1 by its own hold
and 2 by another's, and waits in arrival order otherwise; BMODE 0 leaves a hold whose commands are all complete (0), waits for one with
commands, and is told 1 without a hold; any other operand is subcode 0x0B. BSTAT packs the pseudo-channel's state into rd. (That BMODE and
BSTAT need no permission of the page, that entries wait in strict arrival order over the whole stack, and that one that finds the
pseudo-channel held when its turn comes is told 1 or 2, is read from the spec by log 43.) -/
def Obligations.AllbankModeIsEnteredAndLeft : Prop :=
  ∀ (s : State) (rd a b : Reg) g c site t, s.bankNode (s.x a) = none → s.bankHeld (s.x a) = false → s.bankPlace (s.x a) .any = .ok (g, c, site, t) →
    -- t is s with the page's translation in the home's cache
    let h := t.getPch g c
    let k := t.getStack g
    let name := ((t.getUnit t.focus).part, t.unitField (t.getUnit t.focus).part t.focus)
    let mine : Prop := h.allbank = true ∧ h.holder = some name
    let active := (k.pch.filter (fun kv => kv.2.allbank || kv.2.burst.isSome)).length
    exec (.bstat rd a) s = .next (t.done 1 rd (BitVec.ofNat 64 (
      (if h.allbank then 1 else 0) + (if t.holds t.focus g c then 4 else 0) + (if h.fault then 8 else 0) +
      256 * min 255 (h.cmds.filter (·.held)).length + 65536 * active + 2 ^ 24 * (k.cap % 256) + 2 ^ 32 * h.retries.toNat))) ∧
    (s.cur.wait = .none →
      (2 ≤ (s.x b).toNat → exec (.bmode rd b a) s = raise s 0x13 0x0B) ∧
      (s.x b = 1 → mine → exec (.bmode rd b a) s = .next (t.done 1 rd 1)) ∧
      (s.x b = 1 → h.allbank = true → ¬ mine → exec (.bmode rd b a) s = .next (t.done 1 rd 2)) ∧
      (s.x b = 1 → h.allbank = false → k.entering = [] → active < k.cap → h.burst = none →
        let hold := ((t.getUnit t.focus).firing.lid, (t.getUnit t.focus).firing.fid)
        let entered := { h with allbank := true, holder := some name, hold := hold, x := [], p := [], retries := 0, fault := false }
        exec (.bmode rd b a) s = .next (State.done (t.setPch g c entered) 1 rd 0)) ∧
      (s.x b = 1 → h.allbank = false → k.entering ≠ [] ∨ k.cap ≤ active ∨ h.burst ≠ none →
        exec (.bmode rd b a) s =
          .next ((t.setStack g { k with entering := k.entering ++ [(c, t.cur.part, t.focus)] }).stall (.bmode g c))) ∧
      (s.x b = 0 → ¬ mine → exec (.bmode rd b a) s = .next (t.done 1 rd 1)) ∧
      (s.x b = 0 → mine → h.cmds.any (·.held) = true → exec (.bmode rd b a) s = .next t) ∧
      (s.x b = 0 → mine → h.cmds.any (·.held) = false →
        exec (.bmode rd b a) s = .next (State.done (t.setPch g c { h with allbank := false, holder := none, hold := (0, 0) }) 1 rd 0))) ∧
    (∀ v, s.cur.wait = .value v → exec (.bmode rd b a) s = .next (s.done 1 rd v))

/-- R298, R305, R307, R308, R311, R316: a bank instruction whose address names no stack traps PLACE-MISS; BCAST with a malformed operand
traps subcode 0x0B and without a hold 0x0A; BGET without a hold 0x0A; BMV with a malformed descriptor 0x0C, with a delta plane whose node has no entry PLACE-MISS,
then with a matrix that does not translate its cause, and then with a layout that does not fit 0x0C; BEXPR with a malformed operand 0x0D.
Nothing else happens; a page whose walk must wait (R377) keeps the instruction. (The causes of a BEXPR or BGET that fails later, and the
alignment check at the core, are log 44's.) -/
def Sys2Proof.Claim.BankInstructionsRefuse : Prop :=
  ∀ (s : State) (rd a b : Reg),
    (∀ c tv, s.bankNode (s.x a) = some (c, tv) →
      exec (.bcast b a) s = raise s c tv ∧ exec (.bget b a) s = raise s c tv ∧ exec (.bmv rd b a) s = raise s c tv ∧
      exec (.bstat rd a) s = raise s c tv ∧ exec (.bexpr rd b a) s = raise s c tv ∧ (s.cur.wait = .none → exec (.bmode rd b a) s = raise s c tv)) ∧
    (s.bankNode (s.x a) = none →
      (¬ castOk (s.x b) → exec (.bcast b a) s = raise s 0x13 0x0B) ∧
      (castOk (s.x b) → s.localOperand (BitVec.ofNat 64 ((s.x b).toNat % 2 ^ 19)) 32 (32 * ((s.x b).toNat / 2 ^ 36 % 2 ^ 10)) = none →
        s.localPending ((s.x b).toNat % 2 ^ 19) (32 * ((s.x b).toNat / 2 ^ 36 % 2 ^ 10)) = false →
        s.bankHeld (s.x a) = false →
        ∀ g c site t, s.bankPlace (s.x a) .any = .ok (g, c, site, t) → t.holds t.focus g c = false → exec (.bcast b a) s = raise t 0x13 0x0A) ∧
      (s.getDest (s.x b) = none → s.bankHeld (s.x a) = false →
        ∀ g c site t, s.bankPlace (s.x a) .any = .ok (g, c, site, t) → t.holds t.focus g c = false → exec (.bget b a) s = raise t 0x13 0x0A) ∧
      (s.bankHeld (s.x a) = true → exec (.bstat rd a) s = .next s ∧ (s.getDest (s.x b) = none → exec (.bget b a) s = .next s) ∧
        (s.cur.wait = .none → (s.x b).toNat ≤ 1 → exec (.bmode rd b a) s = .next s)) ∧
      (s.localOperand (s.x b) 32 32 = none → s.localPending (s.x b).toNat 32 = false →
        let bs := s.localBytes (s.x b).toNat 32
        let d0 := (dwAt bs 0).toNat
        let d1 := dwAt bs 8
        let well := bmvWord (dwAt bs 0) d1 (dwAt bs 16) (dwAt bs 24) (isSc s.focus) = true
        (¬ well → exec (.bmv rd b a) s = raise s 0x13 0x0C) ∧
        (∀ node off, well → d0 / 2 ^ 32 % 4 < 2 → node < 256 → off < 2 ^ 48 → d1 = globalAddr node off → s.home s.cur.part node off = none →
          exec (.bmv rd b a) s = raise s 5 (BitVec.ofNat 64 node)) ∧
        (well → 2 ≤ d0 / 2 ^ 32 % 4 → (dwAt bs 16).toNat / 128 = 0 → s.bankHeld (s.x a) = false →
          (∀ f, s.bankPlace (s.x a) .r = .error f → exec (.bmv rd b a) s = raisePlace f) ∧
          (∀ g c site t, s.bankPlace (s.x a) .r = .ok (g, c, site, t) →
            bmvFits site (d0 / 2 ^ 32 % 4) (d0 / 2 ^ 34 % 4) (d0 / 2 ^ 16 % 128) (d0 / 32 % 32) (decide (d0 / 2 ^ 37 % 2 = 1)) = false →
            exec (.bmv rd b a) s = raise t 0x13 0x0C))) ∧
      (let h := handlerNat (s.handler s.cur.part ((s.x b).toNat / 2 ^ 40 % 64))
       (s.x b).toNat % 2 ^ 32 = 0 ∨ (s.x b).toNat / 2 ^ 56 ≠ 0 ∨ (s.x a).toNat % max 1 (bexprSize (hFmt h)) ≠ 0 → exec (.bexpr rd b a) s = raise s 0x13 0x0D))

/-- R305, R307-R311, R316: a bank command whose checks pass is taken by its pseudo-channel, with the frames found for it (that they are found
before acceptance and stay with the command, and that BCAST and BGET need no permission, is log 43's), and its instruction retires: BCAST with the bytes
read now, BGET, BMV with status 0 (1 and no command without a hold), BEXPR with 0 or the reply slot it allocated. Of a broadcast, in
striped mode Bead b receives slice b and in full mode every Bead all bytes, from XOFF * 32 on; other X bytes keep their values. -/
def Sys2Proof.Claim.BankCommandsAreTaken : Prop :=
  (∀ (s : State) (rd a b : Reg), s.bankNode (s.x a) = none → s.bankHeld (s.x a) = false →
    let v := s.x b
    (∀ g c site t, castOk v → s.localOperand (BitVec.ofNat 64 (v.toNat % 2 ^ 19)) 32 (32 * (v.toNat / 2 ^ 36 % 2 ^ 10)) = none →
      s.localPending (v.toNat % 2 ^ 19) (32 * (v.toNat / 2 ^ 36 % 2 ^ 10)) = false → s.bankPlace (s.x a) .any = .ok (g, c, site, t) →
      t.holds t.focus g c = true →
      exec (.bcast b a) s = .next (State.retireN (t.takeCmd g c (.bcast (decide (v.toNat / 2 ^ 63 = 1)) (v.toNat / 2 ^ 46 % 32)
        (t.localBytes (v.toNat % 2 ^ 19) (32 * (v.toNat / 2 ^ 36 % 2 ^ 10))))) 1)) ∧
    (∀ g c site t, s.getDest v = none → s.bankPlace (s.x a) .any = .ok (g, c, site, t) → t.holds t.focus g c = true →
      exec (.bget b a) s = .next (State.retireN (t.takeCmd g c (.bget v)) 1)) ∧
    (∀ g c site s1 t tds, s.localOperand v 32 32 = none → s.localPending v.toNat 32 = false → s.bankPlace (s.x a) .r = .ok (g, c, site, s1) →
      let bs := s.localBytes v.toNat 32
      let d0 := (dwAt bs 0).toNat
      let d2 := (dwAt bs 16).toNat
      let wf := d0 / 2 ^ 32 % 4
      bmvWord (dwAt bs 0) (dwAt bs 8) (dwAt bs 16) (dwAt bs 24) (isSc s.focus) = true → (d2 / 128 = 1 → s.svDrained = true) →
      (let node := (dwAt bs 8).toNat / 2 ^ 48 % 256
       let off := (dwAt bs 8).toNat % 2 ^ 48
       (2 ≤ wf ∧ tds = [] ∧ t = s1) ∨
         ∃ td, wf < 2 ∧ tds = [td] ∧ s.bankNode (dwAt bs 8) = none ∧ s.bankHeld (dwAt bs 8) = false ∧ rowsFit td 512 (d0 / 2 ^ 16 % 128) = true ∧
           t.pchOf s.cur.part td = some (g, c) ∧ s1.translate s.cur.part node off 1 .r = .ok td ∧ t = s1.fill s.cur.part node off) →
      bmvFits site wf (d0 / 2 ^ 34 % 4) (d0 / 2 ^ 16 % 128) (d0 / 32 % 32) (decide (d0 / 2 ^ 37 % 2 = 1)) = true →
      (t.holds s.focus g c = false → exec (.bmv rd b a) s = .next (t.done 1 rd 1)) ∧
      (t.holds s.focus g c = true → exec (.bmv rd b a) s = .next (State.done (t.takeCmd g c
        (.bmv (s.x a) (dwAt bs 8) (((d0 / 2 ^ 40 % 256 : Nat) : Int).bmod 256) (decide (d0 / 2 ^ 37 % 2 = 1)) (decide (d0 / 2 ^ 36 % 2 = 1)) (d0 / 2 ^ 34 % 4) wf
          (d0 / 2 ^ 16 % 128) (d0 / 32 % 32) (if d2 / 128 = 1 then some (d2 % 64) else none)) [site] tds) 1 rd 0))) ∧
    (let hw := s.handler s.cur.part (v.toNat / 2 ^ 40 % 64)
     let h := handlerNat hw
     let sem := if v.toNat / 2 ^ 55 % 2 = 1 then some (v.toNat / 2 ^ 48 % 64) else none
     let span := max 1 (v.toNat % 2 ^ 32 * bexprSize (hFmt h))
     let walked := fun (x : State) => x.fillRange s.cur.part ((s.x a).toNat / 2 ^ 48 % 256) ((s.x a).toNat % 2 ^ 48) span
     ∀ frames g c site s1, bexprOk s (s.x a) v h → s.rangeWalks s.cur.part (s.x a) span = false →
     let t := walked s1
     bexprFrames t (s.x a) v h = some frames → hInst h = true → (v.toNat / 2 ^ 55 % 2 = 1 → s.svDrained = true) →
     (hReplies h = false → s.bankPlace (s.x a) .rw = .ok (g, c, site, s1) →
       exec (.bexpr rd b a) s = .next (State.done (t.takeCmd g c (.bexpr (s.x a) (v.toNat % 2 ^ 32) hw none sem 0 0) frames) 1 rd 0)) ∧
     (∀ k, hReplies h = true → s.bankPlace (s.x a) .r = .ok (g, c, site, s1) → freeSlot s.cur = some k →
       exec (.bexpr rd b a) s = .next (State.done (State.takeCmd (allocated t k) g c (.bexpr (s.x a) (v.toNat % 2 ^ 32) hw
         (some (k, (look slot0 (allocated t k).cur.slots k).gen.toNat)) sem 0 0) frames) 1 rd (BitVec.ofNat 64 k))))) ∧
  (∀ (m : SMap Byte) (bytes : List Byte) (xoff b i : Nat), b < 16 → i < 1024 →
    (bytes.length % 16 = 0 → 32 * xoff + bytes.length / 16 ≤ 1024 →
      look byte0 (castX false xoff bytes m) (1024 * b + i) =
        if 32 * xoff ≤ i ∧ i < 32 * xoff + bytes.length / 16 then bytes.getD (b * (bytes.length / 16) + (i - 32 * xoff)) 0
        else look byte0 m (1024 * b + i)) ∧
    (32 * xoff + bytes.length ≤ 1024 →
      look byte0 (castX true xoff bytes m) (1024 * b + i) =
        if 32 * xoff ≤ i ∧ i < 32 * xoff + bytes.length then bytes.getD (i - 32 * xoff) 0 else look byte0 m (1024 * b + i)))

-- the vector registers and the tensor engine (R237-R271)

namespace Sys2Proof.Claim
/-- Only the vector registers of the unit in focus differ from what retiring n words leaves. -/
def onlyLanes (s t : State) (n : Nat) : Prop :=
  let u := (s.retireN n).cur
  t = { s with cur := { u with ten := { s.cur.ten with v := t.cur.ten.v } } }
/-- Only one accumulator's elements and the flags of MSTAT differ from what retiring leaves. -/
def onlyAcc (s t : State) : Prop :=
  let u := (s.retireN 1).cur
  t = { s with cur := { u with ten := { s.cur.ten with acc := t.cur.ten.acc, nan := t.cur.ten.nan, inf := t.cur.ten.inf } } }
/-- As `onlyLanes`, and cached copies of what the instruction has read go too (R151). -/
def onlyLanesRead (s t : State) (n : Nat) : Prop :=
  let u := (s.retireN n).cur
  t = { s with cur := { u with ten := { s.cur.ten with v := t.cur.ten.v }, cache := t.cur.cache } }
/-- Byte a of the own scratchpad as an instruction reads it: as it stood when the instruction read it ahead, if it has; else as it stands
(R246). -/
def byteRead (s : State) (a : Nat) : Byte := (look (fun _ => none) s.cur.tile.seen a).getD (s.byte (scratchKey s.focus a))
/-- n of them as a little-endian number. -/
def asRead (s : State) (a : Nat) : Nat → Nat
  | 0 => 0
  | n + 1 => asRead s a n + (byteRead s (a + n)).toNat * 256 ^ n
/-- vd holds f's lanes and every other vector register is as before. -/
def setsLanes (s t : State) (vd : VReg) (f : Nat → BitVec 32) : Prop := ∀ r l, l < 32 → t.lane r l = if r = vd then f l else s.lane r l
def int32 (v : Int) : BitVec 32 := BitVec.ofInt 32 v
def ones (b : Bool) : BitVec 32 := if b then 0xFFFFFFFF#32 else 0#32
/-- VREC's lane l (R270). -/
def recAt (a b : Nat → BitVec 32) (h : BitVec 32) : Nat → BitVec 32
  | 0 => fma32 (a 0) h (b 0)
  | l + 1 => fma32 (a (l + 1)) (recAt a b h l) (b (l + 1))
/-- The pairwise tree of R266: node i, k levels above the lanes. -/
def treeAt (op : BitVec 32 → BitVec 32 → BitVec 32) (a : Nat → BitVec 32) : Nat → Nat → BitVec 32
  | 0, i => a i
  | k + 1, i => op (treeAt op a k (2 * i)) (treeAt op a k (2 * i + 1))
/-- The destination and the lanes of a vector instruction that makes lanes from lanes (R258-R267, R270). -/
def laneResult (s : State) : Instr → Option (VReg × (Nat → BitVec 32))
  | .vfadd d a b => some (d, fun l => fadd (s.lane a l) (s.lane b l))
  | .vfsub d a b => some (d, fun l => fsub (s.lane a l) (s.lane b l))
  | .vfmul d a b => some (d, fun l => fmul (s.lane a l) (s.lane b l))
  | .vfmax d a b => some (d, fun l => fmax (s.lane a l) (s.lane b l))
  | .vfmin d a b => some (d, fun l => fmin (s.lane a l) (s.lane b l))
  | .vfabs d a => some (d, fun l => BitVec.ofNat 32 ((s.lane a l).toNat % 2 ^ 31))
  | .vfneg d a => some (d, fun l => BitVec.ofNat 32 ((s.lane a l).toNat + 2 ^ 31))
  | .vfcmp c d a b => some (d, fun l => ones (fcmp c (s.lane a l) (s.lane b l)))
  | .viadd d a b => some (d, fun l => int32 ((s.lane a l).toInt + (s.lane b l).toInt))
  | .visub d a b => some (d, fun l => int32 ((s.lane a l).toInt - (s.lane b l).toInt))
  | .vimul d a b => some (d, fun l => int32 ((s.lane a l).toInt * (s.lane b l).toInt))
  | .vand d a b => some (d, fun l => s.lane a l &&& s.lane b l)
  | .vor d a b => some (d, fun l => s.lane a l ||| s.lane b l)
  | .vxor d a b => some (d, fun l => s.lane a l ^^^ s.lane b l)
  | .vsll d a b => some (d, fun l => int32 ((s.lane a l).toNat * 2 ^ ((s.lane b l).toNat % 32)))
  | .vsrl d a b => some (d, fun l => int32 ((s.lane a l).toNat / 2 ^ ((s.lane b l).toNat % 32)))
  | .vsra d a b => some (d, fun l => int32 ((s.lane a l).toInt / 2 ^ ((s.lane b l).toNat % 32)))
  | .vimin d a b => some (d, fun l => int32 (min (s.lane a l).toInt (s.lane b l).toInt))
  | .vimax d a b => some (d, fun l => int32 (max (s.lane a l).toInt (s.lane b l).toInt))
  | .vicmp .eq d a b => some (d, fun l => ones (decide (s.lane a l = s.lane b l)))
  | .vicmp .ne d a b => some (d, fun l => ones (decide (s.lane a l ≠ s.lane b l)))
  | .vicmp .lt d a b => some (d, fun l => ones (decide ((s.lane a l).toInt < (s.lane b l).toInt)))
  | .vicmp .le d a b => some (d, fun l => ones (decide ((s.lane a l).toInt ≤ (s.lane b l).toInt)))
  | .vicmp .ltu d a b => some (d, fun l => ones (decide ((s.lane a l).toNat < (s.lane b l).toNat)))
  | .vicmp .leu d a b => some (d, fun l => ones (decide ((s.lane a l).toNat ≤ (s.lane b l).toNat)))
  | .vexp2 d a => some (d, fun l => exp2Lane (s.lane a l))
  | .vrcp d a => some (d, fun l => rcpLane (s.lane a l))
  | .vrsq d a => some (d, fun l => rsqLane (s.lane a l))
  | .vlog2 d a => some (d, fun l => log2Lane (s.lane a l))
  | .vcvt k d a => some (d, fun l => cvtLane k (s.lane a l))
  | .vfsum d a => some (d, fun _ => treeAt fadd (s.lane a) 5 0)
  | .vfmaxr d a => some (d, fun _ => treeAt fmax (s.lane a) 5 0)
  | .visum d a => some (d, fun _ => treeAt (· + ·) (s.lane a) 5 0)
  | .vperm d a b => some (d, fun l => s.lane a ((s.lane b l).toNat % 32))
  | .vbcast d a => some (d, fun _ => BitVec.ofNat 32 (s.x a).toNat)
  | .vmvv d a => some (d, s.lane a)
  | .vslide d a k => some (d, fun l => if 0 ≤ (l : Int) + k.toInt ∧ (l : Int) + k.toInt ≤ 31 then s.lane a ((l : Int) + k.toInt).toNat else 0#32)
  | .vfma d a b c => some (d, fun l => fma32 (s.lane a l) (s.lane b l) (s.lane c l))
  | .vfms d a b c => some (d, fun l => fma32 (s.lane a l) (s.lane b l) (BitVec.ofNat 32 ((s.lane c l).toNat + 2 ^ 31)))
  | .vsel d a b c => some (d, fun l => if s.lane c l = 0 then s.lane b l else s.lane a l)
  | .vrec d a b c => some (d, recAt (s.lane a) (s.lane b) (s.lane c 31))
  | _ => none
/-- The vector load an instruction is: its words, its destination and its elements. -/
def vecLoadForm (s : State) : Instr → Option (Nat × VReg × Elems)
  | .vld d a i => some (1, d, inRow (s.x a + plain i) 32)
  | .extPfx e (.one (.vld d a i)) => some (2, d, inRow (s.x a + ext e i) 32)
  | .vlds d a b => some (1, d, apart ((List.range 32).map (fun l => s.x a + BitVec.ofNat 64 l * s.x b)))
  | .vldx d a v => some (1, d, apart ((List.range 32).map (fun l => s.x a + BitVec.ofNat 64 (s.lane v l).toNat)))
  | _ => none
/-- The store of elements an instruction is: its words, its elements, their number, and element j's stored bits in a format. -/
def vecStoreForm (s : State) : Instr → Option (Nat × Elems × Nat × (Nat → Bool → Nat → BitVec 32))
  | .vst v a i => some (1, inRow (s.x a + plain i) 32, 32, fun f sat j => narrowElem f sat (s.lane v j))
  | .extPfx e (.one (.vst v a i)) => some (2, inRow (s.x a + ext e i) 32, 32, fun f sat j => narrowElem f sat (s.lane v j))
  | .vsts v a b =>
    some (1, apart ((List.range 32).map (fun l => s.x a + BitVec.ofNat 64 l * s.x b)), 32, fun f sat j => narrowElem f sat (s.lane v j))
  | .accst n a => some (1, inRow (s.x a) 1024, 1024, fun f sat j => accStored f sat (s.accElem n j))
  | _ => none
/-- Element j's address. -/
def elemAt (x : Elems) (f j : Nat) : Nat := ((x.addrs f).getD j 0).toNat
/-- No write of the unit to the span is under way (R246). -/
def settledSpan (s : State) (x : Elems) (f n : Nat) : Prop :=
  (x.packed = true → s.spanPending (elemAt x f 0) (n * fmtBits f / 8) = false) ∧ ∀ j, j < n → s.spanPending (elemAt x f j) (wholeBytes f) = false
end Sys2Proof.Claim

/-- R248, R258-R267, R270: a vector instruction of a core that makes lanes from lanes writes every lane of vd, read before any is written, and
retires; nothing else of the state changes. VMVX sign-extends one lane into rd. -/
def Obligations.VectorLaneResults : Prop :=
  ∀ (s : State), isSc s.focus = false →
    (∀ i vd f, laneResult s i = some (vd, f) → ∃ t, exec i s = .next t ∧ setsLanes s t vd f ∧ onlyLanes s t 1) ∧
    (∀ (rd : Reg) va (l : Fin 32), exec (.vmvx rd va l) s = .next (s.done 1 rd (int (s.lane va l.val).toInt)))

/-- R240, R258, R259, R263: the special operands of the lane arithmetic: a NaN operand propagates quietened, the first in assembly order first;
infinities of opposite sign, infinity times zero, give the canonical NaN; the zeros of VFMAX, VFMIN and VFSUB; VFCMP on NaNs and zeros. -/
def Sys2Proof.Claim.FloatLanesFollowTheSpecialRules : Prop :=
  ∀ (a b c : BitVec 32),
    let nan := fun (x : BitVec 32) => x.toNat / 2 ^ 23 % 256 = 255 ∧ x.toNat % 2 ^ 23 ≠ 0
    let quiet := fun (x : BitVec 32) => x ||| 0x00400000#32
    let inf := fun (x : BitVec 32) => x.toNat % 2 ^ 31 = 0x7F800000
    let zero := fun (x : BitVec 32) => x.toNat % 2 ^ 31 = 0
    (nan a → fadd a b = quiet a ∧ fsub a b = quiet a ∧ fmul a b = quiet a ∧ fmax a b = quiet a ∧ fmin a b = quiet a ∧ fma32 a b c = quiet a) ∧
    (¬ nan a → nan b → fadd a b = quiet b ∧ fsub a b = quiet b ∧ fmul a b = quiet b ∧ fmax a b = quiet b ∧ fmin a b = quiet b ∧
      fma32 a b c = quiet b) ∧
    (¬ nan a → ¬ nan b → nan c → fma32 a b c = quiet c) ∧
    (inf a → inf b → a ≠ b → fadd a b = 0x7FC00000#32) ∧ (inf a → a = b → fsub a b = 0x7FC00000#32) ∧
    (inf a → zero b → fmul a b = 0x7FC00000#32 ∧ fmul b a = 0x7FC00000#32 ∧ (¬ nan c → fma32 a b c = 0x7FC00000#32)) ∧
    (inf a → ¬ nan b → ¬ inf b → fadd a b = a ∧ fadd b a = a ∧ fsub a b = a) ∧
    (zero a → zero b → a ≠ b → fmax a b = 0 ∧ fmin a b = 0x80000000#32) ∧
    (¬ nan a → fmax a a = a ∧ fmin a a = a) ∧
    fsub 0x80000000#32 0#32 = 0x80000000#32 ∧ (¬ nan a → ¬ inf a → fsub a a = 0) ∧
    (nan a ∨ nan b → fcmp .eq a b = false ∧ fcmp .lt a b = false ∧ fcmp .le a b = false ∧ fcmp .ne a b = true) ∧
    (zero a → zero b → fcmp .eq a b = true ∧ fcmp .lt a b = false ∧ fcmp .le a b = true ∧ fcmp .ne a b = false) ∧
    (¬ nan a → ¬ nan b → ¬ (zero a ∧ zero b) →
      let less := (a.msb = true ∧ b.msb = false) ∨ (a.msb = true ∧ b.msb = true ∧ b.toNat < a.toNat) ∨ (a.msb = false ∧ b.msb = false ∧ a.toNat < b.toNat)
      (fcmp .eq a b = true ↔ a = b) ∧ (fcmp .ne a b = true ↔ a ≠ b) ∧ (fcmp .lt a b = true ↔ less) ∧ (fcmp .le a b = true ↔ less ∨ a = b))

/-- R264, R265: the special operands of VEXP2, VRCP, VRSQ and VLOG2, and VCVT's clamped and widening kinds. -/
def Sys2Proof.Claim.SpecialFunctionsFollowTheirTable : Prop :=
  ∀ (x : BitVec 32),
    let nan := x.toNat / 2 ^ 23 % 256 = 255 ∧ x.toNat % 2 ^ 23 ≠ 0
    let q := x ||| 0x00400000#32
    (nan → exp2Lane x = q ∧ rcpLane x = q ∧ rsqLane x = q ∧ log2Lane x = q ∧ cvtLane .toi32 x = 0) ∧
    (x.toNat % 2 ^ 31 = 0 → exp2Lane x = 0x3F800000#32 ∧ rcpLane x = 0x7F800000#32 ||| x ∧ rsqLane x = 0x7F800000#32 ||| x ∧
      log2Lane x = 0xFF800000#32) ∧
    (exp2Lane 0x7F800000#32 = 0x7F800000#32 ∧ exp2Lane 0xFF800000#32 = 0 ∧ rcpLane 0x7F800000#32 = 0 ∧ rcpLane 0xFF800000#32 = 0x80000000#32 ∧
      rsqLane 0x7F800000#32 = 0 ∧ rsqLane 0xFF800000#32 = 0x7FC00000#32 ∧ log2Lane 0x7F800000#32 = 0x7F800000#32 ∧
      log2Lane 0xFF800000#32 = 0x7FC00000#32) ∧
    (¬ nan → x.msb = true → x.toNat % 2 ^ 31 ≠ 0 → rsqLane x = 0x7FC00000#32 ∧ log2Lane x = 0x7FC00000#32) ∧
    (cvtLane .toi32 0x7F800000#32 = 0x7FFFFFFF#32 ∧ cvtLane .toi32 0xFF800000#32 = 0x80000000#32) ∧
    cvtLane .frombf16 x = BitVec.ofNat 32 (x.toNat % 2 ^ 16 * 2 ^ 16) ∧
    (cvtLane .tobf16 x).toNat < 2 ^ 16 ∧ (cvtLane .toe4m3 x).toNat < 2 ^ 8 ∧ (cvtLane .toe5m2 x).toNat < 2 ^ 8

/-- R241, R250: the checks of a vector access over elements of whole bytes, in their order: the first misaligned element, the first outside
the own scratchpad, the first that a range lock stops, the first bank whose FMT is not the governing one; else the format of the first element's bank governs. -/
def Sys2Proof.Claim.VectorAccessesAreChecked : Prop :=
  ∀ (s : State) (as : List Word) (write : Bool) (a0 : Word), as.head? = some a0 →
    let f := if a0.toNat < 0x80000 then s.bankFmt a0.toNat else 8
    let e := if f = 2 then 2 else if 3 ≤ f ∧ f ≤ 8 ∧ f ≠ 6 then 1 else 4
    let first := fun (bad : Word → Prop) (a : Word) => ∃ i : Nat, as[i]? = some a ∧ bad a ∧ ∀ (j : Nat) b, j < i → as[j]? = some b → ¬ bad b
    let none_ := fun (bad : Word → Prop) => ∀ a ∈ as, ¬ bad a
    let skew := fun (a : Word) => a.toNat % e ≠ 0
    let far := fun (a : Word) => 0x80000 ≤ a.toNat
    let shut := fun (a : Word) => s.locked (s.geq s.cur.part s.focus a.toNat).toNat e write = true
    let odd := fun (a : Word) => s.bankFmt a.toNat ≠ f ∨ 7 ≤ f
    (∀ a, first skew a → s.elemCheck (apart as) write = .error (1, a)) ∧
    (∀ a, none_ skew → first far a → s.elemCheck (apart as) write = .error (2, a)) ∧
    (∀ a, none_ skew → none_ far → first shut a → s.elemCheck (apart as) write = .error (0xD, a)) ∧
    (∀ a, none_ skew → none_ far → none_ shut → first odd a → s.elemCheck (apart as) write = .error (0x18, BitVec.ofNat 64 (a.toNat / 4096 * 4096))) ∧
    (none_ skew → none_ far → none_ shut → none_ odd → s.elemCheck (apart as) write = .ok f)

/-- R241, R246, R268: a vector load whose checks pass writes every lane of vd with its element, as it stands or as the instruction has read
it ahead (log 86), decoded by the governing format, and retires,
VLD under EXT as one instruction of two words; one whose check fails traps with it and writes nothing. -/
def Sys2Proof.Claim.VectorLoadsFillTheirLanes : Prop :=
  ∀ i s n vd x, vecLoadForm s i = some (n, vd, x) → isSc s.focus = false →
    (∀ c tv, s.elemCheck x false = .error (c, tv) → exec i s = raise s c tv) ∧
    (∀ f, s.elemCheck x false = .ok f → settledSpan s x f 32 → ∃ t, exec i s = .next t ∧ onlyLanesRead s t n ∧
      let raw := fun (l : Nat) => asRead s (elemAt x f l) (wholeBytes f)
      setsLanes s t vd (fun l => match f with
        | 2 => BitVec.ofNat 32 (raw l * 2 ^ 16)
        | 3 => widenE4m3 (BitVec.ofNat 8 (raw l))
        | 4 => widenE5m2 (BitVec.ofNat 8 (raw l))
        | 5 => int32 ((raw l : Int).bmod 256)
        | 7 => int32 (((raw l / 16 ^ (l % 2) % 16 : Nat) : Int).bmod 16)
        | _ => BitVec.ofNat 32 (raw l)))

/-- R241, R249, R250, R256, R269: VST, VSTS and ACCST whose checks pass write each element, encoded by the governing format and the SAT bit of
its own bank, the highest lane last; what the instruction has written ahead it does not write again (R246; log 86); no other byte, no
register and no other special register changes. (No acquire waits for an object among the bytes.) -/
def Sys2Proof.Claim.VectorStoresWriteTheirElements : Prop :=
  ∀ i s n x k enc, vecStoreForm s i = some (n, x, k, enc) → isSc s.focus = false →
    (∀ c tv, s.elemCheck x true = .error (c, tv) → exec i s = raise s c tv) ∧
    (∀ f, s.elemCheck x true = .ok f → settledSpan s x f k →
      (∀ j, j < k → noWaiter s s.focus (elemAt x f j) (wholeBytes f) ∧ s.dueOver (scratchKey s.focus (elemAt x f j)) (wholeBytes f) = false) →
      let ahead := s.cur.tile.put
      let e := wholeBytes f
      let code := fun (j : Nat) => (enc f (s.bankSat (elemAt x f j)) j).toNat
      ∃ t, exec i s = .next t ∧
        (f ≠ 7 → ahead = [] → ∀ j m, j < k → m < e → (∀ j', j < j' → j' < k → elemAt x f j' ≠ elemAt x f j) →
          t.byte (scratchKey s.focus (elemAt x f j) + m) = BitVec.ofNat 8 (code j / 256 ^ m)) ∧
        (f = 7 → ahead = [] → ∀ m, m < k / 2 → t.byte (scratchKey s.focus (elemAt x f 0) + m) = BitVec.ofNat 8 (code (2 * m) % 16 + 16 * (code (2 * m + 1) % 16))) ∧
        (∀ a, (∀ j, j < k → a < scratchKey s.focus (elemAt x f j) ∨ scratchKey s.focus (elemAt x f j) + e ≤ a) → t.byte a = s.byte a) ∧
        (∀ a, a ∈ ahead → a < 0x80000 → t.byte (scratchKey s.focus a) = s.byte (scratchKey s.focus a)) ∧
        t.cur = { (s.retireN n).cur with cache := t.cur.cache } ∧ t.others = s.others ∧ t.stks = s.stks ∧ t.clusters = s.clusters ∧ t.dies = s.dies)

/-- R246, R269: an element that an instruction reads ahead keeps, for it, the value it has now, whatever other cores write there later; memory
and every other element as read are as before; a range lock or an own write under way to it keeps the read from coming ahead. -/
def Sys2Proof.Claim.ElementsAreReadOneByOne : Prop :=
  ∀ (s : State) (a : Nat), a < 0x80000 →
    let e := wholeBytes (s.bankFmt a)
    let first := a / e * e
    let t := s.seeElem a
    let free := s.spanPending first e = false ∧ s.lockedElem first e e false = none
    (¬ free → t = s) ∧
    (free → t = { s with cur := { s.cur with tile := { s.cur.tile with seen := t.cur.tile.seen } } } ∧ (∀ b, byteRead t b = byteRead s b) ∧
      ∀ (u : State), u.cur.tile = t.cur.tile → ∀ i, i < e → byteRead u (first + i) = byteRead s (first + i))

/-- R252, R253, R255, R257: MMA whose checks pass sets every element of its accumulator to the steps of R84 over K positions of its A tile and
weight blocks, from +0 or from the element; ACCZ, ACCRD, ACCWR move whole rows; the flags of MSTAT follow what was written; MSTAT reads
them. An MMA whose check fails traps with it and commits nothing. -/
def Sys2Proof.Claim.MatrixInstructionsUpdateAccumulators : Prop :=
  ∀ (s : State) (n : Acc) (v : VReg) (rd a b c : Reg), isSc s.focus = false →
    let row := (s.x a).toNat % 32
    let bit := fun (w : BitVec 4) => w.getLsbD n.val
    let others := fun (t : State) => ∀ m : Acc, m ≠ n → t.cur.ten.nan.getLsbD m.val = s.cur.ten.nan.getLsbD m.val ∧
      t.cur.ten.inf.getLsbD m.val = s.cur.ten.inf.getLsbD m.val
    let isNan := fun (x : BitVec 32) => x.toNat / 2 ^ 23 % 256 = 255 ∧ x.toNat % 2 ^ 23 ≠ 0
    let isInf := fun (x : BitVec 32) => x.toNat % 2 ^ 31 = 0x7F800000
    (∃ t, exec (.accz n) s = .next t ∧ onlyAcc s t ∧ (∀ m k, k < 1024 → t.accElem m k = if m = n then 0 else s.accElem m k) ∧
      bit t.cur.ten.nan = false ∧ bit t.cur.ten.inf = false ∧ others t) ∧
    (∃ t, exec (.accrd v n a) s = .next t ∧ onlyLanes s t 1 ∧ setsLanes s t v (fun l => s.accElem n (32 * row + l))) ∧
    (∃ t, exec (.accwr n v a) s = .next t ∧ onlyAcc s t ∧ others t ∧
      (∀ m k, k < 1024 → t.accElem m k = if m = n ∧ k / 32 = row then s.lane v (k % 32) else s.accElem m k) ∧
      (bit t.cur.ten.nan = true ↔ bit s.cur.ten.nan = true ∨ ∃ l, l < 32 ∧ isNan (s.lane v l)) ∧
      (bit t.cur.ten.inf = true ↔ bit s.cur.ten.inf = true ∨ ∃ l, l < 32 ∧ isInf (s.lane v l))) ∧
    exec (.mstat rd) s = .next (s.done 1 rd (BitVec.ofNat 64 (s.cur.ten.inf.toNat + 2 ^ 4 * s.cur.ten.nan.toNat + 2 ^ 16 * s.cur.ten.mmas.toNat +
      2 ^ 32 * s.cur.ten.cyc.toNat))) ∧
    (let q := mmaCtl (s.x c)
     (∀ k tv, s.mmaCheck (s.x a) (s.x b) q (s.x b) = .error (k, tv) → exec (.mma n a b c) s = raise s k tv) ∧
     (∀ f e os, s.mmaCheck (s.x a) (s.x b) q (s.x b) = .ok (f, e, os) →
       let stride := if q.lda ≠ 0 then q.lda else q.k * e
       let keep := keepOf q.ncode
       (∀ i, i < 32 → q.k ≠ 0 → s.spanPending ((s.x a).toNat + i * stride) (q.k * e) = false) →
       let aAt := fun (i k : Nat) => aValue f (asRead s ((s.x a).toNat + i * stride + k * e) e)
       let bAt := fun (k j : Nat) => weightOf (s.block (os.getD (k / 48) 0) (blockLen q.bfmt keep)) q.bfmt keep q.ebase (k % 48) j
       let step := fun (i j : Nat) (t : BitVec 32) (p : Nat) =>
         dotStep t ((List.range (min 16 (q.k - 16 * p))).map (fun d => mulFp (aAt i (16 * p + d)) (bAt (16 * p + d) j)))
       ∃ t, exec (.mma n a b c) s = .next t ∧ t.mem = s.mem ∧ t.cur.x = s.cur.x ∧ t.cur.pc = (s.retireN 1).cur.pc ∧ t.cur.ten.v = s.cur.ten.v ∧ others t ∧
         t.cur.ten.mmas.toNat = min 0xFFFF (s.cur.ten.mmas.toNat + 1) ∧
         (∀ m i j, i < 32 → j < 32 → t.accElem m (32 * i + j) =
           if m = n then (List.range ((q.k + 15) / 16)).foldl (step i j) (if q.zf then 0 else s.accElem n (32 * i + j))
           else s.accElem m (32 * i + j)) ∧
         (bit t.cur.ten.nan = true ↔ (q.zf = false ∧ bit s.cur.ten.nan = true) ∨ ∃ k, k < 1024 ∧ isNan (t.accElem n k)) ∧
         (bit t.cur.ten.inf = true ↔ (q.zf = false ∧ bit s.cur.ten.inf = true) ∨ ∃ k, k < 1024 ∧ isInf (t.accElem n k))))

/-- R254: WLD walks the headers of n blocks, and copies their bytes unchanged to the weight buffer when every byte lies in the own scratchpad,
no range lock stops the reads and the last block ends inside the buffer; misaligned operands trap MISALIGNED, the source first; it waits while an own write to a
header is under way. -/
def Sys2Proof.Claim.WldCopiesItsBlocks : Prop :=
  ∀ (s : State) (n : Fin 32) (a b : Reg), isSc s.focus = false →
    let src := s.x a
    let dst := s.x b
    (src.toNat % 32 ≠ 0 → exec (.wld n a b) s = raise s 1 src) ∧
    (src.toNat % 32 = 0 → dst.toNat % 32 ≠ 0 → exec (.wld n a b) s = raise s 1 dst) ∧
    (src.toNat % 32 = 0 → dst.toNat % 32 = 0 → (∀ x, s.headerWalk n.val src = .error (some x) → exec (.wld n a b) s = raise s 2 x) ∧
      (s.headerWalk n.val src = .error none → exec (.wld n a b) s = .next s) ∧
      ∀ ls, s.headerWalk n.val src = .ok ls →
        let total := ls.sum
        (∀ o, src.toNat < 0x80000 → src.toNat + total ≤ 0x80000 → s.lockedElem src.toNat total 1 false = none → crossing_ dst.toNat ls = some o →
          exec (.wld n a b) s = raise s 0x18 (BitVec.ofNat 64 o)) ∧
        (src.toNat < 0x80000 → src.toNat + total ≤ 0x80000 → s.lockedElem src.toNat total 1 false = none → dst.toNat + total ≤ 0x40000 →
          s.spanPending src.toNat total = false →
          ∃ t, exec (.wld n a b) s = .next t ∧
            t = { s.retireN 1 with mem := t.mem, cur := { (s.retireN 1).cur with cache := t.cur.cache } } ∧
            (∀ k, k < total → t.byte (weightKey s.focus (dst.toNat + k)) = byteRead s (src.toNat + k)) ∧
            (∀ k, (∀ j, j < total → k ≠ weightKey s.focus (dst.toNat + j)) → t.byte k = s.byte k)))

-- privilege and the remote subset (R40, R41, R51, R109)

namespace Sys2Proof.Claim
/-- Outside a stack core's remote subset: the rows whose SC column is empty in R52-R57. -/
def outsideRemote : Instr → Bool
  | .qwaitF .. | .qwaitE .. | .qadvC .. | .qadvP .. | .qcnt .. | .qslot .. | .widf .. | .grow .. | .launch .. | .wfe .. | .tret
  | .eseq .. | .kill .. | .placew .. | .sendR .. | .sendnb .. | .semwait .. | .semadd .. | .semset .. | .semrd .. | .bardecl ..
  | .barwait .. | .chkwait .. | .chktest .. => true
  | .mma .. | .wld .. | .accz .. | .accrd .. | .accwr .. | .accst .. | .mstat .. => true
  | .vfadd .. | .vfsub .. | .vfmul .. | .vfmax .. | .vfmin .. | .vfabs .. | .vfneg .. | .vfcmp .. | .viadd .. | .visub .. | .vimul ..
  | .vand .. | .vor .. | .vxor .. | .vsll .. | .vsrl .. | .vsra .. | .vimin .. | .vimax .. | .vicmp .. | .vexp2 .. | .vrcp .. | .vrsq ..
  | .vlog2 .. | .vcvt .. | .vfsum .. | .vfmaxr .. | .visum .. | .vperm .. | .vbcast .. | .vmvx .. | .vmvv .. | .vslide .. | .vlds ..
  | .vsts .. | .vldx .. | .vld .. | .vst .. | .vfma .. | .vfms .. | .vsel .. | .vrec .. => true
  | _ => false
end Sys2Proof.Claim

/-- R40, R41, R109: on a stack core an instruction outside the remote subset traps ILLEGAL-INSTRUCTION with tval 4 and its word in tinst,
whatever its operands; on a core, TRET and KILL in U mode and PLACEW below M mode trap it with tval 3. -/
def Obligations.RefusedByUnitOrPrivilege : Prop :=
  ∀ (i : Instr) (s : State),
    let w := ((encode i).headD 0).setWidth 64
    (isSc s.focus = true → outsideRemote i = true → exec i s = raise s 0 4 w) ∧
    (isSc s.focus = false → s.cur.priv = .u → i = .tret ∨ (∃ rd a, i = .kill rd a) → exec i s = raise s 0 3 w) ∧
    (isSc s.focus = false → s.cur.priv ≠ .m → (∃ rd a b, i = .placew rd a b) → exec i s = raise s 0 3 w)

-- events: messages and replies (R130-R142)

namespace Sys2Proof.Claim
/-- A partition that is not suspended. -/
def awake (s : State) (p : Nat) : Prop := s.suspended p = false
/-- No waiting acquire's object at a stack's engine has one of n places in it. -/
def noStackWaiter (s : State) (g : Nat) (key : Nat → Nat) (n : Nat) : Prop :=
  ∀ w ∈ (s.getStack g).waiters, ∀ i, i < n → key i < w.loc ∨ w.loc + 8 ≤ key i
/-- A launch that neither keeps an order log nor replays one. -/
def unlogged (s : State) (p lid : Nat) : Prop := ∀ l, s.getLaunch p lid = some l → l.detctl.getLsbD 1 = false ∧ l.detctl.getLsbD 2 = false
/-- Unit u of t is this; every other unit is as in s. -/
def unitIs (s t : State) (u : Nat) (x : Machine.Unit) : Prop := t.getUnit u = x ∧ ∀ v, v ≠ u → t.getUnit v = s.getUnit v
end Sys2Proof.Claim

/-- R131-R133, R137, R138, R142, R360: the head of a send queue leaves for its target once every older store, posted atomic and release of
its sender to the target's node is performed, and waits before; with its target gone from the maps it ends in the terminal ring. It joins
the inbox of a core that its partition's maps still name while fewer than 64 wait there, one sender's messages in order, and sets the
target's event latch. A reply fills the WAITING slot whose GEN it carries until the tick of its deadline, and any other reply is counted
late; past its deadline, or in its tick when no reply for it comes, the slot goes READY with status 2. What belongs to a suspended
partition waits. Memory and every other unit are as before. (That an inbox takes messages of any partition that maps its core, and that one
for a core no map names waits, is log 10's; that a reply goes first in the tick of the deadline, and which replies are late, log 66's.) -/
def Obligations.MessagesAndRepliesArrive : Prop :=
  ∀ (s : State) (u k slot : Nat),
    (∀ o rest, (s.getUnit u).sendq = o :: rest →
      let x := s.getUnit u
      let p := o.msg.part
      let done := s.homeDrained u (s.nodeHome p o.node) (fun _ n => decide (n < o.ord)) = true
      (¬ done ∨ ¬ awake s p → exec (.messageDepart u) s = .next s) ∧
      (∀ d, done → awake s p → s.destUnit p o.dest = some d → ∃ t, exec (.messageDepart u) s = .next t ∧
        unitIs s t u { x with sendq := rest } ∧
        t.flights = s.flights ++ [{ src := u, dst := d, dest := o.dest, msg := o.msg, fid := o.fid }] ∧ t.mem = s.mem ∧ t.parts = s.parts) ∧
      (done → awake s p → s.destUnit p o.dest = none → ∃ t r, exec (.messageDepart u) s = .next t ∧
        unitIs s t u { x with sendq := rest } ∧ t.flights = s.flights ∧ t.mem = s.mem ∧ r.cause = 5 ∧ r.kind = 3 ∧ r.msg = some o.msg ∧
        (t.getPart o.msg.part).terminal.waiting = (s.getPart o.msg.part).terminal.waiting ++ [r])) ∧
    (∀ f, s.flights[k]? = some f →
      let x := s.getUnit f.dst
      let before := ∃ (j : Nat) (g : Flight), j < k ∧ s.flights[j]? = some g ∧ g.src = f.src ∧ g.dst = f.dst
      let mapped := ∃ lc, s.logCluster f.msg.part (f.dst / 16) = some lc ∧ (s.logCore f.msg.part lc (f.dst % 16)).isSome = true
      (64 ≤ x.inbox.length ∨ before ∨ ¬ awake s f.msg.part ∨ (isCore f.dst = true ∧ ¬ mapped) → exec (.messageAccept k) s = .next s) ∧
      (x.inbox.length < 64 → ¬ before → awake s f.msg.part → (isCore f.dst = true → mapped) → unlogged s f.msg.part f.msg.lid →
        ∃ t, exec (.messageAccept k) s = .next t ∧ unitIs s t f.dst { x with inbox := x.inbox ++ [f.msg], latch := true } ∧
          t.flights = s.flights.eraseIdx k ∧ t.mem = s.mem)) ∧
    (∀ r, s.replies[k]? = some r →
      let x := s.getUnit r.dst
      let sl := look slot0 x.slots r.slot
      let mine := x.part = r.part ∧ sl.st = .waiting ∧ sl.gen.toNat = r.gen ∧ (s.atimeOf (dieOf r.dst)).toNat ≤ sl.deadline
      (¬ awake s r.part → exec (.replyArrival k) s = .next s) ∧
      (awake s r.part → mine → ∃ t, exec (.replyArrival k) s = .next t ∧ t.replies = s.replies.eraseIdx k ∧ t.mem = s.mem ∧
        unitIs s t r.dst { x with slots := put slot0 x.slots r.slot { sl with st := .ready, status := r.status, pay := r.pay }, latch := true }) ∧
      (awake s r.part → ¬ mine → ∃ t, exec (.replyArrival k) s = .next t ∧ t.replies = s.replies.eraseIdx k ∧ t.mem = s.mem ∧
        (t.getUnit r.dst).late.toNat = min 0xFFFF (x.late.toNat + 1) ∧ (t.getUnit r.dst).slots = x.slots)) ∧
    (let x := s.getUnit u
     let sl := look slot0 x.slots slot
     let now := (s.atimeOf (dieOf u)).toNat
     let coming := ∃ r ∈ s.replies, r.dst = u ∧ r.part = x.part ∧ r.slot = slot ∧ r.gen = sl.gen.toNat
     let due := sl.st = .waiting ∧ awake s x.part ∧ (sl.deadline < now ∨ (sl.deadline = now ∧ ¬ coming))
     (due → ∃ t, exec (.replyTimeout u slot) s = .next t ∧ t.mem = s.mem ∧
       unitIs s t u { x with slots := put slot0 x.slots slot { sl with st := .ready, status := 2 }, latch := true }) ∧
     (¬ due → exec (.replyTimeout u slot) s = .next s))

-- events: accesses at their homes (R104, R153, R155, R158-R161)

namespace Sys2Proof.Claim
/-- The node and offset of a global address. -/
def nodeOf (a : Word) : Nat := a.toNat / 2 ^ 48 % 256
def offOf (a : Word) : Nat := a.toNat % 2 ^ 48

/-- Unit u's access of n bytes at global address a stands before its home: no write of the unit to those bytes stands in its journal, and
the page has been found or can be walked now. -/
def arrives (s : State) (u : Nat) (a : Word) (n : Nat) : Prop :=
  youngest (s.getUnit u) a.toNat n = none ∧ s.walkHeld (s.getUnit u).part (nodeOf a) (offOf a) = false
/-- The access translates to t, whose home serves it now: its link is up, no burst or ticket keeps it, and no timed store that is due
has still to write there. -/
def meets (s : State) (p u : Nat) (r : ReqId) (posted : Bool) (t : Site) (n : Nat) : Prop :=
  s.homeUp p t = true ∧ s.servesSite p t u r posted = true ∧ s.dueOver (s.siteBase p t) n = false
/-- Unit u's outstanding load of n bytes at a is answered: t is the state after the answer to it in s (R151, R155). A page that is absent
posts one retryable record at its die, unless it stands in that die's absent table, which it then enters while its partition has fewer than
64 pages there (R383). The bytes come from the line of the page where the reader's cache fills, else from themselves. -/
def loadAnswer (s : State) (u : Nat) (a : Word) (n : Nat) (r : State) : Prop :=
  let x := s.getUnit u
  let node := nodeOf a
  let tr := s.translate x.part node (offOf a) n .r
  (∀ f, tr = .error f → unitIs s r u { x with wait := .refusal f.cause f.sub (failTval f node a) } ∧ r.mem = s.mem ∧
    (f.cause ≠ 3 → r.parts = s.parts) ∧
    (f.cause = 3 → isPeerNode node = false →
      let d := s.nodeDie x.part node (offOf a)
      let key := (x.part, node, offOf a / 65536)
      let mine := ((s.getDie d).absent.filter (fun k => k.1 == x.part)).length
      (key ∈ (s.getDie d).absent → r.parts = s.parts ∧ r.dies = s.dies) ∧
      (key ∉ (s.getDie d).absent →
        (r.getDie d).absent = (s.getDie d).absent ++ (if mine < 64 then [key] else []) ∧
        (r.getPart x.part).retry.waiting = (s.getPart x.part).retry.waiting ++
          [{ cause := 3, kind := if isSc u then 1 else 0, lid := x.firing.lid, unit := s.unitField x.part u, addr := a, val := a,
             time := (s.atimeOf (dieOf u)).toNat, src := some u }]))) ∧
  (∀ t, tr = .ok t → meets s x.part u (.load u) false t n → (∀ k, t.home ≠ .peer k) → a.toNat % 128 + n ≤ 128 →
    (∀ lt, s.translate x.part node (offOf a / 128 * 128) 128 .r = .ok lt →
      lt.home = t.home ∧ ∀ i, i < n → s.siteKey x.part lt (a.toNat % 128 + i) = s.siteKey x.part t i) →
    (r.getUnit u).wait = .value (BitVec.ofNat 64 (natOfBytes ((List.range n).map (fun i => s.byte (s.siteKey x.part t i))))) ∧ r.mem = s.mem ∧
    (t.noFill = true → (r.getUnit u).cache = x.cache.filter (fun l => l.addr != lineOf a))) ∧
  (∀ t, tr = .ok t → ¬ meets s x.part u (.load u) false t n → r = s)
end Sys2Proof.Claim

/-- R151, R153, R155, R161, R187, R376, R383: the home of an outstanding global load answers it with the value served there, or with the
cause and subcode its translation meets, an absent page with its retryable record. A not-before load waits until its unit's clock has
reached T, by the signed distance, and is then served at its home likewise. A walk may begin instead and changes only the translation
cache's walks. -/
def Sys2Proof.Claim.HomesAnswerLoads : Prop :=
  ∀ (s : State) (u : Nat) (a : Word) (n : Nat),
    let x := s.getUnit u
    (x.wait = .load a n none →
      (arrives s u a n → ∃ r, exec (.homeLoad u false) s = .next r ∧ loadAnswer s u a n r) ∧
      (¬ arrives s u a n → exec (.homeLoad u false) s = .next s) ∧
      (∃ t, exec (.homeLoad u true) s = .next t ∧ t = { s with dies := t.dies } ∧ ∀ d, (t.getDie d).tc = (s.getDie d).tc)) ∧
    (∀ T, x.wait = .load a n (some T) →
      let early := (T - s.atimeOf (dieOf u)).toInt > 0
      (early ∨ ¬ arrives s u a n → exec (.notBeforeLoad u) s = .next s) ∧
      (¬ early → arrives s u a n → ∃ r, exec (.notBeforeLoad u) s = .next r ∧ loadAnswer s u a n r)) ∧
    ((∀ b m T, x.wait ≠ .load b m T) → exec (.homeLoad u false) s = .next s ∧ exec (.notBeforeLoad u) s = .next s)

namespace Sys2Proof.Claim
/-- The source of an entry stands blocked at the entry's home, named as in s, from the entry's place in its issue order on (R104). -/
def stoppedAt (s t : State) (u : Nat) (e : JEntry) : Prop :=
  ∃ b ∈ t.blocked, b.part = e.part ∧ b.key = s.entryKey u e ∧ b.src = u ∧ b.ord ≤ e.sent
end Sys2Proof.Claim

/-- R104, R132, R153, R155: an ISSUED untimed entry waits behind every older entry and unblock token of its unit to the same home, and for a
walk of its page; a blocked
source's entry is refused with subcode 5 and one whose translation fails with 1 or 2, which blocks the source at that home from its issue
order on; a store that translates to a stack is written there and acknowledged. The acknowledgement frees the entry. A refusal makes the
entry REFUSED and is reported once per node. An unblock token lifts its source's blocking after what the source sent before it. -/
def Sys2Proof.Claim.JournalEntriesMoveAsTheirTableSays : Prop :=
  ∀ (s : State) (u j : Nat),
    let e := s.entry u j
    let tr := s.translate e.part (nodeOf e.addr) (offOf e.addr) e.size (if e.kind = .store then .w else .rw)
    let waits := s.behind u e = true ∨ s.behindEngine u e (entryEngine e tr) = true ∨ s.addrHeld (isSc u) e.part e.addr = true
    (e.st = .issued → e.stage = .toHome → e.timed = false →
      (waits ∨ ¬ awake s e.part → exec (.homeStoreArrival u j) s = .next s) ∧
      (¬ waits → awake s e.part → e.mark = false →
        (stoppedAt s s u e → ∃ t, exec (.homeStoreArrival u j) s = .next t ∧ (t.entry u j).stage = .refusal 5 ∧ t.mem = s.mem ∧
          stoppedAt s t u e) ∧
        (∀ f, ¬ stoppedAt s s u e → isAperture (nodeOf e.addr) (offOf e.addr) e.size = false → tr = .error f →
          ∃ t, exec (.homeStoreArrival u j) s = .next t ∧ (t.entry u j).stage = .refusal (if f.cause = 3 then 1 else 2) ∧ t.mem = s.mem ∧
            stoppedAt s t u e) ∧
        (∀ w g, ¬ stoppedAt s s u e → isAperture (nodeOf e.addr) (offOf e.addr) e.size = false → e.kind = .store →
          tr = .ok w → w.home = .stack g → meets s e.part u (.store u j) true w e.size →
          (s.getStack g).regs = [] → noStackWaiter s g (s.siteKey e.part w) e.size →
          (∀ i i', i < e.size → i' < e.size → s.siteKey e.part w i = s.siteKey e.part w i' → i = i') →
          ∃ t, exec (.homeStoreArrival u j) s = .next t ∧ (t.entry u j).stage = .ack ∧
            (∀ i, i < e.size → t.byte (s.siteKey e.part w i) = BitVec.ofNat 8 (e.data.toNat / 256 ^ i)) ∧
            (∀ k, (∀ i, i < e.size → k ≠ s.siteKey e.part w i) → t.byte k = s.byte k)) ∧
        (∀ w g, ¬ stoppedAt s s u e → isAperture (nodeOf e.addr) (offOf e.addr) e.size = false → e.kind = .store →
          tr = .ok w → w.home = .stack g → ¬ meets s e.part u (.store u j) true w e.size →
          ∃ t, exec (.homeStoreArrival u j) s = .next t ∧ t.entry u j = e ∧ t.mem = s.mem))) ∧
    (e.st = .issued → e.stage = .ack → awake s e.part →
      ∃ t, exec (.journalAck u j) s = .next t ∧ unitIs s t u { s.getUnit u with journal := put jentry0 (s.getUnit u).journal j {},
                                                                                  idleSince := s.now } ∧ t.mem = s.mem) ∧
    (∀ sub, e.st = .issued → e.stage = .refusal sub → awake s e.part →
      let told := ∃ k e', (k, e') ∈ (s.getUnit u).journal ∧ e'.st = .refused ∧ e'.node = e.node
      ∃ t, exec (.journalRefusal u j) s = .next t ∧ (t.entry u j).st = .refused ∧ (t.entry u j).sub = sub ∧ t.mem = s.mem ∧
        (told → (t.getUnit u).asyncs = (s.getUnit u).asyncs) ∧
        (¬ told → (t.getUnit u).asyncs = (s.getUnit u).asyncs ++
          [if sub = 6 then { code := 0x0B, tval := e.time, jidx := j } else { code := 0x0C, tval := BitVec.ofNat 64 sub, jidx := j }] ∧
          (t.getUnit u).latch = true)) ∧
    (∀ t, s.tokens[j]? = some t → awake s t.part →
      let early := s.sentBefore t.src t.key t.sent (fun o => o.part == t.part) = true
      (early → exec (.unblockToken j) s = .next s) ∧
      (¬ early → (∀ i o, i < j → s.tokens[i]? = some o → ¬ (o.src = t.src ∧ o.key = t.key ∧ o.part = t.part)) →
        exec (.unblockToken j) s = .next { s with tokens := s.tokens.eraseIdx j,
                                                  blocked := s.blocked.filter (fun b => !(b.part == t.part && b.key == t.key && b.src == t.src)) }))

/-- R158-R160, R104: what its unit sent earlier to the same home goes before a timed store (in the model a timed store whose T is no later:
notes/assumptions/66); at its home one is refused with 3 on an UNSETTLED die, rejected with 6 after T + EPS, refused with 5 while its source
is blocked, with 1 or 2 where it does not translate, with 4 when the queue is full; else it enters the queue and ACCEPT is sent. ACCEPT sets
ACCEPTED. An entry has its bytes written, in a scratchpad or a stack, once its T has come and no entry for some of the same bytes has an
earlier turn, not before. (Which queue and clock a peer's store has is notes/assumptions/34's choice, that a store to a cluster's node stands
in its die's queue is notes/assumptions/29's.) -/
def Obligations.TimedStoresEnterTheVisibilityQueue : Prop :=
  ∀ (s : State) (u j k : Nat),
    let e := s.entry u j
    (e.timed = true → (s.timedBehind u e = true ∨ s.addrHeld (isSc u) e.part e.addr = true) → exec (.timedStoreArrival u j) s = .next s) ∧
    (∀ port die, e.st = .issued → e.stage = .toHome → e.timed = true → e.mark = false → awake s e.part → s.timedBehind u e = false →
      s.addrHeld (isSc u) e.part e.addr = false → s.timedHome u e = some (port, die) →
      let a := (s.atimeOf die).toNat
      let refused := fun (n : Nat) => ∃ t, exec (.timedStoreArrival u j) s = .next t ∧ (t.entry u j).stage = .refusal n ∧ t.mem = s.mem ∧
        t.vis = s.vis ∧ stoppedAt s t u e
      (s.clkState die = 0 → refused 3) ∧
      (s.clkState die ≠ 0 → e.time.toNat + epsOf e.node < a → refused 6) ∧
      (s.clkState die ≠ 0 → a ≤ e.time.toNat + epsOf e.node →
        (stoppedAt s s u e → refused 5) ∧
        (¬ stoppedAt s s u e →
          (∀ f, s.timedSite u e = .error f → refused (if f.cause = 3 then 1 else 2)) ∧
          (∀ site, s.timedSite u e = .ok site → (∀ t, site = some t → s.homeUp e.part t = true) →
            let n := (s.vis.filter (fun v => v.port == port)).length
            let cap := if port < 4096 then 64 else 512
            (cap ≤ n → refused 4) ∧
            (n < cap → ∃ t, exec (.timedStoreArrival u j) s = .next t ∧ t.mem = s.mem ∧ (t.entry u j).stage = .atHome ∧ (t.entry u j).accepting = true ∧
              t.vis = s.vis ++ [{ port := port, src := u, j := j, part := e.part, lid := e.lid, addr := e.addr, data := e.data, size := e.size,
                                  time := e.time, arrived := a, site := site }]))))) ∧
    (e.st = .issued → e.accepting = true → awake s e.part →
      ∃ t, exec (.timedStoreAccept u j) s = .next t ∧ (t.entry u j).accepted = true ∧ (t.entry u j).accepting = false ∧ (t.entry u j).st = .issued ∧
        t.mem = s.mem) ∧
    (∀ v, s.vis[k]? = some v → (∀ i, i < k → s.vis[i]? ≠ some v) →
      let now := (s.atimeOf (if v.port < 4096 then v.port / 512 else v.port - 4096)).toNat
      let first := ∀ (i : Nat) (w : Vis), s.vis[i]? = some w → i ≠ k → overlaps (s.visKey w) w.size (s.visKey v) v.size = true →
        v.time.toNat < w.time.toNat ∨ (v.time = w.time ∧ k < i)
      (now < v.time.toNat ∨ ¬ first → exec (.timedStoreVisible k) s = .next s) ∧
      (∀ c a, v.time.toNat ≤ now → first → v.site = none → (classify false v.addr = .own a ∨ classify false v.addr = .window c a) →
        (∀ b, s.isState v.port b = false) → noWaiter s v.port a v.size →
        ∃ t, exec (.timedStoreVisible k) s = .next t ∧ t.vis = s.vis.eraseIdx k ∧
          (∀ i, i < v.size → t.byte (scratchKey v.port (a + i)) = BitVec.ofNat 8 (v.data.toNat / 256 ^ i)) ∧
          (∀ b, (∀ i, i < v.size → b ≠ scratchKey v.port (a + i)) → t.byte b = s.byte b)) ∧
      (∀ w g, v.time.toNat ≤ now → first → v.site = some w → w.home = .stack g → (s.getStack g).regs = [] →
        noStackWaiter s g (s.siteKey v.part w) v.size →
        (∀ i i', i < v.size → i' < v.size → s.siteKey v.part w i = s.siteKey v.part w i' → i = i') →
        ∃ t, exec (.timedStoreVisible k) s = .next t ∧ t.vis = s.vis.eraseIdx k ∧
          (∀ i, i < v.size → t.byte (s.siteKey v.part w i) = BitVec.ofNat 8 (v.data.toNat / 256 ^ i)) ∧
          (∀ b, (∀ i, i < v.size → b ≠ s.siteKey v.part w i) → t.byte b = s.byte b)))

-- events: synchronisation objects and atomics (R166-R168, R180, R292, R332)

/-- R166-R168: an acquire of a stack object whose page needs no walk or can be walked now, and that comes to an engine with no other request is granted with the word's VALUE when nothing waits
for the object and its form admits the word, and joins the wait list otherwise. The scan of an object whose first waiter can be granted
grants it. An acquire or BMODE entry that a trap or stop cancels leaves its list, and its unit waits no more; without one it stays. -/
def Obligations.AcquiresAreGrantedInOrder : Prop :=
  ∀ (s : State) (u : Nat),
    let x := s.getUnit u
    (∀ form a thr t g, x.wait = .acquire form a thr → 2 ^ 56 ≤ a.toNat → a.toNat < 2 ^ 57 → arrives s u a 8 →
      s.translate x.part (nodeOf a) (offOf a) 8 .rw = .ok t →
      let filled := s.fill x.part (nodeOf a) (offOf a)
      filled.translate x.part (nodeOf a) (offOf a) 8 .rw = .ok t → filled.walkHeld x.part (nodeOf a) (offOf a) = false →
      t.home = .stack g → meets s x.part u (.atomic u) false t 8 → (s.getStack g).aeReqs = [] →
      (∀ w ∈ (s.getStack g).waiters, w.loc ≠ s.siteBase x.part t) → unlogged s x.part x.firing.lid →
      let word := s.read (s.siteBase x.part t) 8
      (grants form thr word → ∃ r, exec (.acquireRequest u) s = .next r ∧
        unitIs s r u { x with wait := .value (BitVec.ofNat 64 (word.toNat % 2 ^ 48)) } ∧
        r.read (s.siteBase x.part t) 8 = afterGrant form word ∧
        (∀ k, k < s.siteBase x.part t ∨ s.siteBase x.part t + 8 ≤ k → r.byte k = s.byte k)) ∧
      (¬ grants form thr word → (s.getStack g).waiters.length < 1024 → ∃ r, exec (.acquireRequest u) s = .next r ∧ r.mem = s.mem ∧
        unitIs s r u { x with wait := .parked a } ∧
        (r.getStack g).waiters = (s.getStack g).waiters ++
          [{ src := u, form := form, loc := s.siteBase x.part t, addr := a, part := x.part, thr := thr, lid := x.firing.lid,
             name := siteAddr t }])) ∧
    (∀ c w rest, c < 128 → (∀ d, d < c → (s.getCluster d).waiters = []) → (s.getCluster c).waiters = w :: rest → (∀ v ∈ rest, v.loc ≠ w.loc) →
      unlogged s w.part w.lid →
      (grants w.form w.thr (s.read w.loc 8) → ∃ r, exec (.objectGrant 0) s = .next r ∧
        unitIs s r w.src { s.getUnit w.src with wait := .value (BitVec.ofNat 64 ((s.read w.loc 8).toNat % 2 ^ 48)) } ∧
        r.read w.loc 8 = afterGrant w.form (s.read w.loc 8) ∧ (r.getCluster c).waiters = rest) ∧
      (¬ grants w.form w.thr (s.read w.loc 8) → ∃ r, exec (.objectGrant 0) s = .next r ∧ r.mem = s.mem ∧ (r.getCluster c).waiters = w :: rest)) ∧
    (s.breaks u = false → exec (.acquireCancel u) s = .next s) ∧
    (∀ g c, s.breaks u = true → x.wait = .bmode g c → ∃ r, exec (.acquireCancel u) s = .next r ∧ unitIs s r u { x with wait := .none } ∧
      (r.getStack g).entering = (s.getStack g).entering.filter (fun e => e.2.2 != u)) ∧
    (∀ a c w, s.breaks u = true → x.wait = .parked a → c < 128 →
      (∀ d, d < c → (s.getCluster d).waiters = [] ∧ ∀ r ∈ (s.getCluster d).aeReqs, r.src ≠ u) → (s.getCluster c).waiters = [w] → w.src = u →
      ∃ r, exec (.acquireCancel u) s = .next r ∧ unitIs s r u { x with wait := .none } ∧ (r.getCluster c).waiters = [] ∧ r.mem = s.mem)

/-- R180, R174, R292, R332: an atomic engine applies the one request before it and answers its requester: the word becomes the operation's
result, the old value goes to a returning atomic's unit, and every other byte is as before. A request whose translation has come to lead
to another stack goes on to that stack's engine. With no request, nothing happens. -/
def Obligations.AtomicEnginesApplyARequest : Prop :=
  ∀ (s : State) (c : Nat),
    (c < 128 → (s.getCluster c).aeReqs = [] → exec (.atomicEngineGrant c) s = .next s) ∧
    (c < 8 → (s.getStack c).aeReqs = [] → exec (.stackAtomicGrant c) s = .next s) ∧
    (∀ r core off, c < 128 → (s.getCluster c).aeReqs = [r] → r.returning = true → r.posted = none → r.wide = true → unlogged s r.part r.lid →
      r.op ∈ [AOp.add, .and, .or, .xor, .swap] → isCore r.src = true → r.addr.toNat < 0x80000 → r.addr.toNat % 8 = 0 → core = r.src → off = r.addr.toNat →
      core / 16 = c → s.isState core off = false → noWaiter s core off 8 → awake s r.part → s.dueOver (scratchKey core off) 8 = false →
      let old := s.read (scratchKey core off) 8
      let new := match r.op with
        | .add => int (old.toInt + r.b.toInt)
        | .and => old &&& r.b
        | .or => old ||| r.b
        | .xor => old ^^^ r.b
        | _ => r.b
      ∃ t, exec (.atomicEngineGrant c) s = .next t ∧ unitIs s t r.src { s.getUnit r.src with wait := .value old } ∧
        t.read (scratchKey core off) 8 = new ∧ (∀ k, k < scratchKey core off ∨ scratchKey core off + 8 ≤ k → t.byte k = s.byte k) ∧
        (t.getCluster c).aeReqs = []) ∧
    (∀ r f, c < 8 → (s.getStack c).aeReqs = [r] → r.returning = true → r.posted = none → unlogged s r.part r.lid → isCore r.src = true →
      2 ^ 56 ≤ r.addr.toNat → r.addr.toNat < 2 ^ 57 → s.walkHeld r.part (nodeOf r.addr) (offOf r.addr) = false →
      s.translate r.part (nodeOf r.addr) (offOf r.addr) (aSize r) .rw = .error f → f.cause ≠ 3 →
      ∃ t, exec (.stackAtomicGrant c) s = .next t ∧
        unitIs s t r.src { s.getUnit r.src with wait := .refusal f.cause f.sub (failTval f (nodeOf r.addr) r.addr) } ∧ t.mem = s.mem ∧
        (t.getStack c).aeReqs = []) ∧
    (∀ r w g, c < 8 → (s.getStack c).aeReqs = [r] → r.returning = true → r.posted = none → unlogged s r.part r.lid → isCore r.src = true →
      (∀ f n, r.op ≠ .acquire f n) → (∀ v, r.op ≠ .release v) →
      2 ^ 56 ≤ r.addr.toNat → r.addr.toNat < 2 ^ 57 → s.walkHeld r.part (nodeOf r.addr) (offOf r.addr) = false →
      s.translate r.part (nodeOf r.addr) (offOf r.addr) (aSize r) .rw = .ok w → w.home = .stack g →
      meets s r.part r.src (.atomic r.src) false w (aSize r) →
      (g ≠ c → ∃ t, exec (.stackAtomicGrant c) s = .next t ∧ t.mem = s.mem ∧ (∀ v, t.getUnit v = s.getUnit v) ∧ (t.getStack c).aeReqs = [] ∧
        (t.getStack g).aeReqs = (s.getStack g).aeReqs ++ [r]) ∧
      (g = c → (s.getStack g).regs = [] → noStackWaiter s g (s.siteKey r.part w) (aSize r) →
        (∀ i i', i < aSize r → i' < aSize r → s.siteKey r.part w i = s.siteKey r.part w i' → i = i') →
        let old := BitVec.ofNat 64 (natOfBytes ((List.range (aSize r)).map (fun i => s.byte (s.siteKey r.part w i))))
        ∃ t, exec (.stackAtomicGrant c) s = .next t ∧ unitIs s t r.src { s.getUnit r.src with wait := .value old } ∧
          (∀ i, i < aSize r → t.byte (s.siteKey r.part w i) = BitVec.ofNat 8 ((atomicNew r old).toNat / 256 ^ i)) ∧
          (∀ k, (∀ i, i < aSize r → k ≠ s.siteKey r.part w i) → t.byte k = s.byte k)))

-- events: the engines (R274, R279-R290, R325-R328)

namespace Sys2Proof.Claim
/-- Bytes of a span of some core's scratchpad. -/
def spadBytes (s : State) (u a n : Nat) : List Byte := (List.range n).map (fun i => s.byte (scratchKey u (a + i)))
/-- Bytes from k on hold bs and every byte outside the listed spans (start, length) is as before. -/
def holds (t : State) (k : Nat) (bs : List Byte) : Prop := ∀ i, i < bs.length → t.byte (k + i) = bs.getD i 0
def onlySpans (s t : State) (spans : List (Nat × Nat)) : Prop := ∀ k, (∀ p ∈ spans, k < p.1 ∨ p.1 + p.2 ≤ k) → t.byte k = s.byte k
/-- No bank of a core's scratchpad has the format STATE. -/
def noState (s : State) (u : Nat) : Prop := ∀ a, s.isState u a = false
/-- The operation at the head of a channel of cluster c. -/
def headOp (s : State) (c ch : Nat) (o : EOp) (rest : List EOp) : Prop := chanOf (s.getCluster c) ch = o :: rest
/-- Elements i to i + n - 1 of a run fill whole bytes of the scratchpads of cores u and v, which have no STATE bank, no waiting acquire and no
due timed store there; the source is not beyond its scratchpad, and no state word would be converted. -/
def runFits (s : State) (r : CopyRun) (u v i n : Nat) : Prop :=
  r.first ≤ i ∧ i + n ≤ r.first + r.n ∧ noState s u ∧ noState s v ∧ elemBits r.f r.g % 8 = 0 ∧ elemBits r.g r.f % 8 = 0 ∧ r.sb % 8 = 0 ∧
  r.db % 8 = 0 ∧ r.sb / 8 + (i + n - r.first) * (elemBits r.f r.g / 8) ≤ 0x80000 ∧
  noWaiter s v (r.db / 8 + (i - r.first) * (elemBits r.g r.f / 8)) (n * (elemBits r.g r.f / 8)) ∧
  s.dueOver (scratchKey v (r.db / 8 + (i - r.first) * (elemBits r.g r.f / 8))) (n * (elemBits r.g r.f / 8)) = false ∧
  (r.f = 8 ∨ r.g = 8 → r.f = r.g ∨ r.f = 0 ∨ r.g = 0)
/-- Those elements of v's scratchpad are u's, converted where both formats are formats and differ (R91), and nothing else of memory differs. -/
def runMoved (s t : State) (r : CopyRun) (u v i n : Nat) : Prop :=
  let e := elemBits r.f r.g / 8
  let g := elemBits r.g r.f / 8
  (∀ j, i ≤ j → j < i + n →
    let x := natOfBytes (spadBytes s u (r.sb / 8 + (j - r.first) * e) e)
    natOfBytes (spadBytes t v (r.db / 8 + (j - r.first) * g) g) =
      if r.f ≠ r.g ∧ r.f ≠ 0 ∧ r.g ≠ 0 then (copyElem r.f r.g r.sat (BitVec.ofNat 32 x)).toNat % 2 ^ elemBits r.g r.f else x) ∧
  onlySpans s t [(scratchKey v (r.db / 8 + (i - r.first) * g), n * g)]
end Sys2Proof.Claim

/-- R279, R284, R89, R91: the head of a channel moves its elements that are still to be done, part by part, in the model those that the
agenda's entry chooses, else the lowest one (notes/assumptions/14, 42): with both ends in
scratchpads of its cluster, a copy's elements go over run by run, each converted by the formats of the banks it lies in. CSRWALK first
reads its two row pointers; with an extent outside MAXE it fails and writes nothing, else it copies the column indexes and the values of
its rows and, with DPTR, the row pointers less the first. No other byte of memory changes. -/
def Obligations.TransfersMoveTheirBytes : Prop :=
  ∀ (s : State) (c ch : Nat) (o : EOp) rest, headOp s c ch o rest → o.fail = none → awake s o.part →
    let i := s.decided 0 ((nextElem o).getD 0)
    let n := s.decided 1 1
    let moved := fun (t : State) => headOp t c ch { o with done := o.done ++ [(i, n)] } rest
    (∀ k, toDo o i n = false → (o.kind = .copy k → exec (.copy c ch) s = .next s) ∧ (o.kind = .copyt k → exec (.copyt c ch) s = .next s)) ∧
    (∀ k u a v b r, (o.kind = .copy k ∨ o.kind = .copyt k) → s.windowCore o.part c k.src = some (u, a) → s.windowCore o.part c k.dst = some (v, b) →
      toDo o i n = true → r ∈ copyRuns k → runFits s r u v i n →
      ∃ t, (o.kind = .copy k → exec (.copy c ch) s = .next t) ∧ (o.kind = .copyt k → exec (.copyt c ch) s = .next t) ∧
        runMoved s t r u v i n ∧ moved t) ∧
    (∀ w u1 a1, o.kind = .csrwalk w → s.windowCore o.part c w.rowptr = some (u1, a1) →
      let word := fun (k : Nat) => readNat s.mem (scratchKey u1 (a1 + 4 * k)) 4
      (w.rows = none →
        let p0 := word w.row0
        let p1 := word (w.row0 + w.nrows)
        (p1 < p0 ∨ w.maxe < p1 - p0 → ∃ t, exec (.csrwalk c ch) s = .next t ∧ t.mem = s.mem ∧
          headOp t c ch { o with done := [(0, opSize o.kind)], fail := some { cause := openCause, sub := 0, addr := w.rowptr, progress := 0 } } rest) ∧
        (p0 ≤ p1 → p1 - p0 ≤ w.maxe → ∃ t, exec (.csrwalk c ch) s = .next t ∧ t.mem = s.mem ∧
          headOp t c ch { o with kind := .csrwalk { w with rows := some (p0, p1) } } rest)) ∧
      (∀ p0 p1, w.rows = some (p0, p1) → toDo o i n = true →
        let m := p1 - p0
        let granted := fun (flag : Bool) (src : Word) (lo len : Nat) => flag = true → ∀ lc k b, s.logCluster o.part c = some lc →
          classify false src = .window k b → s.grantedRange o.part lc (0x800000 + k * 0x80000 + lo) len true false = true
        (∀ u a v b, s.windowCore o.part c w.colidx = some (u, a) → s.windowCore o.part c w.didx = some (v, b) → i + n ≤ m →
          granted w.cwin w.colidx (a + 4 * (p0 + i)) (4 * n) →
          let r : CopyRun := { first := 0, n := m, sb := 8 * (a + 4 * p0), db := 8 * b, f := 6, g := 6, sat := false }
          runFits s r u v i n → ∃ t, exec (.csrwalk c ch) s = .next t ∧ runMoved s t r u v i n ∧ moved t) ∧
        (∀ u a v b r, s.windowCore o.part c w.vals = some (u, a) → s.windowCore o.part c w.dval = some (v, b) → m ≤ i → i + n ≤ 2 * m →
          let k := walkValues w
          r ∈ copyRunsGo k.1 258 0 m (8 * a + k.2) (8 * b) → runFits s r u v (i - m) n →
          granted w.vwin w.vals (r.sb / 8 + (i - m - r.first) * (elemBits r.f r.g / 8)) (n * (elemBits r.f r.g / 8)) →
          ∃ t, exec (.csrwalk c ch) s = .next t ∧ runMoved s t r u v (i - m) n ∧ moved t) ∧
        (∀ v b, s.windowCore o.part c w.dptr = some (v, b) → 2 * m ≤ i → noState s v →
          a1 + 4 * (w.row0 + (i - 2 * m) + n) ≤ 0x80000 → noWaiter s v (b + 4 * (i - 2 * m)) (4 * n) → noState s u1 →
          s.dueOver (scratchKey v (b + 4 * (i - 2 * m))) (4 * n) = false →
          ∃ t, exec (.csrwalk c ch) s = .next t ∧ onlySpans s t [(scratchKey v (b + 4 * (i - 2 * m)), 4 * n)] ∧ moved t ∧
            (∀ j, j < n → readNat t.mem (scratchKey v (b + 4 * (i - 2 * m + j))) 4
              = (BitVec.ofNat 32 (word (w.row0 + (i - 2 * m) + j)) - BitVec.ofNat 32 p0).toNat))))

/-- R274, R286, R287, R289, R290: a chunk all of whose elements are done is signalled once, to its barrier (PENDING falls by its bytes) or its
bitmap bit, and sets the core's latch; a bit takes its chunk out of the lock on the destination, and once every write is performed all the
operation's locks go with the signal; an operation all of whose elements are done and whose chunks are signalled leaves its queue,
releases its locks, adds one to its semaphore and counts as finished; one that has failed leaves with FAULT on its semaphore, EFAULT on
its core and a record on the terminal ring. -/
def Sys2Proof.Claim.EngineOperationsSignalAndEnd : Prop :=
  ∀ (s : State) (c ch i : Nat) (o : EOp) rest, headOp s c ch o rest → awake s o.part →
    (∀ k u, (o.kind = .copy k ∨ o.kind = .copyt k) → o.fail = none → o.cmpl = 2 ∨ o.cmpl = 3 → s.coreOf o.part c o.ccore = some u →
      let due := i < chunksOf o.kind ∧ i ∉ o.told ∧ chunkDone o i = true
      let len := min 512 (dstSpan k - 512 * i)
      let bar := (look word0 (s.getUnit u).eng.bars o.cidx).toNat
      (¬ due → exec (.chunkComplete c ch i) s = .next s) ∧
      (due → ∃ t, exec (.chunkComplete c ch i) s = .next t ∧ t.mem = s.mem ∧ headOp t c ch { o with told := o.told ++ [i] } rest ∧
        (t.getUnit u).latch = true ∧
        (o.cmpl = 3 → len ≤ bar % 2 ^ 40 → look word0 (t.getUnit u).eng.bars o.cidx = BitVec.ofNat 64 (bar - len)) ∧
        (o.cmpl = 3 → bar % 2 ^ 40 < len → look word0 (t.getUnit u).eng.bars o.cidx =
          BitVec.ofNat 64 (2 ^ 63 + 2 ^ 40 * min (2 ^ 23 - 1) (bar / 2 ^ 40 % 2 ^ 23 + len - bar % 2 ^ 40))) ∧
        (allDone o = true → (t.getCluster c).locks = (s.getCluster c).locks.filter (fun l => !ownLock o l)) ∧
        (o.cmpl = 3 → allDone o = false → (t.getCluster c).locks = (s.getCluster c).locks) ∧
        (o.cmpl = 2 → look word0 (t.getUnit u).eng.cbms o.cidx = look word0 (s.getUnit u).eng.cbms o.cidx ||| BitVec.ofNat 64 (2 ^ (k.cbase + i)) ∧
          (allDone o = false → (t.getCluster c).locks = (s.getCluster c).locks.map (fun l =>
            if ownLock o l && l.dst then { l with cuts := l.cuts ++ [(512 * i, len)] } else l))))) ∧
    (o.fail = none → started o = true →
      let ended := allDone o = true ∧ (o.cmpl = 2 ∨ o.cmpl = 3 → ∀ k, k < chunksOf o.kind → k ∈ o.told)
      (¬ ended → exec (.engineOpComplete (.chan c ch)) s = .next s) ∧
      (ended → ∃ t, exec (.engineOpComplete (.chan c ch)) s = .next t ∧ t.mem = s.mem ∧ chanOf (t.getCluster c) ch = rest ∧
        (t.getCluster c).locks = (s.getCluster c).locks.filter (fun l => !ownLock o l) ∧
        (o.cmpl = 1 → let w := (look word0 (s.getCluster c).sems o.cidx)
          look word0 (t.getCluster c).sems o.cidx = semWord w.msb (min (2 ^ 32 - 1) (w.toNat % 2 ^ 32 + 1))) ∧
        (∀ u, o.src = some u → o.seq = (s.getUnit u).eng.finished + 1 → (s.getUnit u).eng.early = [] →
          (t.getUnit u).eng.finished = (s.getUnit u).eng.finished + 1 ∧ (t.getUnit u).eng.efault = (s.getUnit u).eng.efault ∧ (t.getUnit u).latch = true))) ∧
    (∀ f, o.fail = some f → allDone o = true → nextElem o = none → f.cause < 256 → f.cause ≠ 3 → (∀ l f d v b w, o.kind ≠ .reduce l f d v b w) →
      ∃ t r, exec (.engineOpFaulted (.chan c ch)) s = .next t ∧ t.mem = s.mem ∧ chanOf (t.getCluster c) ch = rest ∧
      (t.getCluster c).locks = (s.getCluster c).locks.filter (fun l => !ownLock o l) ∧
      (t.getPart o.part).terminal.waiting = (s.getPart o.part).terminal.waiting ++ [r] ∧ r.cause = f.cause ∧ r.sub = f.sub ∧ r.addr = f.addr ∧
      r.kind = 2 ∧ r.time = (s.atimeOf (c / 32)).toNat ∧
      (o.cmpl = 1 → look word0 (t.getCluster c).sems o.cidx = semWord true ((look word0 (s.getCluster c).sems o.cidx).toNat % 2 ^ 32)) ∧
      (∀ u, o.src = some u → (t.getUnit u).eng.efault = true))

/-- R282, R394: a store of the owner's to a granted copy aperture starts its template's copy on that channel while the channel and the lock table
have room, another host's is discarded; a malformed start queues nothing and posts ILLEGAL-COMMAND 6 to the terminal ring. -/
def Sys2Proof.Claim.AperturesStartTemplates : Prop :=
  ∀ (s : State) (c part ch lc : Nat) (v : Word), s.logCluster part c = some lc → ch < 8 →
    s.grantedRange part lc (0x1004000 + 8 * ch) 8 false true = true →
    let t := v.toNat % 64
    let iter := v.toNat / 2 ^ 16 % 2 ^ 32
    let csem := v.toNat / 2 ^ 56 % 128
    let shape := v.toNat / 2 ^ 63 = 0 ∧ v.toNat / 2 ^ 48 % 256 = 0 ∧ v.toNat / 64 % 2 ^ 10 = 0 ∧ csem ≤ 64
    let made := s.formTempl part c none (if csem = 0 then 0 else 1) t 0 0 iter
    let owned := s.ownerLink (s.decided 0 s.ringLink) = true
    (¬ owned → exec (.apertureStart c part ch v) s = .next s) ∧
    (owned → ¬ shape ∨ made = none → ∃ t r, exec (.apertureStart c part ch v) s = .next t ∧
      (t.getPart part).terminal.waiting = (s.getPart part).terminal.waiting ++ [r] ∧ r.cause = 0x13 ∧ r.sub = 6 ∧ r.unit = 0xC000 + ch ∧
      r.time = (s.atimeOf (c / 32)).toNat ∧ t.mem = s.mem ∧ t.clusters = s.clusters) ∧
    (∀ k, owned → shape → made = some k → (chanOf (s.getCluster c) ch).length < 16 → (s.getCluster c).locks.length ≤ 62 →
      ∃ t o, exec (.apertureStart c part ch v) s = .next t ∧ chanOf (t.getCluster c) ch = chanOf (s.getCluster c) ch ++ [o] ∧ o.kind = .copyt k ∧
        o.src = none ∧ o.part = part ∧ o.done = [] ∧ o.fail = none ∧ o.cmpl = (if csem = 0 then 0 else 1) ∧ (0 < csem → o.cidx = csem - 1) ∧ t.mem = s.mem)

/-- R285, R325-R328: at the head of a stack's queue, SWREG enters its region when it fits the table, and fails otherwise; then it evaluates
its words one after another (in the model as many in a step as the agenda's entry chooses; notes/assumptions/14), and leaves the table again at one that does not translate. Unregistering removes exactly that region and
its words' Rooster entries. REDUCE writes each element as the tree of its sources' elements, FP32 by ADD32, in pairs of sources. -/
def Obligations.StackEnginesRun : Prop :=
  ∀ (s : State) (g i : Nat) (o : EOp) rest, o.fail = none →
    (∀ base n, awake s o.part → (s.getStack g).swq = o :: rest → o.kind = .swreg base n true →
      let r : SwReg := { part := o.part, base := base, nwords := n }
      let failed := fun (f : EFail) => { o with fail := some f } :: rest
      (o.entered = false → regFits (s.getStack g).regs o.part base n = false → ∃ t, exec (.swregRegister g) s = .next t ∧ t.mem = s.mem ∧
        (t.getStack g).regs = (s.getStack g).regs ∧ (t.getStack g).swq = failed { cause := openCause, sub := 0, addr := base, progress := 0 }) ∧
      (o.entered = false → regFits (s.getStack g).regs o.part base n = true → ∃ t, exec (.swregRegister g) s = .next t ∧ t.mem = s.mem ∧
        (t.getStack g).regs = (s.getStack g).regs ++ [r] ∧ (t.getStack g).swq = { o with entered := true } :: rest) ∧
      (o.entered = true → nextElem o = some i → s.decided 0 1 = 1 →
        let a := base + BitVec.ofNat 64 (16 * i)
        let e := EngineQueue.swreg g
        s.rangesServe e o.part [(a, 16)] = true →
        (∀ f, s.translate o.part (nodeOf a) (offOf a) 16 .rw = .error f → ∃ t, exec (.swregRegister g) s = .next t ∧ t.mem = s.mem ∧
          (t.getStack g).regs = (s.getStack g).regs.erase r ∧
          (t.getStack g).swq = failed { cause := f.cause, sub := f.sub, addr := a, progress := progressOf o }) ∧
        (∀ w, s.translate o.part (nodeOf a) (offOf a) 16 .rw = .ok w →
          match (s.dropTickets e o.part [(a, 16)]).evalRaw o.lid { l := 4096 + g, part := o.part, addr := a, key := s.siteBase o.part w } with
          | none => exec (.swregRegister g) s = .next s
          | some u => ∃ t, exec (.swregRegister g) s = .next t ∧ t.mem = u.mem ∧ (t.getStack g).regs = (s.getStack g).regs ∧
            (t.getStack g).swq = { o with done := o.done ++ [(i, 1)] } :: rest))) ∧
    (∀ base n, awake s o.part → (s.getStack g).swq = o :: rest → o.kind = .swreg base n false → allDone o = false →
      let r : SwReg := { part := o.part, base := base, nwords := n }
      (r ∉ (s.getStack g).regs → ∃ t, exec (.swregUnregister g) s = .next t ∧ t.mem = s.mem ∧ (t.getStack g).regs = (s.getStack g).regs ∧
        (t.getStack g).swq = { o with fail := some { cause := openCause, sub := 0, addr := base, progress := 0 } } :: rest) ∧
      (r ∈ (s.getStack g).regs → ∃ t, exec (.swregUnregister g) s = .next t ∧ t.mem = s.mem ∧ (t.getStack g).regs = (s.getStack g).regs.erase r ∧
        (∀ e ∈ (t.getLaw (4096 + g)).rooster, e.part = o.part → e.addr.toNat < base.toNat ∨ base.toNat + 16 * n ≤ e.addr.toNat) ∧
        (t.getStack g).swq = { o with done := [(0, n)] } :: rest)) ∧
    (∀ len fmt srcs dst obj v, (s.getStack g).redq = o :: rest → o.kind = .reduce len fmt srcs dst obj v →
      s.decided 0 ((nextElem o).getD 0) = i → s.decided 1 1 = 1 →
      let b := if fmt = 2 then 2 else 4
      let elem := fun (a : Word) => a + BitVec.ofNat 64 (b * i)
      let d := elem dst
      let whole := fun (a : Word) => (elem a).toNat % b = 0 ∧ s.fill o.part (nodeOf (elem a)) (offOf (elem a)) = s
      (toDo o i 1 = false → exec (.reduce g) s = .next s) ∧
      (∀ (site : Word → Site) w gd, toDo o i 1 = true → s.rangesServe (.red g) o.part ((dst :: srcs).map (fun a => (elem a, b))) = true →
        (∀ a ∈ srcs, whole a ∧ s.translate o.part (nodeOf (elem a)) (offOf (elem a)) b .r = .ok (site a) ∧ ∃ h, (site a).home = .stack h) →
        whole dst → s.translate o.part (nodeOf d) (offOf d) b .w = .ok w → w.home = .stack gd → (s.getStack gd).regs = [] →
        noStackWaiter s gd (s.siteKey o.part w) b → s.dueOver (s.siteBase o.part w) b = false → (∀ j k, j < b → k < b → s.siteKey o.part w j = s.siteKey o.part w k → j = k) →
        let vals := srcs.map (fun a => natOfBytes ((List.range b).map (fun j => s.byte (s.siteKey o.part (site a) j))))
        ∃ t, exec (.reduce g) s = .next t ∧ (t.getStack g).redq = { o with done := o.done ++ [(i, 1)] } :: rest ∧
          (∀ j, j < b → t.byte (s.siteKey o.part w j) = BitVec.ofNat 8 (redElem fmt vals / 256 ^ j)) ∧
          (∀ k, (∀ j, j < b → k ≠ s.siteKey o.part w j) → t.byte k = s.byte k))) ∧
    (∀ a b c d : BitVec 32, redElem 1 [a.toNat] = a.toNat ∧ redElem 1 [a.toNat, b.toNat] = (fadd a b).toNat ∧
      redElem 1 [a.toNat, b.toNat, c.toNat] = (fadd (fadd a b) c).toNat ∧
      redElem 1 [a.toNat, b.toNat, c.toNat, d.toNat] = (fadd (fadd a b) (fadd c d)).toNat)

-- events: the law units and their tables (R199-R214, R313)

namespace Sys2Proof.Claim
/-- The entry of word w for its next crossing under REARM, the (k + 1)-th counted from its arming (R208, R210): GEN is one more. -/
def nextEntry (w : WordAt) (e : LawEntry) (v : Sw) (r : Rooster) : Rooster :=
  let unit := r.armed + ((r.dist + r.k * 2 ^ 32 + r.rate - 1) / r.rate : Nat)
  { part := w.part, addr := w.addr, idx := v.alarm, gen := v.gen + 1, due := if e.step then unit else unit * 2 ^ e.shift,
    ctr := if e.step then some e.ctr else none, k := r.k + 1, dist := r.dist, rate := r.rate, armed := r.armed }
/-- The word w has no Rooster entry at law unit l. -/
def noEntry (t : State) (l : Nat) (w : WordAt) : Prop := ∀ q ∈ (t.getLaw l).rooster, ¬ (q.part = w.part ∧ q.addr = w.addr)
end Sys2Proof.Claim

/-- R209-R214: a due Rooster entry whose word, of a core or of a stack, is armed, unfired, of its GEN and evaluable posts the crossing once, with
R211's payload: the word's address, the due unit, the coordinate advanced to it, its OBS, the cookie, and the alarm's index, GEN and LATE. The
word is FIRED and the entry goes; under REARM with SEL = 1 the word gets the next GEN instead and the entry of the next crossing. Any other due
entry is discarded; one that is not due waits, as one does whose post queue is full or whose word's page cannot be reached yet. The sweep
re-bases an unarmed word without changing its course. The head of a post queue leaves for its target core, for the pen of a suspended partition,
or, with its target gone from the maps, for the terminal ring. (That a word whose threshold entry has VALID = 0 is not evaluated is
notes/assumptions/90's choice, that an entry whose word does not translate is discarded notes/assumptions/92's.) -/
def Obligations.LawUnitsPostAndSweep : Prop :=
  ∀ (s : State) (l k : Nat),
    (∀ p a, l < 4096 → s.wordBusy l p a = false ∧ s.wordAt l p a = some { l := l, part := p, addr := a, key := scratchKey l (offOf a % 0x80000) }) ∧
    (∀ r, (s.getLaw l).rooster[k]? = some r →
      let room := (s.getLaw l).posts.length < 16
      let reached := s.wordBusy l r.part r.addr = false
      let gone := ∃ t, exec (.roosterDue l k) s = .next t ∧ t.mem = s.mem ∧ (t.getLaw l).rooster = (s.getLaw l).rooster.eraseIdx k ∧
        (t.getLaw l).posts = (s.getLaw l).posts
      (s.roosterIsDue l r = false ∨ ¬ room ∨ ¬ reached → exec (.roosterDue l k) s = .next s) ∧
      (s.roosterIsDue l r = true → room → reached → s.wordAt l r.part r.addr = none → gone) ∧
      (∀ w, s.roosterIsDue l r = true → room → reached → s.wordAt l r.part r.addr = some w →
        let v := s.wordOf w
        let e := s.lawEntry r.part v.law
        let th := s.thrEntry l r.part v.alarm
        let live := v.armed = true ∧ v.fired = false ∧ v.gen = r.gen ∧ e.valid = true ∧ v.top = false ∧ th.valid = true
        let tc := if e.step then r.due else r.due / 2 ^ e.shift
        let t0 := s.nowu l r.part e
        let c := advance e v.coord (tc - ((t0 : Int) - ((t0 + 2 ^ 40 - v.stamp) % 2 ^ 40 : Nat))).toNat
        (¬ live → gone) ∧
        (live → ∃ t p, exec (.roosterDue l k) s = .next t ∧ (t.getLaw l).posts = (s.getLaw l).posts ++ [p] ∧ onlySpans s t [(w.key, 16)] ∧
          p.dest = th.core ∧ p.msg.kind = 3 ∧ p.msg.part = r.part ∧ p.msg.hpc = th.hpc ∧ p.msg.lid = th.lid ∧
          (l < 4096 → p.msg.onode = s.originNode r.part l ∧ p.msg.ounit = s.cidOf r.part l) ∧ (4096 ≤ l → p.msg.ounit = 0x20) ∧
          p.msg.pay = [r.addr, BitVec.ofInt 64 (if e.step then tc else tc * 2 ^ e.shift), c, obs e c, th.cookie,
            BitVec.ofNat 64 (v.alarm + v.gen.toNat * 2 ^ 8 + (if r.late then 2 ^ 10 else 0) + (if e.step then 2 ^ 16 else 0))] ∧
          (v.rearm = false ∨ th.sel = false → t.wordOf w = { v with fired := true } ∧ noEntry t l w) ∧
          (v.rearm = true → th.sel = true → s.roosterOf w = some r → t.wordOf w = { v with gen := v.gen + 1 } ∧
            (t.getLaw l).rooster = (s.getLaw l).rooster.filter (fun q => !(q.part == r.part && q.addr == r.addr)) ++ [nextEntry w e v r])))) ∧
    (∀ p a i, s.sweepWord l = some (p, a, i) →
      (s.wordBusy l p a = true → exec (.sweepVisit l) s = .next s) ∧
      (∀ w, s.wordBusy l p a = false → s.wordAt l p a = some w →
        let v := s.wordOf w
        let e := s.lawEntry p v.law
        let t0 := s.nowu l p e
        v.armed = false → v.top = false → e.valid = true → s.swapped w = false →
        ∃ t, exec (.sweepVisit l) s = .next t ∧ (t.getLaw l).sweep = i ∧
          t.wordOf w = { v with coord := advance e v.coord ((t0 + 2 ^ 40 - v.stamp) % 2 ^ 40), stamp := t0 % 2 ^ 40 } ∧
          onlySpans s t [(w.key, 16)])) ∧
    (∀ q rest, (s.getLaw l).posts = q :: rest →
      let d := s.destUnit q.msg.part (.core q.dest)
      let f : Flight := { src := 8192 + l, dst := d.getD 0, dest := .core q.dest, msg := q.msg }
      ∃ t, exec (.alarmPost l) s = .next t ∧ (t.getLaw l).posts = rest ∧ t.mem = s.mem ∧
        (¬ awake s q.msg.part → t.flights = s.flights ∧ t.pens.flights = s.pens.flights ++ [f]) ∧
        (awake s q.msg.part → d ≠ none → t.flights = s.flights ++ [f]) ∧
        (awake s q.msg.part → d = none → q.msg.kind = 3 → t.flights = s.flights ∧ ∃ r,
          (t.getPart q.msg.part).terminal.waiting = (s.getPart q.msg.part).terminal.waiting ++ [r] ∧ r.cause = 5 ∧ r.kind = 3 ∧
          r.msg = some q.msg))

namespace Sys2Proof.Claim
/-- The four doublewords of entry i of a table are these. -/
def entryIs (m : SMap Word) (k : Nat) (v : List Word) : Prop := ∀ d, d < 4 → look word0 m (k + d) = v.getD d 0
def others4 (m m' : SMap Word) (k : Nat) : Prop := ∀ j, j < k ∨ k + 4 ≤ j → look word0 m' j = look word0 m j
end Sys2Proof.Claim

/-- R199, R201, R206, R313: in S mode a store to bytes 0-7 of a law or handler entry, or to bytes 24-31 of a threshold entry, whose check passes
commits the staged doublewords with it and retires; a failed check traps and changes nothing; a step counter takes a value that is not
below its present one and ignores a lower one; in U mode the law, threshold and handler tables trap LOCAL-PROTECTION. (That an entry is staged
once, for all cores of the partition, and stays staged after a commit is notes/assumptions/77's choice; the order of an entry's checks is
notes/assumptions/89's.) -/
def Obligations.TableStoresCommitOrTrap : Prop :=
  ∀ (s : State) (i : Fin 256) (h : Fin 64) (j : Fin 4096) (v : Word), isCore s.focus = true →
   (s.cur.priv = .u → exec (.lawTableCommit i v) s = raise s 2 (BitVec.ofNat 64 (0x1FD0000 + 32 * i.val)) ∧
      exec (.thresholdCommit none i v) s = raise s 2 (BitVec.ofNat 64 (0x1FD4000 + 32 * i.val + 24)) ∧
      exec (.handlerTableCommit h v) s = raise s 2 (BitVec.ofNat 64 (0x1FC0000 + 32 * h.val))) ∧
   (s.cur.priv ≠ .u →
    let p := s.getPart s.cur.part
    let stg := fun (d : Nat) => look word0 p.lawStg (4 * i.val + d)
    let hst := fun (d : Nat) => look word0 p.handlerStg (4 * h.val + d)
    let k := 4 * (256 * s.cur.part + i.val)
    let tst := fun (d : Nat) => look word0 (s.getLaw s.focus).stg (k + d)
    (lawCheck v (stg 1) (stg 2) (stg 3) = 0 → ∃ t, exec (.lawTableCommit i v) s = .next t ∧ t.cur = (s.retireN 1).cur ∧ t.mem = s.mem ∧
      entryIs (t.getPart s.cur.part).laws (4 * i.val) [v, stg 1, stg 2, stg 3] ∧ others4 p.laws (t.getPart s.cur.part).laws (4 * i.val)) ∧
    (∀ n, lawCheck v (stg 1) (stg 2) (stg 3) = n → n ≠ 0 → exec (.lawTableCommit i v) s = raise s 0x12 (BitVec.ofNat 64 n)) ∧
    (v &&& 0x7F00F000FFFFFFF9#64 = 0 → ¬ (v.getLsbD 2 = true ∧ v.getLsbD 1 = false) →
      ∃ t, exec (.thresholdCommit none i v) s = .next t ∧ t.cur = (s.retireN 1).cur ∧ t.mem = s.mem ∧
        entryIs (t.getLaw s.focus).thr k [tst 0, tst 1, tst 2, v] ∧ others4 (s.getLaw s.focus).thr (t.getLaw s.focus).thr k) ∧
    (∀ (n : Fin 8) g, s.physStack s.cur.part n.val = some g → v &&& 0x7F00F000FFFFFFF9#64 = 0 → ¬ (v.getLsbD 2 = true ∧ v.getLsbD 1 = false) →
      let st := fun (d : Nat) => look word0 (s.getLaw (4096 + g)).stg (k + d)
      ∃ t, exec (.thresholdCommit (some n) i v) s = .next t ∧ t.cur = (s.retireN 1).cur ∧ t.mem = s.mem ∧
        entryIs (t.getLaw (4096 + g)).thr k [st 0, st 1, st 2, v]) ∧
    (v &&& 0x7F00F000FFFFFFF9#64 ≠ 0 → exec (.thresholdCommit none i v) s = raise s 0x12 0x20) ∧
    (v &&& 0x7F00F000FFFFFFF9#64 = 0 → v.getLsbD 2 = true → v.getLsbD 1 = false → exec (.thresholdCommit none i v) s = raise s 0x12 0x23) ∧
    (handlerOk [v, hst 1, hst 2, hst 3] = true → ∃ t, exec (.handlerTableCommit h v) s = .next t ∧ t.cur = (s.retireN 1).cur ∧ t.mem = s.mem ∧
      entryIs (t.getPart s.cur.part).handlers (4 * h.val) [v, hst 1, hst 2, hst 3]) ∧
    (handlerOk [v, hst 1, hst 2, hst 3] = false → exec (.handlerTableCommit h v) s = raise s 0x13 0x0E) ∧
    (∃ t, exec (.stepCounterWrite j v) s = .next t ∧ t.cur = (s.retireN 1).cur ∧ t.mem = s.mem ∧
      (look word0 (t.getPart s.cur.part).ctrs j.val).toNat = max v.toNat (look word0 p.ctrs j.val).toNat))

-- events: the banks (R301-R303, R306, R309, R316, R317)

namespace Sys2Proof.Claim
/-- One Bead's steps over its slice of a BF16 row, X in BF16 (R309). -/
def beadRow (x : SMap Byte) (row : Nat → Byte) (b e xoff : Nat) (acc : BitVec 32) : BitVec 32 :=
  let x16 := fun (o : Nat) => (look byte0 x (1024 * b + 32 * xoff + 2 * o)).toNat + 256 * (look byte0 x (1024 * b + 32 * xoff + 2 * o + 1)).toNat
  let w16 := fun (k : Nat) => (row (2 * k)).toNat + 256 * (row (2 * k + 1)).toNat
  (List.range (e / 16)).foldl (fun acc j => dotStep acc ((List.range 16).map (fun n => mulFp (unpack 8 7 (x16 (16 * j + n))) (unpack 8 7 (w16 (b * e + 16 * j + n)))))) acc
/-- No acquire waits for an object word on pseudo-channel c of stack g: the end of a burst there, which scans those words (R167, R333), grants
none. -/
def calm (s : State) (g c : Nat) : Prop := ∀ w ∈ (s.getStack g).waiters, w.loc / 256 % 128 ≠ c
end Sys2Proof.Claim

/-- R301, R302, R306, R309: the first waiting BMODE entry is granted once its stack is below CAP and no burst runs on its pseudo-channel, and told
1 or 2 when the pseudo-channel is taken meanwhile; a BMV at the head of its queue starts its burst in ALLBANK, and at its end each Bead's P
holds the running sum of its row after that Bead (BF16 by BF16, from +0), read at the frame found before its acceptance, the command is
gone and its semaphore counts up. (That BMODE entries wait in strict order over the whole stack, what one is told that finds its
pseudo-channel held, and that a command's frames are found before its acceptance are notes/assumptions/43's.) -/
def Obligations.BanksGrantAndRunBmv : Prop :=
  ∀ (s : State) (g c : Nat),
    let h := s.getPch g c
    let k := s.getStack g
    (∀ p u rest, k.entering = (c, p, u) :: rest →
      (h.allbank = false → s.belowCap g = true → h.burst = none → ∃ t, exec (.bmodeGrant g c) s = .next t ∧
        unitIs s t u { s.getUnit u with wait := .value 0 } ∧ (t.getStack g).entering = rest ∧ (t.getPch g c).allbank = true ∧
        (t.getPch g c).holder = some (s.holderName u) ∧ (t.getPch g c).x = [] ∧ (t.getPch g c).p = [] ∧ (t.getPch g c).retries = 0 ∧
        (t.getPch g c).fault = false ∧ t.mem = s.mem) ∧
      (h.allbank = true → ∃ t, exec (.bmodeGrant g c) s = .next t ∧ (t.getStack g).entering = rest ∧ t.getPch g c = h ∧
        unitIs s t u { s.getUnit u with wait := .value (if h.holder = some (s.holderName u) then 1 else 2) }) ∧
      (h.allbank = false → s.belowCap g = false ∨ h.burst ≠ none → exec (.bmodeGrant g c) s = .next s)) ∧
    (∀ b m d eb xm sd af wf rows xo sem rest, h.cmds = b :: rest → b.kind = .bmv m d eb xm sd af wf rows xo sem →
      (h.burst = none → s.windowOpen g c = false → h.allbank = true →
        exec (.bmvBurst g c) s = .next (s.setPch g c { h with burst := some (s.now, b.ord) })) ∧
      (h.burst = none → s.windowOpen g c = true ∨ h.allbank = false → exec (.bmvBurst g c) s = .next s) ∧
      (∀ n, rest = [] → h.burst = some (n, b.ord) → ∃ t, exec (.bmvBurst g c) s = .next t ∧ (calm s g c → t.mem = s.mem) ∧
        (t.getPch g c).p = s.runBmv g c b rows ∧ (t.getPch g c).cmds = [] ∧ (t.getPch g c).burst = none ∧
        (∀ i u, sem = some i → s.coreOf b.part (b.src / 16) (s.coreIndex b.part b.src) = some u →
          let w := look word0 (s.getCluster (b.src / 16)).sems i
          look word0 (t.getCluster (b.src / 16)).sems i = semWord w.msb (min (2 ^ 32 - 1) (w.toNat % 2 ^ 32 + 1)) ∧ (t.getUnit b.src).latch = true)) ∧
      (∀ t more r i, xm = false → sd = false → af = 0 → wf = 3 → b.frames = t :: more → r < rows → rows ≤ 64 → i < 16 →
        let n := 512 * 2 ^ lfRb t.leaf
        look lane0 (s.runBmv g c b rows) (64 * i + r) =
          (List.range (i + 1)).foldl (fun acc b' => beadRow h.x (fun j => s.byte (s.siteKey b.part t (r * n + j))) b' (n / 2 / 16) xo acc) 0))

/-- R302, R303, R315-R317: a piece of a BEXPR starts its burst, in ALLBANK or below CAP in its turn, and at its end has written its elements as
its handler and mode say, those of a REPLY handler nothing; the operators act on the stack as their table says. A request that meets a
burst gets a ticket and is sent again 256 ticks after each RETRY until it is served or gone; 4,096 ticks after a burst its window ends, and
that of a cluster's port 4,096 ticks after its core's partition has resumed (R364). A
Bead fault ends the running BMV FAULTED with cause 0x22 and FAULT set. (That the pieces follow each other by rising address is
notes/assumptions/44's, that a command keeps the frames it was accepted with notes/assumptions/43's.) -/
def Obligations.BurstsTicketsAndBexpr : Prop :=
  ∀ (s : State) (g c : Nat), g < 8 →
    let h := s.getPch g c
    (∀ b g0 c0 t n, s.pieceFor g c = some (g0, c0, b) → pieceOf b = some (t, n) →
      let open_ := s.windowOpen g c = false ∧ (h.allbank = true ∨ (s.belowCap g = true ∧ s.earlierPiece g b = false))
      (h.burst = none → open_ → exec (.bexprPiece g c) s = .next (s.setPch g c { h with burst := some (s.now, b.ord) })) ∧
      (h.burst = none → ¬ open_ → exec (.bexprPiece g c) s = .next s) ∧
      (h.burst ≠ none → (s.endBurst g c).runPiece b t n (fun _ => true) = none → exec (.bexprPiece g c) s = .next s) ∧
      (∀ a count hw reply sem next total gs, h.burst ≠ none → b.kind = .bexpr a count hw reply sem next total → (s.getPch g0 c0).cmds = [b] →
        t.home = .stack gs → (s.getStack gs).regs = [] →
        let hd := handlerNat hw
        let size := bexprSize (hFmt hd)
        let key := s.siteKey b.part t
        1 ≤ size → noStackWaiter s gs key (n * size) → calm s g c → (hMode hd < 2 → s.dueOver (key 0) (n * size) = false) → (∀ i i', i < n * size → i' < n * size → key i = key i' → i = i') →
        let old := fun (i : Nat) => natOfBytes ((List.range size).map (fun j => s.byte (key (i * size + j))))
        ∃ u, exec (.bexprPiece g c) s = .next u ∧ (u.getPch g c).burst = none ∧
          (next + n < count → (u.getPch g0 c0).cmds.map (·.kind) = [.bexpr a count hw reply sem (next + n)
            (((List.range n).map (fun i => (bexprElem hd (next + i) (BitVec.ofNat 32 (old i))).2)).foldl add32 total)]) ∧
          (count ≤ next + n → (u.getPch g0 c0).cmds = []) ∧
          (2 ≤ hMode hd → u.mem = s.mem) ∧
          (hMode hd < 2 → (∀ k, (∀ i, i < n * size → k ≠ key i) → u.byte k = s.byte k) ∧
            ∀ i j, i < n → j < size → u.byte (key (i * size + j)) =
              BitVec.ofNat 8 (((bexprElem hd (next + i) (BitVec.ofNat 32 (old i))).1.getD 0) / 256 ^ j)))) ∧
    (∀ (hd x idx : Nat) (a b d : BitVec 32) (st : List (BitVec 32)),
      let op := fun n st => evalOp hd (BitVec.ofNat 32 x) idx n st
      op 1 st = BitVec.ofNat 32 x :: st ∧ op 2 st = BitVec.ofNat 32 (hd / 2 ^ 160) :: st ∧ op 3 st = BitVec.ofNat 32 (hd / 2 ^ 192) :: st ∧
      op 4 st = BitVec.ofNat 32 (hd / 2 ^ 224) :: st ∧ op 5 st = ofInt32 idx :: st ∧ op 6 (a :: st) = a :: a :: st ∧ op 7 (b :: a :: st) = a :: b :: st ∧
      op 8 (a :: st) = st ∧ op 9 (b :: a :: st) = a :: b :: a :: st ∧ op 0x10 (b :: a :: st) = fadd a b :: st ∧ op 0x11 (b :: a :: st) = fsub a b :: st ∧
      op 0x12 (b :: a :: st) = fmul a b :: st ∧ op 0x13 (b :: a :: st) = fmax a b :: st ∧ op 0x14 (b :: a :: st) = fmin a b :: st ∧
      op 0x15 (d :: b :: a :: st) = fma32 a b d :: st ∧ op 0x18 (a :: st) = fneg a :: st ∧ op 0x19 (a :: st) = fabs a :: st ∧
      op 0x1A (a :: st) = exp2Lane a :: st ∧ op 0x1B (a :: st) = rcpLane a :: st ∧ op 0x1C (a :: st) = rsqLane a :: st ∧ op 0x1D (a :: st) = log2Lane a :: st ∧
      (fcmp .lt a b = true → op 0x20 (b :: a :: st) = 0x3F800000#32 :: st) ∧ (fcmp .lt a b = false → op 0x20 (b :: a :: st) = 0 :: st) ∧
      (fcmp .le a b = true → op 0x21 (b :: a :: st) = 0x3F800000#32 :: st) ∧ (fcmp .eq a b = true → op 0x22 (b :: a :: st) = 0x3F800000#32 :: st) ∧
      (d.toNat % 2 ^ 31 = 0 → op 0x23 (d :: b :: a :: st) = b :: st) ∧ (d.toNat % 2 ^ 31 ≠ 0 → op 0x23 (d :: b :: a :: st) = a :: st)) ∧
    (∀ r, s.request r = none → exec (.bankRetry r) s = .next s) ∧
    (∀ r src posted, s.request r = some ([(g, c)], src, posted) →
      (s.retries g c src r posted = true → s.ticketOf g r = none → s.overtakes g r = false → ∃ t, exec (.bankRetry r) s = .next t ∧ t.mem = s.mem ∧
        (let n := (s.getStack g).nextTicket
         (t.getStack g).tickets = (s.getStack g).tickets ++ [{ num := n, turn := n, pch := c, src := src, req := r, sent := s.now }]) ∧
        (h.allbank = true → (t.getPch g c).retries.toNat = min 0xFFFF (h.retries.toNat + 1))) ∧
      (s.retries g c src r posted = false → exec (.bankRetry r) s = .next s)) ∧
    (∀ (k : Nat) t, (s.getStack g).tickets[k]? = some t →
      let wanted := ∃ q, s.request t.req = some q ∧ (g, t.pch) ∈ q.1
      (¬ wanted → ∃ u, exec (.retryResend g k) s = .next u ∧ (u.getStack g).tickets = (s.getStack g).tickets.eraseIdx k) ∧
      (wanted → t.back = false → t.sent + 256 ≤ s.now → ∃ u, exec (.retryResend g k) s = .next u ∧
        (u.getStack g).tickets = (s.getStack g).tickets.set k { t with back := true }) ∧
      (wanted → s.now < t.sent + 256 → exec (.retryResend g k) s = .next s)) ∧
    (h.window = true → h.lastBurst + 4096 ≤ s.now → ∃ t, exec (.burstTicketWindowEnd g c) s = .next t ∧ (t.getPch g c).window = false ∧ t.mem = s.mem ∧
      ∀ k ∈ (t.getStack g).tickets, k.pch = c → k.clear = true) ∧
    (s.now < h.lastBurst + 4096 → exec (.burstTicketWindowEnd g c) s = .next s) ∧
    (∀ (k j : Nat), 8192 ≤ k →
      let open_ := ¬ awake s (j / 16) ∨ s.now < (s.getPart (j / 16)).resumed + 4096
      (open_ → exec (.burstTicketWindowEnd k j) s = .next s) ∧
      (¬ open_ → ∃ t, exec (.burstTicketWindowEnd k j) s = .next t ∧ t.mem = s.mem ∧
        (t.getCluster (k - 8192)).tickets = (s.getCluster (k - 8192)).tickets.map (fun q => if q.pch = j then { q with clear := true } else q))) ∧
    (∀ b g0 c0 m d eb xm sd af wf rows xo sem progress, s.headCmds.find? (fun x => runsBurst h x.2.2) = some (g0, c0, b) →
      b.kind = .bmv m d eb xm sd af wf rows xo sem → h.cmds = [b] →
      let p := s.runBmv g c b (min progress rows)
      ∃ t r, exec (.beadFault g c progress) s = .next t ∧ (calm s g c → t.mem = s.mem) ∧ (t.getPch g c).fault = true ∧ (t.getPch g c).cmds = [] ∧ (t.getPch g c).burst = none ∧
        (t.getPart b.part).terminal.waiting = (s.getPart b.part).terminal.waiting ++ [r] ∧ r.cause = 0x22 ∧
        ∀ i, i < min progress rows → i < 64 → look lane0 (t.getPch g c).p (64 * 15 + i) = look lane0 p (64 * 15 + i))

-- dispatch (R337-R355, R390)

namespace Sys2Proof.Claim
/-- lid is the lowest id above partition p's last allocated one that is not active, counting in 1-255 with wrap (R340). -/
def nextFree (s : State) (p lid : Nat) : Prop :=
  let id := fun (i : Nat) => ((s.getPart p).lastLid + i) % 255 + 1
  ∃ i, i < 255 ∧ lid = id i ∧ s.getLaunch p lid = none ∧ ∀ j, j < i → s.getLaunch p (id j) ≠ none
/-- The launch `lid` of partition p is this one, and every other launch of p is as it was. -/
def launchIs (s t : State) (p lid : Nat) (l : Option Launch) : Prop := t.getLaunch p lid = l ∧ ∀ k, k ≠ lid → t.getLaunch p k = s.getLaunch p k
/-- Only partition p's own state may differ among the partitions. -/
def onlyPart (s t : State) (p : Nat) : Prop := ∀ q, q ≠ p → t.getPart q = s.getPart q
/-- A unit at the first instruction of a firing of launch l: pc (without bits 1:0, log 73), sp, tp, the privilege and what a firing starts
without. -/
def startsAt (x : Machine.Unit) (l : Launch) (pc sp : Word) : Prop :=
  x.pc = alignPc pc ∧ x.run = .running ∧ x.priv = .u ∧ getX x.x 2 = sp ∧ getX x.x 4 = l.record.args ∧ x.lp0 = {} ∧ x.lp1 = {} ∧ x.ten = {} ∧ x.cache = [] ∧
    x.latch = false ∧ x.rcto = 4000000 ∧ x.firing.lid = l.lid ∧ x.firing.wdog = l.record.wdog ∧ x.firing.phase = l.phase ∧ x.firing.begun = false ∧
    x.firing.replied = false
/-- The registers of a handler firing of message m (R96). -/
def handlerRegs (x : Machine.Unit) (m : Msg) : Prop :=
  getX x.x 9 = m.target ∧ (∀ i, i < 6 → getX x.x (Fin.ofNat 32 (10 + i)) = m.pay.getD i 0) ∧ x.firing.stage = BitVec.ofNat 64 (0x100 + 16 * m.kind) ∧
    x.firing.wid = 0 ∧ x.handles = [] ∧
    x.firing.owed = if m.kind = 1 ∨ m.kind = 2 then some { part := m.part, node := m.onode, ounit := m.ounit, slot := m.slot, gen := m.gen } else none
end Sys2Proof.Claim

/-- R340, R390, R398: the dispatcher answers a stalled LAUNCH with 2^63 + the reason of the first failing check, or with the lowest launch id above
the last allocated one, from 1 to 255 with wrap, that is not active, under which the record is now active; 64 active launches admit none. The next entry of a host launch queue is answered in its
second doubleword, with bit 62 and the reason for a refused record, and QHEAD moves on; an empty queue, one of a suspended partition and one
whose link is down are not touched, and a RETIRED device answers nothing. (That QSIZE counts modulo 64 and an entry is read at QBASE directly is
notes/assumptions/52's.) -/
def Obligations.TheDispatcherAnswersRecords : Prop :=
  ∀ (s : State) (u p link : Nat),
    (s.dev.lcs = LCS_RETIRED → exec (.dispatchRecord (.unit u)) s = .next s ∧ exec (.dispatchRecord (.host p link)) s = .next s) ∧
    (∀ a bs, (s.getUnit u).wait = .record a bs → s.dev.lcs ≠ LCS_RETIRED →
      let x := s.getUnit u
      (∀ e, s.checkRecord x.part bs = .error e → ∃ t, exec (.dispatchRecord (.unit u)) s = .next t ∧
        unitIs s t u { x with wait := .value (BitVec.ofNat 64 (2 ^ 63 + e)) } ∧ t.parts = s.parts ∧ t.mem = s.mem) ∧
      (∀ r, s.checkRecord x.part bs = .ok r → ∃ t lid, exec (.dispatchRecord (.unit u)) s = .next t ∧ 1 ≤ lid ∧ lid ≤ 255 ∧
        nextFree s x.part lid ∧ (t.getPart x.part).lastLid = lid ∧ s.getLaunch x.part lid = none ∧ unitIs s t u { x with wait := .value (BitVec.ofNat 64 lid) } ∧ onlyPart s t x.part ∧ t.mem = s.mem ∧
        launchIs s t x.part lid (some { lid := lid, record := r, groups := r.groups, detctl := (s.getPart x.part).detctl, waitFrom := s.now })) ∧
      (64 ≤ (s.getPart x.part).launches.length → ∀ r, s.checkRecord x.part bs ≠ .ok r)) ∧
    (p < 16 → link < 2 → s.dev.lcs ≠ LCS_RETIRED →
      let x := s.getPart p
      let q := hostq x link
      let k := hostKey link (q.qbase.toNat + 64 * (q.qhead.toNat % 2 ^ (q.qsize.toNat % 64)))
      let up := look link0 s.dev.links link = none
      (q.qtail = q.qhead ∨ ¬ awake s p ∨ ¬ up → exec (.dispatchRecord (.host p link)) s = .next s) ∧
      (awake s p → up → q.qtail ≠ q.qhead → (hostq x (1 - link)).qtail = (hostq x (1 - link)).qhead → s.hostRecordHeld p (s.read k 8) = false →
        ((s.read k 8).toNat % 64 ≠ 0 → ∃ t, exec (.dispatchRecord (.host p link)) s = .next t ∧ t.read (k + 8) 8 = BitVec.ofNat 64 (2 ^ 63 + 2 ^ 62 + 8) ∧
          (hostq (t.getPart p) link).qhead = q.qhead + 1 ∧ (t.getPart p).launches = x.launches ∧ onlyPart s t p ∧ onlySpans s t [(k + 8, 8)]) ∧
        (∀ bs r e, s.readRecord p (s.read k 8) = (some bs, r) → r.checkRecord p bs = .error e →
          ∃ t, exec (.dispatchRecord (.host p link)) s = .next t ∧ t.read (k + 8) 8 = BitVec.ofNat 64 (2 ^ 63 + 2 ^ 62 + e) ∧
            (hostq (t.getPart p) link).qhead = (hostq (r.getPart p) link).qhead + 1) ∧
        (∀ bs r c, s.readRecord p (s.read k 8) = (some bs, r) → r.checkRecord p bs = .ok c →
          ∃ t lid l, exec (.dispatchRecord (.host p link)) s = .next t ∧ t.read (k + 8) 8 = BitVec.ofNat 64 (2 ^ 63 + lid) ∧ t.getLaunch p lid = some l ∧
            nextFree r p lid ∧ l.record = c ∧ l.st = .residency)))

/-- R343, R348, R383: a launch whose ranges all translate becomes resident; an absent page posts one retryable record until its page is
reported no more; a page without the permission ends a launch that has not started with value 4 and a terminal record, and posts one
retryable record for a launch that has, until that page passes again. The pages that pass are found on the way and are asked for no more.
While a page's walk must wait, the check waits. (That the records carry KIND 4 and UNIT 0xC000 is notes/assumptions/46's.) -/
def Sys2Proof.Claim.ResidencyIsChecked : Prop :=
  ∀ (s : State) (p lid : Nat) (l : Launch), s.getLaunch p lid = some l → l.lid = lid → awake s p → (l.st = .residency ∨ l.st = .running) →
    let pages := s.launchPages p l.record
    let walks := ∃ x ∈ pages, s.walkHeld p x.1 x.2.1 = true
    (walks → exec (.residencyCheck p lid) s = .next s) ∧
    (¬ walks → s.residencyFail p l.record = none → ∃ t l', exec (.residencyCheck p lid) s = .next t ∧ launchIs s t p lid (some l') ∧ l'.st = .running ∧
      l'.asked = [] ∧ l'.next = l.next ∧ l'.record = l.record ∧ t.mem = s.mem ∧ onlyPart s t p) ∧
    (∀ e node off, ¬ walks → s.residencyFail p l.record = some (e, node, off) →
      let a := globalAddr node off
      let rec_ := fun (r : FaultRec) => r.cause = e.cause ∧ r.kind = 4 ∧ r.lid = lid ∧ r.addr = a ∧ r.unit = 0xC000 ∧ r.time = (s.atimeOf 0).toNat
      let filled := pages.foldl (fun t x => t.fill p x.1 x.2.1) s
      let passed := fun (b : Word) => pages.any (fun x => globalAddr x.1 x.2.1 == b && (s.translate p x.1 x.2.1 x.2.2.1 x.2.2.2).toOption.isSome)
      let kept := l.asked.filter (fun b => !passed b)
      let told := (p, node, off / 65536) ∈ (filled.getDie (s.nodeDie p node off)).absent
      ∃ t, exec (.residencyCheck p lid) s = .next t ∧ t.mem = s.mem ∧
        (e.cause = 3 → told → t.dies = filled.dies ∧ (t.getPart p).retry = (s.getPart p).retry ∧ launchIs s t p lid (some { l with asked := kept })) ∧
        (e.cause = 3 → ¬ told → ∃ r, (t.getPart p).retry.waiting = (s.getPart p).retry.waiting ++ [r] ∧ rec_ r ∧
          launchIs s t p lid (some { l with asked := kept })) ∧
        (e.cause ≠ 3 → t.dies = filled.dies) ∧
        (e.cause ≠ 3 → l.started = false → ∃ r, (t.getPart p).terminal.waiting = (s.getPart p).terminal.waiting ++ [r] ∧ rec_ r ∧
          launchIs s t p lid (some { l with asked := kept, st := .ended 4 })) ∧
        (e.cause ≠ 3 → l.started = true → a ∉ kept → ∃ r, (t.getPart p).retry.waiting = (s.getPart p).retry.waiting ++ [r] ∧ rec_ r ∧
          launchIs s t p lid (some { l with asked := a :: kept })) ∧
        (e.cause ≠ 3 → l.started = true → a ∈ kept → (t.getPart p).retry = (s.getPart p).retry ∧
          launchIs s t p lid (some { l with asked := kept })))

/-- R341, R344: a batch grant gives the picked launch's next indices to the cluster's backlog, one after another, as many as BATCH, the indices
left and the last field's boundary allow, and the launch goes on behind them; while its next batch goes to another cluster the grant waits
(notes/assumptions/48). Unless a level has aged, the picked launch is of the lowest PRIO that waits. -/
def Sys2Proof.Claim.BatchesAreGrantedInTurn : Prop :=
  ∀ (s : State) (p c pc : Nat), awake s p → s.physCluster p c = some pc →
    let picked := pickLaunch (s.getCluster pc) (s.getPart p).turnOf p s.now (s.batchCands p c)
    (s.batchCands p c = [] → exec (.batchGrant p c) s = .next s) ∧
    (∀ l left, picked = some (l, left) → s.goesTo p l c = false → exec (.batchGrant p c) s = .next s) ∧
    (∀ l left, picked = some (l, left) →
      l ∈ s.batchCands p c ∧ l.st = .running ∧ l.next < l.groups ∧ (l.record.phased = true → phaseOfIndex l.record l.next ≤ l.phase) ∧
      ((∀ m ∈ s.batchCands p c, aged (s.getCluster pc) p s.now m = false) → ∀ m ∈ s.batchCands p c, l.record.prio ≤ m.record.prio)) ∧
    (∀ l left, picked = some (l, left) → s.goesTo p l c = true → s.getLaunch p l.lid = some l → unlogged s p l.lid →
      let w := 2 ^ l.record.widths.getLastD 64
      let n := min (min l.record.batch (l.groups - l.next)) (w - l.next % w)
      ∃ t l', exec (.batchGrant p c) s = .next t ∧ launchIs s t p l.lid (some l') ∧ l' = { l with next := l.next + n, lastCluster := some c } ∧
        (t.getCluster pc).backlog = (s.getCluster pc).backlog ++
          (List.range n).map (fun i => { part := p, lid := l.lid, wid := l.next + i, batch := (s.getCluster pc).batches }) ∧
        (∀ d, d ≠ pc → t.getCluster d = s.getCluster d) ∧ t.mem = s.mem ∧ onlyPart s t p)

/-- R346: a stage ready for 65,536 ticks comes first, the longest; then a message, unless four handler firings have run while a stage was ready;
then a stage that is not a source, the highest index over all launches (notes/assumptions/49); then a source of the lowest PRIO, and of these one
of the launch whose id comes next after the partition's last one of that level. -/
def Sys2Proof.Claim.TheSchedulerFollowsItsOrders : Prop :=
  ∀ (x : Cluster) (p : Nat) (u : Machine.Unit) (now : Nat) (cs : List Cand),
    let old := fun (c : Cand) => c.since + 65536 ≤ now
    let after := fun (l : Launch) => (l.lid + 255 - look nat0 x.lastSource (4 * p + l.record.prio)) % 256
    (pickFor x p u now cs = none ↔ cs = [] ∧ u.inbox = []) ∧
    (∀ o, pickFor x p u now cs = some (.inbox o) → o = 2 ∧ u.inbox ≠ [] ∧ (∀ c ∈ cs, ¬ old c) ∧ (u.turn < 4 ∨ cs = [])) ∧
    (∀ o l k, pickFor x p u now cs = some (.stage o l k) → ∃ c ∈ cs, c.l = l ∧ c.k = k ∧
      ((o = 1 ∧ old c ∧ ∀ d ∈ cs, c.since ≤ d.since) ∨
        ((∀ d ∈ cs, ¬ old d) ∧ (u.inbox = [] ∨ 4 ≤ u.turn) ∧
          ((o = 3 ∧ c.src = false ∧ ∀ d ∈ cs, d.src = false → d.k ≤ k) ∨
            (o = 4 ∧ c.src = true ∧ ∀ d ∈ cs, d.src = true ∧ l.record.prio ≤ d.l.record.prio ∧
              (d.l.record.prio = l.record.prio → after l ≤ after d.l))))))

/-- R96, R99, R133, R324, R346: a free core that its partition maps starts the picked stage at its ENTRY with the WID in a0, or its oldest
message's handler at HPC with the payload in a0-a5; a free stack core starts a handler with sp at 0x10000. Where the launch is not active the message is discarded with a
terminal record. A unit that is not free starts nothing; a core's number is below 2048. (Which of several running partitions a free core
serves first is notes/assumptions/82's choice.) -/
def Sys2Proof.Claim.FiringsStart : Prop :=
  ∀ (s : State) (u : Nat),
    (2048 ≤ u → exec (.stageSchedule u) s = .fault (.noSuchPlace u)) ∧
    (u < 2048 → (s.coreFree u = false ∨ (s.getUnit u).powered = false) → exec (.stageSchedule u) s = .next s) ∧
    (∀ lc, u < 2048 → s.coreFree u = true → (s.getUnit u).powered = true → (s.getUnit u).part < 16 →
      s.mapsCore (s.getUnit u).part u = some lc →
      let x := s.getUnit u
      let r := s.refreshReady x.part (u / 16)
      (∀ o l k g, r.pick u x.part lc = some (.stage o l k) → l.record.stages[k]? = some g → r.getLaunch x.part l.lid = some l → unlogged s x.part l.lid →
        ∃ t, exec (.stageSchedule u) s = .next t ∧ startsAt (t.getUnit u) l g.entry l.record.stktop ∧ (t.getUnit u).part = x.part ∧
          (t.getUnit u).firing.stage = BitVec.ofNat 64 k ∧ getX (t.getUnit u).x 10 = (t.getUnit u).firing.wid ∧
          (∀ b rest, g.src = true → waitingWids (r.getCluster (u / 16)) x.part l.lid k = b :: rest → (t.getUnit u).firing.wid = BitVec.ofNat 64 b.wid) ∧
          (∀ v, v ≠ u → t.getUnit v = s.getUnit v) ∧ t.mem = s.mem) ∧
      (∀ m l, r.pick u x.part lc = some (.inbox 2) → r.headMsg u x.part = some m → r.activeLaunch m = some l → l.st = .running →
        lc ∈ l.record.flock → (r.residencyFail m.part l.record).isNone = true → unlogged s m.part m.lid →
        ∃ t, exec (.stageSchedule u) s = .next t ∧ startsAt (t.getUnit u) l m.hpc l.record.stktop ∧ handlerRegs (t.getUnit u) m ∧
          (t.getUnit u).inbox = x.inbox.erase m ∧ (∀ v, v ≠ u → t.getUnit v = s.getUnit v) ∧ t.mem = s.mem) ∧
      (∀ m, r.pick u x.part lc = some (.inbox 2) → r.headMsg u x.part = some m → r.activeLaunch m = none →
        ∃ t d, exec (.stageSchedule u) s = .next t ∧ (t.getUnit u).inbox = x.inbox.erase m ∧ (t.getUnit u).run = x.run ∧
          (t.getPart m.part).terminal.waiting = (s.getPart m.part).terminal.waiting ++ [d] ∧ d.cause = 5 ∧ d.kind = 3 ∧ d.msg = some m)) ∧
    (isSc u = false → exec (.stackCoreFiringStart u) s = .fault (.noSuchPlace u)) ∧
    (isSc u = true →
      let x := s.getUnit u
      ((x.run ≠ .idle ∨ s.dieLocked u = false ∨ ∀ m ∈ x.inbox, ¬ awake s m.part) → exec (.stackCoreFiringStart u) s = .next s) ∧
      (∀ m rest l, x.run = .idle → s.dieLocked u = true → s.heldBy u = false → x.inbox = m :: rest → awake s m.part → s.activeLaunch m = some l →
        l.st = .running → (s.residencyFail m.part l.record).isNone = true →
        ∃ t, exec (.stackCoreFiringStart u) s = .next t ∧ startsAt (t.getUnit u) l m.hpc 0x10000 ∧ handlerRegs (t.getUnit u) m ∧
          (t.getUnit u).part = m.part ∧ (t.getUnit u).inbox = rest ∧ (∀ v, v ≠ u → t.getUnit v = s.getUnit v) ∧ t.mem = s.mem))

/-- R347, R348, R351: a firing that has run for WATCHDOG ticks since its first instruction gets the cause 0x16, once. A phase whose indices are
all issued and of which nothing is left, under way or armed, commits. A launch at its end completes with 1, with 2 where a slot is left filled, with 3 when killed and 4 when its pages failed:
without CMPL its id is free at once; with one it first releases CMPL with the value in VALUE. (What a phase's commit and a launch's completion
wait for is notes/assumptions/53's.) -/
def Sys2Proof.Claim.LaunchesAdvanceAndComplete : Prop :=
  ∀ (s : State) (u p lid : Nat) (l : Launch),
    (let x := s.getUnit u
     let f := x.firing
     let due := x.run = .running ∧ f.wdog ≠ 0 ∧ f.wdFired = false ∧ f.inWd = false ∧ f.begun = true ∧ awake s x.part ∧ f.since + f.wdog ≤ s.now
     (due → ∃ t, exec (.watchdogExpiry u) s = .next t ∧ t.mem = s.mem ∧ unitIs s t u { x with
       firing := { f with wdFired := true }, asyncs := x.asyncs ++ [{ code := 0x16, tval := BitVec.ofNat 64 f.wdog }], latch := true }) ∧
     (¬ due → exec (.watchdogExpiry u) s = .next s)) ∧
    (s.getLaunch p lid = some l → l.lid = lid → awake s p →
      (l.st = .running → l.record.phased = true → l.next ≠ 0 → phaseOfIndex l.record (l.next - 1) = l.phase →
        (l.groups ≤ l.next ∨ l.phase < phaseOfIndex l.record l.next) → s.launchDrained p l = true → s.launchQuiet p lid = true → s.phaseArmed p l = false →
        ∃ t, exec (.phaseCommit p lid) s = .next t ∧ t.mem = s.mem ∧
          launchIs s t p lid (some { l with phase := l.phase + 1, digestCommit := l.digest, waitFrom := s.now })) ∧
      (l.record.phased = false ∨ s.launchDrained p l = false ∨ s.launchQuiet p lid = false ∨ s.phaseArmed p l = true → exec (.phaseCommit p lid) s = .next s) ∧
      (s.launchQuiet p lid = false → (∀ v, l.st ≠ .completing v) → l.st ≠ .releasing → exec (.launchComplete p lid) s = .next s) ∧
      (∀ v, (∀ v, l.st ≠ .completing v) → s.launchQuiet p lid = true →
        ((l.st = .running ∧ l.groups ≤ l.next ∧ s.launchDrained p l = true ∧ ((v = 2 ∧ l.qs.any (fun q => decide (0 < filledOf q.2)) = true) ∨
          (v = 1 ∧ l.qs.any (fun q => decide (0 < filledOf q.2)) = false))) ∨ (l.st = .killed ∧ v = 3) ∨ l.st = .ended v) →
        ∃ t, exec (.launchComplete p lid) s = .next t ∧ t.mem = s.mem ∧ (∀ b ∈ (t.getPart p).bindings, b.lid ≠ lid) ∧
          launchIs s t p lid (if l.record.cmpl = 0 then none
            else some { (if s.phaseDone p l then { l with phase := l.phase + 1, digestCommit := l.digest, waitFrom := s.now } else l) with
                        st := .completing v })) ∧
      (∀ v w g, l.st = .completing v → v < 2 ^ 48 → 2 ^ 56 ≤ l.record.cmpl.toNat → l.record.cmpl.toNat < 2 ^ 57 → unlogged s p lid →
        s.translate p (nodeOf l.record.cmpl) (offOf l.record.cmpl) 8 .rw = .ok w → w.home = .stack g → (s.getStack g).aeReqs = [] →
        s.cmplQueued p lid = false → s.walkHeld p (nodeOf l.record.cmpl) (offOf l.record.cmpl) = false →
        meets s p (cmplSrc p lid) (.atomic (cmplSrc p lid)) false w 8 →
        (∀ o ∈ (s.getStack g).waiters, o.loc ≠ s.siteBase p w) →
        ∃ t, exec (.launchComplete p lid) s = .next t ∧ launchIs s t p lid none ∧
          t.read (s.siteBase p w) 8 = afterRelease (some v) (s.read (s.siteBase p w) 8) ∧ onlySpans s t [(s.siteBase p w, 8)]))

/-- R353, R355: with LOG, the step of a choice writes its record at the log's tail, moves LOG_TAIL by 16 and takes the choice: here the one
message in flight for a launch that joins its target's inbox. A launch without LOG writes none, and a full ring holds the choice back. In
replay a choice is taken when it is the logged one, waits while another is logged that may still arise, and where the unit has no record
the divergence is reported with KIND 5 and the unit is forced no more; while the ring cannot be read the choice waits. (When a logged choice
can still arise is notes/assumptions/54's, that the record's cause is 0 notes/assumptions/46's.) -/
def Sys2Proof.Claim.OrderLogRecordsAreWritten : Prop :=
  ∀ (s : State) (p lid kind unit : Nat) (choice : Word) (l : Launch), s.getLaunch p lid = some l →
    let x := s.getPart p
    let size := 2 ^ ((l.detctl.toNat / 256 % 16) + 12)
    let at_ := BitVec.ofNat 64 (l.detctl.toNat / 4096 * 4096 + x.logTail.toNat % size)
    let key := unitKey kind unit
    let next := { l with seqs := put nat0 l.seqs key (look nat0 l.seqs key + 1) }
    (l.detctl.getLsbD 1 = false → exec (.orderLogRecord p lid kind unit choice) s = .next s) ∧
    (l.detctl.getLsbD 1 = true → size ≤ x.logTail.toNat - x.logHead.toNat → ∀ gone, s.choose p lid kind unit choice gone = none) ∧
    (∀ f w g, l.detctl.getLsbD 1 = true → x.logTail.toNat - x.logHead.toNat < size → x.logTail.toNat + 16 < 2 ^ 64 →
      s.flights = [f] → f.msg.part = p → f.msg.lid = lid → awake s p → (s.getUnit f.dst).inbox.length < 64 → isCore f.dst = true →
      (∃ lc, s.logCluster p (f.dst / 16) = some lc ∧ (s.logCore p lc (f.dst % 16)).isSome = true) →
      kind = 2 → unit = s.logCore_ p f.dst →
      choice = BitVec.ofNat 64 (f.msg.onode * 2 ^ 12 + f.msg.ounit + s.reqCount p lid 2 unit (f.msg.onode * 2 ^ 12 + f.msg.ounit) * 2 ^ 20) →
      -- its page stands in the translation cache, so that no write to memory moves it
      (∀ m need, need = .w ∨ need = .any → State.translate { s with mem := m } p (nodeOf at_) (offOf at_) 16 need = .ok w) →
      w.home = .stack g → s.rangeBursting p at_ 16 = false →
      (∀ i i', i < 16 → i' < 16 → s.siteKey p w i = s.siteKey p w i' → i = i') →
      let word := kind * 2 ^ 60 + unit % 4096 * 2 ^ 48 + lid % 256 * 2 ^ 40 + look nat0 l.seqs key % 2 ^ 32
      ∃ t l', exec (.orderLogRecord p lid kind unit choice) s = .next t ∧ (t.getPart p).logTail = x.logTail + 16 ∧
        { part := p, lid := lid, kind := kind, unit := unit, seq := look nat0 l.seqs key, choice := choice } ∈ t.logged ∧
        launchIs s t p lid (some l') ∧ l' = { next with counts := l'.counts } ∧ t.flights = [] ∧
        unitIs s t f.dst { s.getUnit f.dst with inbox := (s.getUnit f.dst).inbox ++ [f.msg], latch := true } ∧
        (∀ i, i < 8 → t.byte (s.siteKey p w i) = BitVec.ofNat 8 (word / 256 ^ i) ∧
          t.byte (s.siteKey p w (8 + i)) = BitVec.ofNat 8 (choice.toNat / 256 ^ i)) ∧
        (∀ k, (∀ i, i < 16 → k ≠ s.siteKey p w i) → t.byte k = s.byte k)) ∧
    (∀ gone, l.detctl.getLsbD 1 = false → l.detctl.getLsbD 2 = true → key ∉ l.unforced →
      s.rangeHeld p (BitVec.ofNat 64 (l.detctl.toNat / 4096 * 4096)) size = true → s.choose p lid kind unit choice gone = none) ∧
    (∀ gone, l.detctl.getLsbD 1 = false → l.detctl.getLsbD 2 = true → key ∉ l.unforced →
      s.rangeHeld p (BitVec.ofNat 64 (l.detctl.toNat / 4096 * 4096)) size = false →
      (∀ k c, s.nextRecord p l kind unit = some (k, c) →
        (k = kind → c = choice → s.choose p lid kind unit choice gone = some (s.setLaunch p next)) ∧
        (¬ (k = kind ∧ c = choice) → ¬ (k = kind ∧ gone c = true) → s.choose p lid kind unit choice gone = none)) ∧
      (s.nextRecord p l kind unit = none → ∃ t r, s.choose p lid kind unit choice gone = some t ∧
        (t.getPart p).terminal.waiting = x.terminal.waiting ++ [r] ∧ r.kind = 5 ∧ r.cause = 0 ∧ r.lid = lid ∧ r.time = (s.atimeOf 0).toNat ∧
        launchIs s t p lid (some { l with unforced := key :: l.unforced }) ∧ t.mem = s.mem))

-- clocks, walks, power, package (R30-R34, R377, R379, R396-R410)

namespace Sys2Proof.Claim
/-- Die d is this; every other die is as it was. -/
def dieIs (s t : State) (d : Nat) (x : Die) : Prop := t.getDie d = x ∧ ∀ e, e ≠ d → t.getDie e = s.getDie e
/-- Nothing but dies changed. -/
def onlyDies (s t : State) : Prop := t = { s with dies := t.dies }
/-- The steps that only the package's own clocks and switches take answer a place that the K9 does not have with this fault. -/
def nowhere (i : Instr) (n : Nat) (s : State) : Prop := exec i s = .fault (.noSuchPlace n)
end Sys2Proof.Claim

/-- R29, R31, R32, R34: exchanges come 65,536 ticks apart. Two good ones in a row within 6 ticks settle an UNSETTLED die once its clock keeps the
bound of R30, one settles a die in HOLDOVER, an offset above 6 unsettles it; MISSED is cleared by a good exchange and counts missed ones up to
255, and two in a row take a SETTLED die to HOLDOVER; 2^22 ticks after its last good exchange a die in HOLDOVER is UNSETTLED, whether or not a
step says so. OFFSET is this die's atime less its master's, 0 on the Bellwether. atime never goes back and is corrected by at most 1 tick per
1,024; only the first lock aligns it in one step, never backwards (notes/assumptions/8, 72). A good exchange with the grandmaster makes the
Bellwether slew by the measured offset, and PEER_LOCK follows |offset| ≤ 92; two missed ones clear it (notes/assumptions/84). -/
def Obligations.ClocksSettleHoldAndExpire : Prop :=
  ∀ (s : State) (d : Nat) (off : Int) (good : Bool),
    (∀ (x : Die) (n m : Nat), (skewAt x (n + m) - skewAt x n).natAbs ≤ (m + 1023) / 1024 ∧
      (n : Int) + skewAt x n ≤ ((n + m : Nat) : Int) + skewAt x (n + m)) ∧
    (12 ≤ d → nowhere (.clockExchange d good off) d s ∧ nowhere (.holdoverExpiry d) d s) ∧
    (d < 12 →
      let x := s.getDie d
      let master := s.getDie (s.masterDie d)
      let o : Int := if x.bell then 0 else skewAt x s.now - skewAt master s.now
      let goal := if x.bell then x.goal else s.clampSkew d (skewAt master s.now + off)
      let first : Die := { slewTo x s.now goal with skew := max (skewAt x s.now) (skewAt master s.now) }
      (s.now < x.lastTry + 65536 → exec (.clockExchange d good off) s = .next s) ∧
      (x.lastTry + 65536 ≤ s.now →
        (∃ t y, exec (.clockExchange d true off) s = .next t ∧ dieIs s t d y ∧ onlyDies s t ∧ y.missed = 0 ∧ y.offset = o ∧ y.lastGood = s.now ∧
          y.lastTry = s.now ∧ y.tc = x.tc ∧ y.bell = x.bell ∧ y.peerLock = x.peerLock ∧ y.goal = goal ∧ y.slewFrom = s.now ∧
          (x.locked = true → y.locked = true ∧ y.skew = skewAt x s.now) ∧
          (6 < o.natAbs → y.clk = 0) ∧
          (o.natAbs ≤ 6 → s.clkState d = 0 → x.goodRun = 0 → y.clk = 0 ∧ y.goodRun = 1 ∧ y.skew = skewAt x s.now) ∧
          (o.natAbs ≤ 6 → s.clkState d = 0 → 1 ≤ x.goodRun → x.locked = true ∨ x.bell = true →
            y.skew = skewAt x s.now ∧ y.clk = if s.inBand d y then 1 else 0) ∧
          (o.natAbs ≤ 6 → s.clkState d = 0 → 1 ≤ x.goodRun → x.locked = false → x.bell = false →
            (s.inBand d first = true → y.clk = 1 ∧ y.locked = true ∧ y.skew = first.skew) ∧
            (s.inBand d first = false → y.clk = 0 ∧ y.skew = skewAt x s.now)) ∧
          (o.natAbs ≤ 6 → s.clkState d ≠ 0 → y.clk = 1)) ∧
        (∃ t y, exec (.clockExchange d false off) s = .next t ∧ dieIs s t d y ∧ onlyDies s t ∧ y.missed = min (x.missed + 1) 255 ∧ y.goodRun = 0 ∧
          y.skew = x.skew ∧ y.goal = x.goal ∧ y.slewFrom = x.slewFrom ∧ y.offset = x.offset ∧ y.lastGood = x.lastGood ∧ y.lastTry = s.now ∧
          (x.clk = 1 → 1 ≤ x.missed → y.clk = 2) ∧ (x.clk ≠ 1 ∨ x.missed = 0 → y.clk = x.clk))) ∧
      (x.clk = 2 → x.lastGood + 2 ^ 22 ≤ s.now → s.clkState d = 0 ∧
        ∃ t, exec (.holdoverExpiry d) s = .next t ∧ dieIs s t d { x with clk := 0, goodRun := 0 } ∧ onlyDies s t) ∧
      (x.clk ≠ 2 ∨ s.now < x.lastGood + 2 ^ 22 → s.clkState d = x.clk ∧ exec (.holdoverExpiry d) s = .next s)) ∧
    (let b := s.bellDie
     let x := s.getDie b
     (s.dev.grandmaster = true ∨ s.dev.discipline = none ∨ s.now < x.peerTry + 65536 → exec (.peerClockExchange good off) s = .next s) ∧
     (∀ l, s.dev.grandmaster = false → s.dev.discipline = some l → x.peerTry + 65536 ≤ s.now →
       (∃ t, exec (.peerClockExchange true off) s = .next t ∧ onlyDies s t ∧
         t.getDie b = { slewTo x s.now (s.clampSkew b (skewAt x s.now - off)) with
                        peerTry := s.now, peerMissed := 0, peerLock := decide (off.natAbs ≤ 92) } ∧
         ∀ e, e < 12 → e ≠ b → t.getDie e = { s.getDie e with peerLock := decide (off.natAbs ≤ 92) }) ∧
       (∃ t, exec (.peerClockExchange false off) s = .next t ∧ onlyDies s t ∧ (t.getDie b).peerMissed = x.peerMissed + 1 ∧
         (t.getDie b).peerTry = s.now ∧ (t.getDie b).skew = x.skew ∧ (t.getDie b).goal = x.goal ∧
         ∀ e, e < 12 → (t.getDie e).peerLock = if 1 ≤ x.peerMissed then false else (s.getDie e).peerLock)))

/-- The walks that are left once a walker is free: those that had started are as they were, the first that waited have started with the present G,
and none waits while one of the eight walkers is free (R377). -/
def Sys2Proof.Claim.walksLeft (g : Nat → Nat) (old new : List Walk) : Prop :=
  new.length = old.length ∧
  (∀ (i : Nat) (v : Walk), old[i]? = some v → ∃ w : Walk, new[i]? = some w ∧ w.part = v.part ∧ w.node = v.node ∧ w.offset = v.offset ∧
    (v.gen ≠ none → w = v) ∧ (v.gen = none → w = v ∨ w.gen = some (g v.part))) ∧
  ((∃ w ∈ new, w.gen = none) → 8 ≤ (new.filter (fun w => w.gen.isSome)).length)

/-- R377, R379: a walk whose recorded G is the present one fills its die's translation cache with the leaf it found, or with nothing, and its walker
serves the next miss that waits; a walk whose G has moved begins again with the present G and fills nothing. (That the newest translations are the
ones a full cache keeps is notes/assumptions/99's choice.) -/
def Sys2Proof.Claim.WalksFillUnderTheirGeneration : Prop :=
  ∀ (s : State) (d k : Nat),
    (12 ≤ d → nowhere (.walkFill d k) d s) ∧
    (d < 12 → (s.getDie d).walks[k]? = none → exec (.walkFill d k) s = .next s) ∧
    (∀ w, d < 12 → (s.getDie d).walks[k]? = some w →
      let x := s.getDie d
      let g := look nat0 x.gens w.part
      let left := walksLeft (look nat0 x.gens) (x.walks.eraseIdx k)
      (w.gen = none → exec (.walkFill d k) s = .next s) ∧
      (w.gen ≠ none → w.gen ≠ some g → ∃ t y v, exec (.walkFill d k) s = .next t ∧ dieIs s t d y ∧ onlyDies s t ∧ y.tc = x.tc ∧ y.walks = x.walks.set k v ∧
        v.gen = some g ∧ v.part = w.part ∧ v.node = w.node ∧ v.offset = w.offset) ∧
      (w.gen = some g → w.found = none → ∃ t y, exec (.walkFill d k) s = .next t ∧ dieIs s t d y ∧ onlyDies s t ∧ left y.walks ∧ y.tc = x.tc ∧
        y.absent = x.absent) ∧
      (∀ base size leaf, w.gen = some g → w.found = some (base, size, leaf) → ∃ t y, exec (.walkFill d k) s = .next t ∧ dieIs s t d y ∧ onlyDies s t ∧
        left y.walks ∧ y.tc = ({ part := w.part, node := w.node, base := base, size := size, leaf := leaf } :: x.tc).take 4096 ∧
        (w.part, w.node, w.offset / 65536) ∉ y.absent))

/-- R399-R401, R405, R406: a voltage ramp ends at its time with the cluster's voltage at the point it was for. A due frequency switch waits for a
quiesce point, each instant that is none counted in DEFER as it passes, then sets OPCUR and stops the cluster for 800 ticks. A core that has been
free, with no message and no outstanding journal entry, for 4,000 ticks, and has no STATE bank, opens its power switch; one for which the scheduler
chooses a firing closes it again 800 ticks later. (From what instant the 4,000 ticks count is notes/assumptions/61's.) -/
def Sys2Proof.Claim.ClustersChangePointAndCoresPowerDown : Prop :=
  ∀ (s : State) (c u : Nat),
    (128 ≤ c → nowhere (.voltageRampEnd c) c s ∧ nowhere (.frequencySwitch c) c s) ∧
    (2048 ≤ u → nowhere (.powerSwitchOpen u) u s ∧ nowhere (.powerSwitchClose u) u s) ∧
    (c < 128 →
      let x := s.getCluster c
      let w := x.pwr
      (w.ramp = none → exec (.voltageRampEnd c) s = .next s) ∧
      (∀ p e, w.ramp = some (p, e) →
        (s.now < e → exec (.voltageRampEnd c) s = .next s) ∧
        (e ≤ s.now → ∃ t, exec (.voltageRampEnd c) s = .next t ∧ (t.getCluster c).pwr.volt = p ∧ (t.getCluster c).pwr.opcur = w.opcur ∧
          t.mem = s.mem ∧ (∀ v, t.getUnit v = s.getUnit v) ∧ (w.pend = none → w.goal ≠ none → (t.getCluster c).pwr = { w with volt := p, ramp := none }))) ∧
      (dueSwitch w = none → exec (.frequencySwitch c) s = .next s) ∧
      (∀ g, dueSwitch w = some g →
        (s.quiesce c = true → ∃ t, exec (.frequencySwitch c) s = .next t ∧ (t.getCluster c).pwr.opcur = g ∧ (t.getCluster c).pwr.relock = s.now + 800 ∧
          (t.getCluster c).pwr.goal = none ∧ (t.getCluster c).pwr.volt = w.volt ∧ (∀ v, t.getUnit v = s.getUnit v) ∧ t.mem = s.mem ∧
          (w.ramp = none → g.toNat < w.volt.toNat → (t.getCluster c).pwr.ramp = some (g, s.now + 8000 * (w.volt.toNat - g.toNat)))) ∧
        (s.quiesce c = false → exec (.frequencySwitch c) s = .next s) ∧
        (∀ n, s.clusters = [(c, x)] → s.inFlight c = true →
          (s.elapse n).getCluster c = { x with pwr := { w with defer := BitVec.ofNat 32 (min (w.defer.toNat + n) (2 ^ 32 - 1)) } }) ∧
        (∀ n, s.clusters = [(c, x)] → s.inFlight c = false → s.vis = [] → (∀ k j e, (j, e) ∈ (s.getUnit (16 * c + k)).journal → e.timed = false) →
          (s.elapse n).getCluster c = x))) ∧
    (u < 2048 →
      let x := s.getUnit u
      let empty := x.run = .idle ∧ x.inbox = [] ∧ (∀ j e, (j, e) ∈ x.journal → e.st = .free) ∧ x.idleSince + 4000 ≤ s.now ∧ noState s u
      (x.powered = true → empty → ∃ t, exec (.powerSwitchOpen u) s = .next t ∧ unitIs s t u { x with powered := false } ∧ t.mem = s.mem) ∧
      ((x.powered = false ∨ x.run ≠ .idle ∨ x.inbox ≠ [] ∨ s.now < x.idleSince + 4000) → exec (.powerSwitchOpen u) s = .next s) ∧
      (∀ p lc, x.powered = false → s.coreFree u = true → p ∈ s.partsOf u → (s.refreshReady p (u / 16)).mapsCore p u = some lc →
        (s.refreshReady p (u / 16)).pick u p lc ≠ none →
        x.closing = none → ∃ t, exec (.powerSwitchClose u) s = .next t ∧ unitIs s t u { x with closing := some s.now } ∧ t.mem = s.mem) ∧
      (∀ a, x.powered = false → x.closing = some a → a + 800 ≤ s.now →
        ∃ t, exec (.powerSwitchClose u) s = .next t ∧ unitIs s t u { x with powered := true, closing := none } ∧ t.mem = s.mem) ∧
      (∀ a, x.closing = some a → s.now < a + 800 → exec (.powerSwitchClose u) s = .next s) ∧
      ((x.powered = true ∨ (x.closing = none ∧ s.coreFree u = false)) → exec (.powerSwitchClose u) s = .next s))

/-- R350, R400, R402, R403: PWRCTL, DIVk and DETCTL are written from S and M mode (a U-mode store traps LOCAL-PROTECTION); a write with a RSVD bit, DIVk = 0
or above 8, or LOG with REPLAY is ignored. Every 40,000 ticks the budget tree shares the root's 2,800 W by demand among dies and stacks and each
node's allotment among its children: a stack's cap is what its allotment leaves above 63 W in steps of 250 mW, at most 128; every core's FDUTY is
1-16, and with AUTO = 0 a cluster's requested point stays. (The demand of a die or cluster that reports none is notes/assumptions/98's.) -/
def Sys2Proof.Claim.PowerRegistersAndBudget : Prop :=
  ∀ (s : State) (v : Word), isCore s.focus = true →
    let x := s.getCluster (s.focus / 16)
    let p := s.getPart s.cur.part
    (s.cur.priv = .u → exec (.pwrctlWrite v) s = raise s 2 0x1FA0000 ∧ exec (.detctlWrite v) s = raise s 2 0x1FBF000 ∧
      ∀ k : Fin 16, exec (.divWrite k v) s = raise s 2 (BitVec.ofNat 64 (0x1FA0100 + 8 * k.val))) ∧
    (s.cur.priv ≠ .u →
      (16 ≤ v.toNat → exec (.pwrctlWrite v) s = .next s.retire) ∧
      (v.toNat < 8 → x.pwr.ramp = none → (v.toNat = x.pwr.opcur.toNat → ∃ t, exec (.pwrctlWrite v) s = .next (State.retire t) ∧
        t = s.setCluster (s.focus / 16) { x with pwr := { x.pwr with auto := false, opreq := v.setWidth 3, goal := none, pend := none } })) ∧
      (v.toNat < 16 → ∃ t, exec (.pwrctlWrite v) s = .next (State.retire t) ∧ (t.getCluster (s.focus / 16)).pwr.auto = v.getLsbD 3 ∧
        (t.getCluster (s.focus / 16)).pwr.opreq = v.setWidth 3 ∧ t.mem = s.mem ∧ t.cur = s.cur) ∧
      (v.toNat % 256 / 8 ≠ 0 ∨ v.toNat % 8 / 2 = 3 → exec (.detctlWrite v) s = .next s.retire) ∧
      (v.toNat % 256 / 8 = 0 → v.toNat % 8 / 2 ≠ 3 → exec (.detctlWrite v) s = .next (State.retire (s.setPart s.cur.part { p with detctl := v }))) ∧
      (∀ k : Fin 16, (v = 0 ∨ 8 < v.toNat → exec (.divWrite k v) s = .next s.retire) ∧
        (∀ u, 1 ≤ v.toNat → v.toNat ≤ 8 → s.coreOf s.cur.part (s.focus / 16) k.val = some u →
          exec (.divWrite k v) s = .next (State.retire (s.setUnit u { s.getUnit u with div := v.setWidth 4 }))))) ∧
    (∀ demand, (s.now < s.dev.lastTree + 40000 → exec (.budgetTreePeriod demand) s = .next s) ∧
      (s.dev.lastTree + 40000 ≤ s.now → ∃ t, exec (.budgetTreePeriod demand) s = .next t ∧ t.dev.lastTree = s.now ∧ t.mem = s.mem ∧
        (∀ u, u < 2048 → 1 ≤ (t.getUnit u).fduty ∧ (t.getUnit u).fduty ≤ 16 ∧ t.getUnit u = { s.getUnit u with fduty := (t.getUnit u).fduty }) ∧
        (let mine := fun (k : Nat) => ((demand.filter (fun x => x.1 == k)).map (·.2)).sum
         let total := ((List.range 4).map (dieDemand demand)).sum + ((List.range 8).map (fun g => mine (4096 + g))).sum
         ∀ g, g < 8 → (t.getStack g).cap ≤ 128 ∧
           (total ≤ 2800000 → (t.getStack g).cap = min 128 ((mine (4096 + g) - 63000) / 250)) ∧
           (2800000 < total → (t.getStack g).cap = min 128 ((2800000 * mine (4096 + g) - 63000 * total) / (250 * total)))) ∧
        (∀ c, c < 128 → (s.getCluster c).pwr.auto = false → t.getCluster c = s.getCluster c)))

/-- R397, R398, R409, R410: lifetime records are committed every 2^32 ticks or more and at an orderly power-down, and an abrupt loss of power takes
what is not committed; droops and flit retries are counted.
Reset clears the machine but for LCS, the lifetime records, host memory, peers' memory and stack-core SRAM, and an image that does not verify
leaves RECOVERY, which a verified image ends; the compute die that firmware chooses, in the model the agenda's entry
(notes/assumptions/8), is the Bellwether. A change of LCS kills every firing and launch, wipes scratchpads, weight memories and stacks and refills
the place and region tables; a RETIRED or unowned device accepts none. (What a reset and a loss of power keep beside what R410 says is
notes/assumptions/63's.) -/
def Obligations.ResetLifeCycleAndLifetime : Prop :=
  ∀ (s : State) (ok : Bool) (st die : Fin 4) (hop : Nat) (peaks : List Nat),
    (let life := fun (off : Nat) => min (look nat0 s.dev.life off + 1) (2 ^ 64 - 1)
     (∃ t, exec (.droopEvent die) s = .next t ∧ look nat0 t.dev.life (0x200 + 8 * die.val) = life (0x200 + 8 * die.val) ∧ t = { s with dev := { s.dev with life := t.dev.life } } ∧
       ∀ off, off ≠ 0x200 + 8 * die.val → look nat0 t.dev.life off = look nat0 s.dev.life off) ∧
     (∃ t, exec (.flitRetry hop) s = .next t ∧ look nat0 t.dev.life 0x238 = life 0x238 ∧ t = { s with dev := { s.dev with life := t.dev.life } } ∧
       ∀ off, off ≠ 0x238 → look nat0 t.dev.life off = look nat0 s.dev.life off)) ∧
    exec .orderlyPowerDown s = .next { s with dev := { s.dev with nv := s.dev.life, lastCommit := s.now } } ∧
    (s.now < s.dev.lastCommit + 2 ^ 32 → exec (.lifetimeCommit peaks) s = .next s) ∧
    (s.dev.lastCommit + 2 ^ 32 ≤ s.now → ∃ t, exec (.lifetimeCommit peaks) s = .next t ∧ t.dev.nv = t.dev.life ∧ t.dev.lastCommit = s.now ∧ t.mem = s.mem ∧
      (∀ d : Fin 4, look nat0 t.dev.life (0x80 * d.val + 8 * min 15 (peaks.getD d.val 0 / 8)) =
        min (look nat0 s.dev.life (0x80 * d.val + 8 * min 15 (peaks.getD d.val 0 / 8)) + 1) (2 ^ 64 - 1))) ∧
    (∃ t, exec (.reset ok) s = .next t ∧ t.dev.lcs = s.dev.lcs ∧ t.dev.own = none ∧ t.dev.recovery = !ok ∧ t.dev.life = s.dev.life ∧ t.dev.nv = s.dev.nv ∧
      t.parts = [] ∧ t.others = [] ∧ t.cur = State.reset.cur ∧ t.flights = [] ∧ t.now = 0 ∧ (∀ d, t.getDie d = { bell := decide (d = s.decided 0 0 % 4) }) ∧
      (∀ k, ((2 ^ 31 ≤ k ∧ k < 2 ^ 32) ∨ 2 ^ 60 ≤ k) → t.byte k = s.byte k) ∧ (∀ k, ¬ ((2 ^ 31 ≤ k ∧ k < 2 ^ 32) ∨ 2 ^ 60 ≤ k) → t.byte k = 0)) ∧
    (∀ b, let t := s.powerLoss ok b
      t.dev.life = s.dev.nv ∧ t.dev.nv = s.dev.nv ∧ t.dev.lcs = s.dev.lcs ∧ t.dev.own = none ∧ t.parts = [] ∧ t.others = [] ∧
        (∀ k, 2 ^ 60 ≤ k → t.byte k = s.byte k) ∧ (∀ k, k < 2 ^ 60 → t.byte k = 0)) ∧
    (s.dev.recovery = true → ok = true → exec (.recoveryImage ok) s = .next { s with dev := { s.dev with recovery := false } }) ∧
    ((s.dev.recovery = false ∨ ok = false) → exec (.recoveryImage ok) s = .next s) ∧
    ((s.dev.lcs = 3 ∨ s.dev.own = none) → exec (.lifeCycleChange st) s = .next s) ∧
    (∀ m, s.dev.lcs ≠ 3 → s.dev.own = some m → ∃ t, exec (.lifeCycleChange st) s = .next t ∧ t.dev = { s.dev with lcs := st.val } ∧
      (∀ u, u < 2304 → (t.getUnit u).run = .idle ∧ (t.getUnit u).inbox = [] ∧ (t.getUnit u).journal = [] ∧ (t.getUnit u).firing = {}) ∧
      (∀ p, (t.getPart p).launches = [] ∧ (t.getPart p).nodes = [] ∧ (t.getPart p).regions = [] ∧ (t.getPart p).roots = []) ∧
      (∀ k, ((2 ^ 31 ≤ k ∧ k < 2 ^ 32) ∨ 2 ^ 60 ≤ k) → t.byte k = s.byte k) ∧ (∀ k, ¬ ((2 ^ 31 ≤ k ∧ k < 2 ^ 32) ∨ 2 ^ 60 ≤ k) → t.byte k = 0))

/-- R395, R407, R409: a link that loses training is down from now on, training again counts a retrain; a link down for more than 2^20 ticks ends every
access that waits on it and frees every journal entry on its way over it, each with the asynchronous cause LINK-LOST, and an engine's operation
whose next access waits on it ends FAULTED with that cause. (Which waits and entries these are is notes/assumptions/62's; that tval is R409's
number of the link, and that the agenda names the sources that wait on a bridge, notes/assumptions/75's choice.) -/
def Obligations.LinksGoDownAndAreLost : Prop :=
  ∀ (s : State) (n : Nat),
    (n < 30 → look link0 s.dev.links n = none → ∃ t, exec (.linkDown n) s = .next t ∧ look link0 t.dev.links n = some s.now ∧
      t = { s with dev := { s.dev with links := t.dev.links } } ∧ ∀ m, m ≠ n → look link0 t.dev.links m = look link0 s.dev.links m) ∧
    ((30 ≤ n ∨ look link0 s.dev.links n ≠ none) → exec (.linkDown n) s = .next s) ∧
    (look link0 s.dev.links n = none → exec (.linkRetrain n) s = .next s ∧ exec (.linkLost n) s = .next s) ∧
    (∀ a, look link0 s.dev.links n = some a →
      (∃ t, exec (.linkRetrain n) s = .next t ∧ look link0 t.dev.links n = none ∧
        look nat0 t.dev.life (0x280 + 8 * n) = min (look nat0 s.dev.life (0x280 + 8 * n) + 1) (2 ^ 64 - 1) ∧
        t = { s with dev := { s.dev with links := t.dev.links, life := t.dev.life } } ∧ ∀ m, m ≠ n → look link0 t.dev.links m = look link0 s.dev.links m) ∧
      (s.now ≤ a + 2 ^ 20 → exec (.linkLost n) s = .next s) ∧
      (a + 2 ^ 20 < s.now → ∃ t, exec (.linkLost n) s = .next t ∧ t.mem = s.mem ∧ t.parts = s.parts ∧
        ∀ u, let x := s.getUnit u
          let why := fun (j : Nat) => ({ code := 0x23, tval := BitVec.ofNat 64 n, jidx := j } : Async)
          (∀ b, waitAddr x = some b → s.crosses n u x.part b = true →
            (t.getUnit u).wait = .none ∧ (t.getUnit u).latch = true ∧ why 0 ∈ (t.getUnit u).asyncs) ∧
          (∀ j e, (j, e) ∈ x.journal → e.st = .issued → e.stage = .toHome → s.crosses n u e.part e.addr = true →
            (look jentry0 (t.getUnit u).journal j).st = .free ∧ why j ∈ (t.getUnit u).asyncs)) ∧
      (a + 2 ^ 20 < s.now → ∀ q o r, q ∈ s.engineQueues → s.engineHead q = some o → o.fail = none →
        (headRanges o).find? (fun r => s.crosses n (engineSrc q) o.part r.1) = some r →
        ∃ t o', exec (.linkLost n) s = .next t ∧ t.engineHead q = some o' ∧
          o'.fail = some { cause := 0x23, sub := 0, addr := r.1, progress := progressOf o }))

-- switching, services, the host (R23, R148, R149, R357-R366, R369, R379, R380, R383-R398)

namespace Sys2Proof.Claim
/-- A switch as a record asks for it. -/
def switchOf (s : State) (k : Nat) (names : List Nat) : Switch :=
  let w := fun (i : Nat) => s.read (k + 8 * i) 8
  { t := (w 0).toNat, tin := (w 1).toNat, evict := names, ctxOut := w 3, ctxIn := w 4, noin := (w 5).getLsbD 8, inP := (w 5).toNat / 16 % 16,
    outP := (w 5).toNat % 16, place := k }
/-- An instruction that R359 lets a stop fall on, without the cancels of R168 and R306. -/
def plainWait (w : Wait) : Prop := w = .none ∨ (∃ T, w = .event T) ∨ (∃ a n T, w = .load a n T) ∨ (∃ T, w = .sleep T) ∨ (∃ r, w = .atomic r)
end Sys2Proof.Claim

/-- R357, R358: a switch record is refused with STATUS 2, 3, 4 or 5 by the first check that fails, and nothing else changes; otherwise STATUS is 0 and the
switch is pending. While a burst or a suspended partition holds the table that EVMAP names, the request waits. -/
def Sys2Proof.Claim.SwitchRecordsAreChecked : Prop :=
  ∀ (s : State) (link : Nat) (a : List Word), s.dev.own = some link → s.dev.recovery = false → s.dev.lcs ≠ 3 →
    let src := Requester.mailbox 0 link
    s.askedArgs src 1 = some a →
    let k := hostKey link (a.getD 0 0).toNat
    let w := fun (i : Nat) => s.read (k + 8 * i) 8
    let out := (w 5).toNat % 16
    let inn := (w 5).toNat / 16 % 16
    let noin := (w 5).toNat / 256 % 2 = 1
    let late := (w 0).toNat < (s.atimeOf 0).toNat + 80000 ∨ (w 1).toNat < (w 0).toNat
    let unsettled := ∃ d, d < 12 ∧ s.clkState d = 0
    let names := fun (o : Switch) (p : Nat) => o.outP = p ∨ (o.noin = false ∧ o.inP = p)
    let pending := ∃ o ∈ s.switches, names o out ∨ (¬ noin ∧ names o inn)
    let badForm := (w 2).toNat % 4096 ≠ 0 ∨ (w 5).toNat / 512 ≠ 0 ∨ w 7 ≠ 0 ∨ (w 3).toNat % 2 ^ 21 ≠ 0 ∨ (w 4).toNat % 2 ^ 21 ≠ 0 ∨ (out = inn ∧ ¬ noin)
    let refused := fun (e : Nat) => exec (.serviceSwitch src) s = .next ((s.write (k + 48) 8 (BitVec.ofNat 64 e)).answer src 3)
    ((a.getD 0 0).toNat / 2 ^ 48 ≠ 0 → (a.getD 0 0).toNat / 2 ^ 56 ≠ 1 → exec (.serviceSwitch src) s = .next (s.answer src 3)) ∧
    ((a.getD 0 0).toNat < 2 ^ 48 → s.rangeHeld 0 (w 2) 256 = true → exec (.serviceSwitch src) s = .next s) ∧
    ((a.getD 0 0).toNat < 2 ^ 48 → s.rangeHeld 0 (w 2) 256 = false → (∃ i, 1 ≤ i ∧ i < a.length ∧ a.getD i 0 ≠ 0) → exec (.serviceSwitch src) s = .next (s.answer src 3)) ∧
    ((a.getD 0 0).toNat < 2 ^ 48 → s.rangeHeld 0 (w 2) 256 = false → (∀ i, 1 ≤ i → a.getD i 0 = 0) →
      (late → refused 2) ∧ (¬ late → unsettled → refused 3) ∧ (¬ late → ¬ unsettled → pending → refused 4) ∧
      (¬ late → ¬ unsettled → ¬ pending → badForm → refused 5) ∧
      (∀ bs, ¬ late → ¬ unsettled → ¬ pending → ¬ badForm → (s.readGlobal 0 (w 2) 256).1 = .ok bs →
        ((∃ n ∈ evictNames bs, s.physCore out (n / 16) (n % 16) = none) → refused 5) ∧
        ((∀ n ∈ evictNames bs, s.physCore out (n / 16) (n % 16) ≠ none) → exec (.serviceSwitch src) s =
          .next ((State.write { s with switches := s.switches ++ [switchOf s k (evictNames bs)] } (k + 48) 8 0).answer src 0))))

/-- R20, R359-R362, R365: no gang stops before T, and from T on its partition is suspended. At T the unit in focus stops at its instruction, which will
run again, with its event latch set if it waited for an event, and the partition's traffic and posts go into the pens; once all its units have
stopped the switch goes on. An evicted core serves no partition, and its context holds pc, x1-x31 and the scratchpad. Without a partition coming in
the switch ends with STATUS 1; one that comes in starts at TIN or later: it is no longer suspended, stopped units run, refusals that stood before
a journal have been taken, and WAITING slots' deadlines and the watchdog's start move by the time since T. T and TIN are read on CD0's clock (notes/assumptions/57). -/
def Sys2Proof.Claim.GangsStopAreEvictedAndResume : Prop :=
  ∀ (s : State) (u : Nat),
    let now := (s.atimeOf 0).toNat
    (∀ sw ∈ s.switches, sw.t ≤ now → s.suspended sw.outP = true) ∧
    ((∀ sw ∈ s.switches, sw.stopped ≠ none ∨ now < sw.t) → exec .gangStop s = .next s) ∧
    (∀ sw, s.switches = [sw] → sw.stopped = none → sw.t ≤ now → (∀ kv ∈ s.units.drop 1, kv.2.part = sw.outP → kv.2.run ≠ .running) →
      let stopsHere := s.cur.part = sw.outP ∧ s.cur.run = .running
      (¬ stopsHere ∨ (plainWait s.cur.wait ∧ sw.t ≤ s.atime.toNat)) →
      ∃ t ps, exec .gangStop s = .next t ∧ t.mem = s.mem ∧ (t.getPart sw.outP).suspended = true ∧
        (stopsHere → t.cur = { s.cur with run := .stopped true, wait := .none, tile := {}, latch := s.cur.latch || (match s.cur.wait with | .event _ => true | _ => false) }) ∧
        (¬ stopsHere → t.cur = s.cur) ∧
        (∀ f ∈ t.flights, f ∈ s.flights ∧ f.msg.part ≠ sw.outP) ∧ (∀ f ∈ s.flights, f.msg.part ≠ sw.outP → f ∈ t.flights) ∧
        t.pens.flights = s.pens.flights ++ s.flights.filter (fun f => f.msg.part == sw.outP) ++ ps ∧
        (∀ l, ∀ q ∈ (t.getLaw l).posts, q.msg.part ≠ sw.outP) ∧
        (∀ kv ∈ s.laws, ∀ q ∈ kv.2.posts, q.msg.part = sw.outP → ∃ f ∈ ps, f.msg = q.msg ∧ f.dest = .core q.dest) ∧
        t.switches = [{ sw with stopped := some s.now }] ∧
        t.saved = s.saved.filter (fun v => v.part != sw.outP) ++ [{ part := sw.outP, since := sw.t }]) ∧
    (2048 ≤ u → nowhere (.coreEvict u) u s) ∧
    (u < 2048 → (∀ sw ∈ s.switches, sw.stopped = none) → exec (.coreEvict u) s = .next s ∧ exec .partitionResume s = .next s) ∧
    (∀ sw n, u < 2048 → s.switches = [sw] → sw.stopped ≠ none → sw.evict = [n] → s.physCore sw.outP (n / 16) (n % 16) = some u →
      (s.evictBusy u sw.outP = true → exec (.coreEvict u) s = .next s) ∧
      (∀ r : State, s.evictBusy u sw.outP = false → s.rangeHeld 0 (contextAt sw.ctxOut n) 0xE0000 = false →
        s.rangeHeld 0 (clusterAt sw.ctxOut (n / 16)) 0x2000 = false →
        (s.context u).2.writeGlobal 0 0 (contextAt sw.ctxOut n) (s.context u).1 = some (r, none) →
        (∃ k, k < 16 ∧ (r.presentMask sw.outP (n / 16)).getLsbD k = true ∧ k ≠ n % 16 ∧ ∀ v ∈ r.saved, ∀ x ∈ v.units, x.name ≠ 16 * (n / 16) + k) →
        r.switches = s.switches →
        ∃ t, exec (.coreEvict u) s = .next t ∧ t.getUnit u = emptyCore (r.getUnit u) r.now ∧ t.mem = r.mem ∧ t.switches = [{ sw with evict := [] }])) ∧
    (let bs := (s.context u).1
     let x := s.getUnit u
     bs.length = 0xE0000 ∧ areaDw bs 0 = x.pc ∧ (∀ i : Nat, 1 ≤ i → i < 32 → areaDw bs i = getX x.x (Fin.ofNat 32 i)) ∧
       (∀ i : Nat, i < 0x80000 → bs.getD (0x20000 + i) 0 = s.byte (scratchKey u i))) ∧
    (∀ sw a, s.switches = [sw] → sw.stopped = some a → sw.evict = [] →
      (sw.noin = true → exec .partitionResume s = .next (State.write { s with switches := [] } (sw.place + 48) 8 1)) ∧
      (sw.noin = false → now < sw.tin → exec .partitionResume s = .next s) ∧
      (∀ v, sw.noin = false → sw.tin ≤ now → sw.ctxIn = 0 → s.saved.find? (fun v => v.part == sw.inP) = some v →
        s.pens = {} → s.flights = [] → s.replies = [] → (∀ kv ∈ s.laws, kv.2.posts = []) →
        (∀ kv ∈ s.units, kv.2.part = sw.inP ∨ kv.2.part = 16 → kv.2.firing.lid = 0) → s.cur.part = sw.inP → s.cur.run = .stopped true →
        (∀ j, j < 64 → ∀ n, let e := look jentry0 s.cur.journal j
          e.st = .issued → e.stage = .refusal n → e.part = sw.inP →
          ∃ t, exec .partitionResume s = .next t ∧ (look jentry0 t.cur.journal j).st = .refused ∧ (look jentry0 t.cur.journal j).sub = n) ∧
        ((∀ kv ∈ s.units, ∀ j n, (look jentry0 kv.2.journal j).stage ≠ .refusal n) → ∃ t, exec .partitionResume s = .next t ∧ (t.getPart sw.inP).suspended = false ∧ t.switches = [] ∧ t.cur.run = .running ∧ t.cur.pc = s.cur.pc ∧
          t.cur.latch = s.cur.latch ∧ t.cur.firing.since = s.cur.firing.since + (now - v.since) ∧
          (∀ k, (look slot0 s.cur.slots k).st = .waiting →
            look slot0 t.cur.slots k = { look slot0 s.cur.slots k with deadline := (look slot0 s.cur.slots k).deadline + (now - v.since) }) ∧
          t.read (sw.place + 48) 8 = (if now = sw.tin then 1#64 else 6#64))))

namespace Sys2Proof.Claim
/-- The requester has its status: in mailbox doubleword 0, no longer pending, or in a0 (for the management core) or as the answer of the stalled ECALL. -/
def told (t : State) (src : Requester) (v : Word) : Prop :=
  match src with
  | .mailbox p link => look word0 (mailbox (t.getPart p) link).dw 0 = v ∧ (mailbox (t.getPart p) link).asked = false
  | .unit u => if u = 2304 then getX (t.getUnit u).x 10 = v else (t.getUnit u).wait = .value v
/-- The services that are one step each whatever their first argument, with their numbers. -/
def isService (src : Requester) (i : Instr) (n : Nat) : Prop :=
  (i = .serviceSwitch src ∧ n = 1) ∨ (i = .servicePlace src ∧ n = 3) ∨ (i = .serviceRoot src ∧ n = 4) ∨ (i = .serviceFweight src ∧ n = 5) ∨
    (i = .serviceHandover src ∧ n = 7) ∨ (i = .serviceAttest src ∧ n = 8) ∨ (i = .serviceRegion src ∧ n = 9)
/-- Every argument from i on is 0. -/
def unusedZero (a : List Word) (i : Nat) : Prop := ∀ w ∈ a.drop i, w = 0
def n0 (a : List Word) (i : Nat) : Nat := (a.getD i 0).toNat
/-- A region entry that R23 admits. -/
def regionForm (d0 d1 : Nat) : Prop :=
  d0 / 2 ^ 34 % 2 ^ 29 = 0 ∧ d0 / 2 ^ 25 % 2 ^ 7 = 0 ∧ d1 / 2 ^ 26 = 0 ∧
    (d0 / 2 ^ 63 = 1 → d0 % 64 = 0 ∧ d1 % 64 = 0 ∧ 0x800000 ≤ d0 % 2 ^ 25 ∧ d0 % 2 ^ 25 < d1 ∧ d1 ≤ 0x2000000)
/-- Partition in bits 3:0 and entry index in bits 12:8; the other bits are 0. -/
def indexForm (a : Nat) : Prop := a / 2 ^ 13 = 0 ∧ a / 16 % 16 = 0
end Sys2Proof.Claim

/-- R23, R149, R369, R387, R392, R394, R397, R398: a service nobody asks for does nothing; a device in RECOVERY, a RETIRED one (but for ATTEST), and a
requester that is not the owner's PF (but for SHOOT, HANDOVER and ATTEST) answer 2. PLACE answers as PLACEW; ROOT, FWEIGHT and REGION write the root, the weight
and the region entry that their rules admit, and answer 3 otherwise with nothing changed. A region entry stands in the protection unit of the cluster
that the logical cluster is then mapped to; that REGION answers 3 where it names no mapped cluster is the model's choice (notes/assumptions/83). -/
def Sys2Proof.Claim.ServicesAnswerAndWriteTables : Prop :=
  ∀ (s : State) (src : Requester) (v : Nat),
    told (s.answer src v) src (BitVec.ofNat 64 v) ∧
    (∀ i n, isService src i n →
      (s.askedArgs src n = none → exec i s = .next s) ∧
      (∀ a, s.askedArgs src n = some a → (n = 7 → s.claimEarly src = false) →
        (n = 8 → ∀ k c, (k = 0 ∧ c = Config.attestNonce) ∨ (k = 1 ∧ c = attestBytes) → s.ptrHeld (s.reqPart src) (ptrOf src (a.getD k 0)) c = false) →
        (s.dev.recovery = true ∨ (s.dev.lcs = 3 ∧ n ≠ 8)) → exec i s = .next (s.answer src 2)) ∧
      (∀ a, s.askedArgs src n = some a → n ≠ 7 → n ≠ 8 → s.pfOwner src = false → exec i s = .next (s.answer src 2))) ∧
    (∀ link, src = .mailbox 0 link → s.dev.own = some link → s.dev.recovery = false → s.dev.lcs ≠ 3 →
      (∀ a, s.askedArgs src 3 = some a →
        (unusedZero a 2 → exec (.servicePlace src) s =
          .next ((s.placeWrite (a.getD 0 0) (a.getD 1 0)).2.answer src (s.placeWrite (a.getD 0 0) (a.getD 1 0)).1)) ∧
        (¬ unusedZero a 2 → exec (.servicePlace src) s = .next (s.answer src 3))) ∧
      (∀ a, s.askedArgs src 4 = some a →
        let p := n0 a 0
        let node := n0 a 1
        let root := n0 a 2
        let good := p < 16 ∧ unusedZero a 3 ∧ (node < 8 ∨ (0xF0 ≤ node ∧ node ≤ 0xFF) ∨ node = 0x90 ∨ node = 0x91) ∧ root / 2 ^ 51 % 2 ^ 12 = 0 ∧
          root % 2 ^ 15 = 0 ∧ s.physStack p (root / 2 ^ 48 % 8) ≠ none
        (good → exec (.serviceRoot src) s =
          .next ((s.setPart p { s.getPart p with roots := put word0 (s.getPart p).roots node (a.getD 2 0) }).answer src 0)) ∧
        (¬ good → exec (.serviceRoot src) s = .next (s.answer src 3))) ∧
      (∀ a, s.askedArgs src 5 = some a →
        let p := n0 a 0
        let w := n0 a 1
        let good := p < 16 ∧ 1 ≤ w ∧ w ≤ 15 ∧ unusedZero a 2
        (good → exec (.serviceFweight src) s = .next ((s.setPart p { s.getPart p with weight := w }).answer src 0)) ∧
        (¬ good → exec (.serviceFweight src) s = .next (s.answer src 3))) ∧
      (∀ a, s.askedArgs src 9 = some a →
        let p := n0 a 0 % 16
        let i := n0 a 0 / 2 ^ 8 % 32
        let c := n0 a 1
        let named := fun (c' : Nat) => ∃ lc, lc < 128 ∧ (lc = c ∨ c = 0xFF) ∧ s.physCluster p lc = some c'
        let good := indexForm (n0 a 0) ∧ (∃ c', named c') ∧ unusedZero a 4 ∧ regionForm (n0 a 2) (n0 a 3)
        (good → ∃ t, exec (.serviceRegion src) s = .next (State.answer t src 0) ∧ t = s.setPart p { s.getPart p with regions := (t.getPart p).regions } ∧
          ∀ c' k, k < 64 →
            (named c' → k = 2 * i → look regions0 (t.getPart p).regions (64 * c' + k) = a.getD 2 0) ∧
            (named c' → k = 2 * i + 1 → look regions0 (t.getPart p).regions (64 * c' + k) = a.getD 3 0) ∧
            ((¬ named c' ∨ k / 2 ≠ i) → look regions0 (t.getPart p).regions (64 * c' + k) = look regions0 (s.getPart p).regions (64 * c' + k))) ∧
        (¬ good → exec (.serviceRegion src) s = .next (s.answer src 3))))

/-- R34, R395, R396: PEER writes an entry of the peer map; the two clock-role values make the device grandmaster, with PEER_LOCK = 1, or let it discipline
itself over the lowest-numbered peer link that is up. That DISCIPLINE with no link up answers 3 is the model's choice (notes/assumptions/51). -/
def Sys2Proof.Claim.PeersAndClockRoles : Prop :=
  ∀ (s : State) (link : Nat), s.dev.own = some link → s.dev.recovery = false → s.dev.lcs ≠ 3 →
    let src := Requester.mailbox 0 link
    (s.askedArgs src 6 = none → exec (.servicePeer src) s = .next s ∧ exec (.serviceGrandmaster src) s = .next s ∧ exec (.serviceDiscipline src) s = .next s) ∧
    (∀ a, s.askedArgs src 6 = some a →
      (n0 a 0 = 2 ^ 64 - 1 → exec (.servicePeer src) s = .next s ∧ exec (.serviceDiscipline src) s = .next s ∧
        (unusedZero a 2 → ∃ t, exec (.serviceGrandmaster src) s = .next (State.answer t src 0) ∧
          t = { s with dev := { s.dev with grandmaster := true, discipline := none }, dies := t.dies } ∧
          ∀ d, d < 12 → t.getDie d = { s.getDie d with peerLock := true }) ∧
        (¬ unusedZero a 2 → exec (.serviceGrandmaster src) s = .next (s.answer src 3))) ∧
      (n0 a 0 = 2 ^ 64 - 16 → exec (.servicePeer src) s = .next s ∧ exec (.serviceGrandmaster src) s = .next s ∧
        (∀ i, i < 12 → look link0 s.dev.links (2 + i) = none → (∀ j, j < i → look link0 s.dev.links (2 + j) ≠ none) → unusedZero a 2 →
          ∃ t, exec (.serviceDiscipline src) s = .next (State.answer t src 0) ∧
            t = { s with dev := { s.dev with grandmaster := false, discipline := some i }, dies := t.dies } ∧
            ∀ d, d < 12 → t.getDie d = { s.getDie d with peerLock := false }) ∧
        ((∀ i, i < 12 → look link0 s.dev.links (2 + i) ≠ none) → exec (.serviceDiscipline src) s = .next (s.answer src 3))) ∧
      (n0 a 0 ≠ 2 ^ 64 - 1 → n0 a 0 ≠ 2 ^ 64 - 16 → exec (.serviceGrandmaster src) s = .next s ∧ exec (.serviceDiscipline src) s = .next s ∧
        let p := n0 a 0 % 16
        let i := n0 a 0 / 2 ^ 8 % 32
        let v := n0 a 1
        let good := indexForm (n0 a 0) ∧ v / 2 ^ 20 % 2 ^ 43 = 0 ∧ v / 2 ^ 8 % 16 = 0 ∧ v / 2 ^ 16 % 16 ≤ 11 ∧ (v % 256 ≤ 0x8F ∨ 0xF0 ≤ v % 256) ∧ unusedZero a 2
        (good → exec (.servicePeer src) s =
          .next ((s.setPart p { s.getPart p with peers := put word0 (s.getPart p).peers i (a.getD 1 0) }).answer src 0)) ∧
        (¬ good → exec (.servicePeer src) s = .next (s.answer src 3))))

/-- R393, R394: a claim makes its master the owner while nobody owns the device or a handover names it; of claims that arrive in one tick the
management core's goes first, then link 0's, and a claim in a mailbox that arrived earlier goes before. Any other claim is discarded, or answered
2 by HANDOVER; a host master claims through its own link. The owner's HANDOVER names the next owner, which changes nothing until that claim; a master
that neither owns the device nor claims it gets 2, whatever its arguments. -/
def Sys2Proof.Claim.OwnershipIsClaimedAndHandedOver : Prop :=
  ∀ (s : State) (m : Fin 3) (link : Fin 2),
    let rank := fun (n : Nat) => if n = 2 then 0 else n + 1
    let free := fun (n a : Nat) => s.dev.recovery = false ∧
      (s.dev.own = none ∨ s.dev.handover = some n ∨ (s.dev.claimed = some a ∧ ∃ o, s.dev.own = some o ∧ rank n < rank o))
    let claims := fun (l a : Nat) => let x := mailbox (s.getPart 0) l
      x.asked = true ∧ look word0 x.dw 0 = 7 ∧ look word0 x.dw 1 = BitVec.ofNat 64 l ∧ (∀ i, i < 5 → look word0 x.dw (i + 2) = 0) ∧ x.arrived = a
    let first := fun (n a : Nat) => ∀ l b, l < 2 → l ≠ n → claims l b → free l b → ¬ (b < a ∨ (b = a ∧ rank l < rank n))
    let valid := fun (a : Nat) => free m.val a ∧ first m.val a
    let claimed := fun (a : Nat) => { s with dev := { s.dev with own := some m.val, handover := none,
                                                                 claimed := if s.dev.own = none ∨ s.dev.claimed = some a then some a else none } }
    (m.val < 2 → m.val ≠ link.val → exec (.ownClaim m link) s = .next s) ∧
    ((m.val = 2 ∨ m.val = link.val) → s.dev.lcs ≠ 3 →
      (valid s.now → exec (.ownClaim m link) s = .next (claimed s.now)) ∧ (¬ valid s.now → exec (.ownClaim m link) s = .next s)) ∧
    (s.dev.lcs = 3 → exec (.ownClaim m link) s = .next s) ∧
    (∀ src a, s.askedArgs src 7 = some a → s.dev.recovery = false → s.dev.lcs ≠ 3 →
      let early := ∃ l b, src = .mailbox 0 l ∧ claims l b ∧ s.now ≤ b
      let at_ := match src with
        | .mailbox p l => (mailbox (s.getPart p) l).arrived
        | .unit _ => s.now
      (early → exec (.serviceHandover src) s = .next s) ∧
      (masterOf src = none → exec (.serviceHandover src) s = .next (s.answer src 2)) ∧
      (masterOf src = some m.val → ¬ early →
        (s.dev.own = some m.val →
          (n0 a 0 ≤ 2 → unusedZero a 1 → exec (.serviceHandover src) s =
            .next (State.answer { s with dev := { s.dev with handover := some (n0 a 0) } } src 0)) ∧
          (¬ (n0 a 0 ≤ 2 ∧ unusedZero a 1) → exec (.serviceHandover src) s = .next (s.answer src 3))) ∧
        (s.dev.own ≠ some m.val → n0 a 0 = m.val → valid at_ →
          (unusedZero a 1 → exec (.serviceHandover src) s = .next (State.answer (claimed at_) src 0)) ∧
          (¬ unusedZero a 1 → exec (.serviceHandover src) s = .next (s.answer src 3))) ∧
        (s.dev.own ≠ some m.val → ¬ (n0 a 0 = m.val ∧ valid at_) → exec (.serviceHandover src) s = .next (s.answer src 2))))

/-- R379, R380, R397: a shoot-down begins with STATUS 0; at every die that may translate for the node G rises by one and no cache entry overlaps the range,
and no read cache holds a line of it; it then waits for accesses under the older G that are still to be applied in its range, and ends with STATUS 1. A
malformed descriptor's STATUS is 2. S mode shoots its own partition only, the management core none, and a descriptor at a node that is neither a host's
nor a stack's is refused. ATTEST reads the nonce and writes a report with it and LCS at its address. (When a request is answered and what it waits for
is notes/assumptions/59's; the report's layout and its other bytes, which are free values, notes/assumptions/19's and 16's.) -/
def Sys2Proof.Claim.ShootDownsAndAttestation : Prop :=
  ∀ (s : State) (link : Nat), s.dev.recovery = false → s.dev.lcs ≠ 3 →
    let src := Requester.mailbox 0 link
    let quiet := fun (r : Requester) => ∀ h ∈ s.shoots, h.src ≠ r
    (quiet src → s.askedArgs src 2 = none → exec (.serviceShoot src) s = .next s) ∧
    (∀ a, quiet src → s.askedArgs src 2 = some a → s.dev.own = some link → (a.getD 0 0).toNat < 2 ^ 48 → unusedZero a 1 →
      let k := hostKey link (a.getD 0 0).toNat
      let w := fun (i : Nat) => (s.read (k + 8 * i) 8).toNat
      let all := w 0 / 2 ^ 63 = 1
      let bad := w 0 / 2 ^ 12 % 2 ^ 51 ≠ 0 ∨ (¬ all ∧ (w 1 % 65536 ≠ 0 ∨ w 2 = 0))
      let p := w 0 / 2 ^ 8 % 16
      let node := w 0 % 256
      let lo := if w 0 / 2 ^ 63 = 1 then 0 else w 1
      let n := if w 0 / 2 ^ 63 = 1 then 2 ^ 48 else w 2 * 65536
      (bad → ∃ t, exec (.serviceShoot src) s = .next (State.answer t src 3) ∧ t = { s with mem := t.mem } ∧ t.read (k + 24) 8 = 2) ∧
      (¬ bad → ∃ t, exec (.serviceShoot src) s = .next t ∧ t.read (k + 24) 8 = 0 ∧ onlySpans s t [(k + 24, 8)] ∧ t.parts = s.parts ∧
        t.shoots = s.shoots ++ [{ src := src, desc := a.getD 0 0, part := p, node := node, base := lo, bytes := n }] ∧
        (∀ d, (s.nodeDies p node).count d = 1 → look nat0 (t.getDie d).gens p = (look nat0 (s.getDie d).gens p + 1) % 2 ^ 64 ∧
          ∀ e ∈ (t.getDie d).tc, e ∈ (s.getDie d).tc ∧ ¬ (e.part = p ∧ e.node = node ∧ e.base < lo + n ∧ lo < e.base + e.size)) ∧
        (∀ u, ∀ l ∈ (t.getUnit u).cache, ¬ (l.part = p ∧ l.addr.toNat / 2 ^ 48 = 256 + node ∧ l.addr.toNat % 2 ^ 48 < lo + n ∧ lo < l.addr.toNat % 2 ^ 48 + 128)))) ∧
    (∀ h, s.shoots.find? (fun h => h.src == src) = some h → h.desc.toNat < 2 ^ 48 →
      (s.shootWaits h.part h.node h.base h.bytes = true → exec (.serviceShoot src) s = .next s) ∧
      (s.shootWaits h.part h.node h.base h.bytes = false → ∃ t, exec (.serviceShoot src) s = .next (State.answer t src 0) ∧
        t.read (hostKey link h.desc.toNat + 24) 8 = 1 ∧ t = { s with mem := t.mem, shoots := s.shoots.filter (fun x => x.src != src) } ∧
        onlySpans s t [(hostKey link h.desc.toNat + 24, 8)])) ∧
    (∀ u a b, u < 2048 → quiet (.unit u) → s.askedArgs (.unit u) 2 = some a → s.readPtr (s.getUnit u).part (.glob (a.getD 0 0)) 32 = some b →
      s.rangeHeld (s.getUnit u).part (a.getD 0 0) 32 = false → n0 a 0 / 2 ^ 56 = 1 → unusedZero a 1 →
      natOfBytes (b.take 8) / 2 ^ 12 % 2 ^ 51 = 0 → natOfBytes (b.take 8) / 2 ^ 63 = 1 → natOfBytes (b.take 8) / 2 ^ 8 % 16 ≠ (s.getUnit u).part →
      (nodeOf (a.getD 0 0) < 8 ∨ nodeOf (a.getD 0 0) = 0x90 ∨ nodeOf (a.getD 0 0) = 0x91) →
      exec (.serviceShoot (.unit u)) s = .next (s.answer (.unit u) 2)) ∧
    (∀ u a, u < 2048 → quiet (.unit u) → s.askedArgs (.unit u) 2 = some a → s.rangeHeld (s.getUnit u).part (a.getD 0 0) 32 = false →
      n0 a 0 / 2 ^ 56 ≠ 1 ∨ (8 ≤ nodeOf (a.getD 0 0) ∧ nodeOf (a.getD 0 0) ≠ 0x90 ∧ nodeOf (a.getD 0 0) ≠ 0x91) →
      exec (.serviceShoot (.unit u)) s = .next (s.answer (.unit u) 3)) ∧
    (∀ a, quiet (.unit 2304) → s.askedArgs (.unit 2304) 2 = some a → s.rangeHeld (s.getUnit 2304).part (a.getD 0 0) 32 = false →
      exec (.serviceShoot (.unit 2304)) s = .next (s.answer (.unit 2304) 2)) ∧
    (∀ a, s.askedArgs src 8 = some a → (a.getD 0 0).toNat < 2 ^ 48 → (a.getD 1 0).toNat < 2 ^ 48 → unusedZero a 2 →
      let k := hostKey link (a.getD 1 0).toNat
      let nonce := (List.range Config.attestNonce).map (fun i => s.byte (hostKey link (a.getD 0 0).toNat + i))
      let len := Config.attestLength
      ∃ (t : State) (x y z : List Byte), exec (.serviceAttest src) s = .next (State.answer t src 0) ∧
        t = { s with mem := t.mem, free := s.free + len 0 + len 1 + len 2 } ∧ x.length = len 0 ∧ y.length = len 1 ∧ z.length = len 2 ∧
        holds t k (x ++ nonce ++ y ++ [BitVec.ofNat 8 s.dev.lcs] ++ z) ∧ onlySpans s t [(k, attestBytes)])

namespace Sys2Proof.Claim
/-- The bytes of a record (R384): header, ADDR, VAL, TIME. -/
def recordHeader (r : FaultRec) : Nat :=
  r.cause % 256 * 2 ^ 56 + r.sub % 256 * 2 ^ 48 + r.kind % 16 * 2 ^ 44 + (if r.held then 2 ^ 43 else 0) + (if r.late then 2 ^ 42 else 0) +
    (if r.double then 2 ^ 40 else 0) + r.lid % 256 * 2 ^ 32 + r.unit % 65536
/-- It is partition p's turn at the fault reporter: the first after the one served last that has a record to post or to hold (R387). -/
def postsNext (s : State) (p : Nat) : Prop :=
  let q := fun (i : Nat) => (s.dev.served + 1 + i) % 16
  ∃ i, i < 16 ∧ p = q i ∧ s.postOne p ≠ none ∧ ∀ j, j < i → s.postOne (q j) = none
end Sys2Proof.Claim

/-- R383-R387, R389, R390, R394: the fault reporter writes the oldest terminal record, else the oldest retryable one, at its ring's TAIL and moves TAIL by 1, for
up to the partition's weight of records, the partitions in turn; a full ring holds its records and counts them in FSTAT, and IPEND is set where IEN is; HELDMAP has the bits of the clusters and stacks whose units hold one. A write of QTAIL, HEAD
and FSTAT counts while a host owns the device; a QTAIL too far ahead is discarded; ones written to FSTAT's low bits clear them. A BAR0 offset
not listed, and a write by a host that does not own the device, are discarded. (That the rings lie behind the owner's link is
notes/assumptions/50's choice; that SIZE and QSIZE count modulo 64 and FSTAT bit 3 is IEN notes/assumptions/47's and 52's; that writes of
FSTAT and HEAD need a host owner notes/assumptions/60's.) -/
def Obligations.HostRingsAndRegisters : Prop :=
  ∀ (s : State) (p link : Nat) (v : Word),
    let x := s.getPart p
    let own := s.dev.own = some link ∧ s.dev.recovery = false ∧ s.dev.lcs ≠ 3
    let owned := (s.dev.own = some 0 ∨ s.dev.own = some 1) ∧ s.dev.recovery = false ∧ s.dev.lcs ≠ 3
    (p < 16 → link < 2 →
      let q := hostq x link
      (own → (v - q.qhead).toNat ≤ 2 ^ (q.qsize.toNat % 64) → ∃ t, exec (.hostQtailWrite p link v) s = .next t ∧
        t = s.setPart p (setHostq x link { q with qtail := v })) ∧
      (own → 2 ^ (q.qsize.toNat % 64) < (v - q.qhead).toNat → ∃ t, exec (.hostQtailWrite p link v) s = .next t ∧ t.getPart p = x ∧ t = { s with parts := t.parts }) ∧
      (¬ own → exec (.hostQtailWrite p link v) s = .next s) ∧
      (¬ owned → exec (.fstatWrite p v) s = .next s ∧ ∀ b, exec (.ringHeadWrite p b v) s = .next s) ∧
      (owned → exec (.ringHeadWrite p true v) s = .next (s.setPart p { x with terminal := { x.terminal with head := v } }) ∧
        exec (.ringHeadWrite p false v) s = .next (s.setPart p { x with retry := { x.retry with head := v } }) ∧
        ∃ f, exec (.fstatWrite p v) s = .next (s.setPart p { x with fstat := f }) ∧
          ∀ i, f.getLsbD i = if i < 3 then x.fstat.getLsbD i && !v.getLsbD i else if i = 3 then v.getLsbD 3 else x.fstat.getLsbD i) ∧
      (∀ off, ¬ own → off ≠ 0 → ¬ (0x40 ≤ off ∧ off < 0x80) → exec (.registerWrite (.bar p link off) v) s = .next s) ∧
      (∀ off, off % 8 ≠ 0 ∨ off = 8 ∨ (0x80 ≤ off ∧ off < 0x1000) ∨ (0x1020 ≤ off ∧ off < 0x2000) ∨ 0x1080000 ≤ off →
        exec (.registerWrite (.bar p link off) v) s = .next s) ∧
      (own → exec (.registerWrite (.bar p link 0x1000) v) s = .next (s.setPart p (setHostq x link { q with qbase := v })) ∧
        exec (.registerWrite (.bar p link 0x2020) v) s = .next (s.setPart p { x with terminal := { x.terminal with base := v } }))) ∧
    (∀ b, b < 192 → (∃ r ∈ x.terminal.waiting ++ x.retry.waiting, r.held = true ∧ ((r.unit < 0x8000 ∧ b = r.unit / 16 % 128) ∨
        (0x8000 ≤ r.unit ∧ r.unit < 0xC000 ∧ b = 128 + (r.unit - 0x8000) / 32 % 8) ∨ (0xC000 ≤ r.unit ∧ r.place = some b))) →
      (s.barRead p link (0x2048 + 8 * (b / 64))).getLsbD (b % 64) = true) ∧
    (¬ postsNext s p → exec (.faultRecordPost p) s = .next s) ∧
    (x.terminal.waiting = [] → x.retry.waiting = [] → ¬ postsNext s p) ∧
    (∀ r rest, postsNext s p → x.weight = 1 → x.terminal.waiting = r :: rest → (x.terminal.tail - x.terminal.head).toNat ≠ 2 ^ (x.terminal.size.toNat % 64) →
      let at_ := fun (i : Nat) => hostKey s.ringLink ((x.terminal.base.toNat + 128 * (x.terminal.tail.toNat % 2 ^ (x.terminal.size.toNat % 64)) + i) % 2 ^ 48)
      ∃ t, exec (.faultRecordPost p) s = .next t ∧ t.dev.served = p ∧ (t.getPart p).terminal = { x.terminal with tail := x.terminal.tail + 1, waiting := rest } ∧
        (t.getPart p).retry = x.retry ∧ (∀ q, q ≠ p → t.getPart q = s.getPart q) ∧ (x.fstat.getLsbD 3 = true → (t.getPart p).fstat.getLsbD 2 = true) ∧
        (∀ i, i < 8 → t.byte (at_ i) = BitVec.ofNat 8 (recordHeader r / 256 ^ i) ∧ t.byte (at_ (8 + i)) = BitVec.ofNat 8 (r.addr.toNat / 256 ^ i) ∧
          t.byte (at_ (16 + i)) = BitVec.ofNat 8 (r.val.toNat / 256 ^ i) ∧ t.byte (at_ (24 + i)) = BitVec.ofNat 8 (r.time / 256 ^ i)) ∧
        (∀ k, (∀ i, i < 128 → k ≠ at_ i) → t.byte k = s.byte k)) ∧
    (∀ r rest, postsNext s p → x.weight = 1 → x.terminal.waiting = [] → x.retry.waiting = r :: rest →
      ((x.retry.tail - x.retry.head).toNat ≠ 2 ^ (x.retry.size.toNat % 64) → ∃ t, exec (.faultRecordPost p) s = .next t ∧
        (t.getPart p).retry = { x.retry with tail := x.retry.tail + 1, waiting := rest }) ∧
      ((x.retry.tail - x.retry.head).toNat = 2 ^ (x.retry.size.toNat % 64) → rest = [] → r.held = false → ∃ t, exec (.faultRecordPost p) s = .next t ∧ t.mem = s.mem ∧
        (t.getPart p).retry = { x.retry with waiting := [{ r with held := true }] } ∧ (t.getPart p).fstat.getLsbD 0 = true ∧
        ((t.getPart p).fstat.extractLsb' 32 16).toNat = min ((x.fstat.extractLsb' 32 16).toNat + 1) 65535)) ∧
    (∀ a : BitVec 32, exec (.registerWrite (.mmio a) v) s = mmioStore a.toNat v s)

-- encodings (R39-R63), the step, reset (R398)

/-- R39, R43-R64: decoding the bytes of a well-formed instruction gives the instruction and leaves the bytes after it, for every instruction that has
words and every value of its operands; its length is the one that fetching reads. -/
def Obligations.DecodeOfEncode : Prop :=
  ∀ (i : Instr) (bs : List Byte), wellFormed i = true → encode i ≠ [] →
    decode (encodeBytes i ++ bs) = .ok (i, bs) ∧ (encode i).length = wordsOf i ∧
      decodeWords ((encode i).getD 0 0) ((encode i).getD 1 0) ((encode i).getD 2 0) = i

/-- R28, R43, R49-R60, R71: words that the spec writes out decode to the instructions they stand for. -/
def Obligations.WrittenWordsDecode : Prop :=
  decodeWords 0xCC002573#32 0 0 = .csrrs 10 0 0xCC0#12 ∧ decodeWords 0x00100293#32 0 0 = .addi 5 0 1#12 ∧ decodeWords 0x03829293#32 0 0 = .slli 5 5 56#6 ∧
    decodeWords 0x00010337#32 0 0 = .lui 6 0x10#20 ∧ decodeWords 0x00A5B023#32 0 0 = .sd 10 11 0#12 ∧ decodeWords 0x0032900B#32 0 0 = .qwaitF 3 5 ∧
    decodeWords 0x0820150B#32 0 0 = .qcnt 10 2 ∧ decodeWords 0x00C5B52B#32 0 0 = .amoaddD 10 12 11 ∧ decodeWords 0x1C16E60B#32 0 0 = .chktest 12 1 13 ∧
    decodeWords 0x0000000B#32 0 0 = .fin ∧ decodeWords 0x00C5D00B#32 0 0 = .send 11 12 ∧ decodeWords 0x0718528B#32 0 0 = .rcall 5 16 17 ∧
    decodeWords 0x60B500DB#32 0 0 = .mma 1 10 11 12 ∧ decodeWords 0x1820E27B#32 0 0 = .vfma 4 1 2 3 ∧ decodeWords 0x0000707B#32 0 0 = .illegalWord 0x0000707B#32

/-- R39, R62, R105, R375: with nothing due and nothing pending, a running unit executes the instruction whose one, two or three words stand at pc. A word is
read where its translation for fetching leads; a pc outside global memory traps LOCAL-PROTECTION, a pc that is no multiple of 4 MISALIGNED. A pending
asynchronous cause of a U-mode unit is taken first; a unit that does not run stands still; a fetch whose home does not serve waits. `pace` ticks pass
with each step, and an entry of the agenda comes before the unit in focus (notes/assumptions/14). -/
def Obligations.AStepRunsTheDecodedInstruction : Prop :=
  ∀ (s : State),
    let t := State.flushDue (s.elapse s.pace)
    (∀ (r : State) n, (∀ kv ∈ r.clusters, dueSwitch kv.2.pwr = none) → r.elapse n = { r with now := r.now + n }) ∧
    (s.vis = [] → t = s.elapse s.pace) ∧
    (∀ i c rest, t.agenda = .event i c :: rest → encode i = [] → step s = exec i { t with agenda := rest, choice := c }) ∧
    (∀ i c rest, t.agenda = .event i c :: rest → encode i ≠ [] → step s = .next { t with agenda := rest }) ∧
    (∀ n rest, t.agenda = .pass n :: rest → step s = .next (State.elapse { t with agenda := rest } n)) ∧
    (∀ u a w rest, t.agenda = .element u a w :: rest → State.standsStill (t.refocus u) = false → step s = State.element { t with agenda := rest } u a w) ∧
    (∀ e rest, t.agenda = .error e :: rest → step s = State.physError { t with agenda := rest } e) ∧
    (∀ u a rest, t.agenda = .evict u a :: rest → u < 2305 → ∃ c, step s = .next (State.setUnit { t with agenda := rest } u { t.getUnit u with cache := c }) ∧
      ∀ l, l ∈ c ↔ l ∈ (t.getUnit u).cache ∧ l.addr ≠ lineOf a) ∧
    (∀ u n rest, t.agenda = .abandon u n :: rest → u < 2048 → ((t.refocus u).cur.run ≠ .running ∨ (t.refocus u).cur.wait ≠ .none) →
      step s = .next { t with agenda := rest }) ∧
    (∀ u rest, t.agenda = .run u :: rest → u < 2305 → step s = runUnit (State.refocus { t with agenda := rest } u)) ∧
    (t.agenda = [] → step s = runUnit t) ∧
    (t.agenda = [] → (t.cur.run ≠ .running ∨ t.standsStill = true) → step s = .next t) ∧
    (t.agenda = [] → t.cur.run = .running → t.standsStill = false → t.mustStop = false →
      (t.cur.priv = .u → t.cur.asyncs ≠ [] → interruptible t.cur.wait = true → step s = exec (.trapEntry t.focus) t) ∧
      ((t.cur.priv ≠ .u ∨ t.cur.asyncs = [] ∨ interruptible t.cur.wait = false) →
        (t.fetchHeld = true → step s = .next t) ∧ (t.fetchHeld = false →
        (∀ w r, t.fetchWord t.cur.pc = .ok (w, r) → needs2 w = false → step s = exec (decodeWords w 0 0) r.began) ∧
        (∀ w w' r r', t.fetchWord t.cur.pc = .ok (w, r) → needs2 w = true → r.fetchWord (t.cur.pc + 4) = .ok (w', r') → needs3 w w' = false →
          step s = exec (decodeWords w w' 0) r'.began) ∧
        (∀ w w' w'' r r' r'', t.fetchWord t.cur.pc = .ok (w, r) → needs2 w = true → r.fetchWord (t.cur.pc + 4) = .ok (w', r') → needs3 w w' = true →
          r'.fetchWord (t.cur.pc + 8) = .ok (w'', r'') → step s = exec (decodeWords w w' w'') r''.began) ∧
        (∀ node off x, node < 256 → off < 2 ^ 48 → off % 4 = 0 → t.cur.pc = globalAddr node off → t.translate t.cur.part node off 4 .x = .ok x →
          (∀ n, x.home ≠ .peer n) → ∃ w r, t.fetchWord t.cur.pc = .ok (w, r) ∧ r = { t with dies := r.dies } ∧
            ∀ i, i < 4 → BitVec.ofNat 8 (w.toNat / 256 ^ i) = t.byte (t.siteKey t.cur.part x i)) ∧
        (∀ node off f, node < 256 → off < 2 ^ 48 → off % 4 = 0 → t.cur.pc = globalAddr node off → t.translate t.cur.part node off 4 .x = .error f →
          step s = raise (t.noteFail t.focus f node off t.cur.pc t.accKind) f.cause (failTval f node t.cur.pc) (sub := f.sub)) ∧
        (t.cur.pc.toNat % 4 ≠ 0 → step s = raise t 1 t.cur.pc) ∧
        (t.cur.pc.toNat % 4 = 0 → t.cur.pc.toNat / 2 ^ 56 ≠ 1 → step s = raise t 2 t.cur.pc))) ∧
      (∀ r : State, r.began = if r.cur.firing.begun then r else { r with cur := { r.cur with firing := { r.cur.firing with begun := true, since := r.now } } }))

/-- R2, R22: the bytes of the address space are one sparse memory whose canonical form (addresses rise strictly and no entry equals what an unlisted
address reads as; notes/assumptions/6) is kept by every step. -/
def Obligations.StepsKeepTheMemoryForm : Prop :=
  ∀ (s t : State), Memory.wf s.mem = true → step s = .next t → Memory.wf t.mem = true

/-- R18, R23, R31, R32, R94, R103, R104, R108, R152, R286, R340, R385, R387, R393, R400: the machine after reset. No unit runs; the management core is in M mode and
every other unit in U mode; journals, inboxes and reply slots are empty, completion objects, trap and vector registers 0; rcto holds 4,000,000; the place tables are the identity map, entry 0 of a
region table grants the cluster window; every clock is UNSETTLED and die 0 the Bellwether; nobody owns the device; memory lists nothing and reads 0. That a
register without a stated reset value holds 0 is the model's choice (notes/assumptions/1), and so are that every unit has passed test, so that
the identity map is full (9), that SRAMs and host memory read 0 (6), and that idle units are in U mode (3). -/
def Obligations.ResetLeavesThis : Prop :=
  let s := State.reset
  Memory.wf s.mem = true ∧ (∀ k, s.byte k = 0) ∧
    (∀ u, let x := s.getUnit u; x.run = .idle ∧ x.pc = 0 ∧ (∀ r, getX x.x r = 0) ∧ x.priv = (if u = 2304 then .m else .u) ∧ x.journal = [] ∧ x.inbox = [] ∧
      x.sendq = [] ∧ x.latch = false ∧ x.rcto = 4000000 ∧ x.rctl = 0 ∧ x.t = {} ∧ x.lp0.count = 0 ∧ x.lp1.count = 0 ∧
      (∀ k, (look slot0 x.slots k).st = .free) ∧ (∀ b, look word0 x.bfmt b = 0) ∧ (∀ k, look word0 x.eng.bars k = 0 ∧ look word0 x.eng.cbms k = 0) ∧
      x.ten = {} ∧ x.fduty = 16) ∧
    (∀ p, p < 16 → (∀ c, c < 128 → s.physCluster p c = some c ∧ s.granted p c 0x800000 true true = true ∧ s.granted p c 0xFFFFFF true true = true ∧
        s.granted p c 0x1000000 true false = false ∧ ∀ k, k < 16 → s.physCore p c k = some (16 * c + k)) ∧
      (∀ n, n < 8 → s.physStack p n = some n) ∧ (∀ n, look word0 (s.getPart p).roots n = 0) ∧ (s.getPart p).launches = [] ∧ (s.getPart p).weight = 1 ∧
      (s.getPart p).fstat = 0) ∧
    (∀ d, d < 12 → (s.getDie d).clk = 0 ∧ (s.getDie d).missed = 0 ∧ (s.getDie d).bell = decide (d = 0) ∧ (s.getDie d).tc = []) ∧
    s.dev.own = none ∧ (∀ c, (s.getCluster c).pwr.opreq = 7 ∧ (s.getCluster c).pwr.auto = true)

/-- R40, R41, R105, R106: every instruction runs in every state: none is refused, and the only stops are a synchronous trap of the unit in focus in M mode, for which
R106 gives no entry (notes/assumptions/15), and a step that names a place the K9 does not have. -/
def Obligations.EveryInstructionRuns : Prop :=
  ∀ (i : Instr) (s : State),
    (∀ r, exec i s ≠ .refused r) ∧
    (∀ c, exec i s = .fault (.firmwareTrap c) → s.cur.priv = .m ∧ isSc s.focus = false) ∧
    (∀ n, exec i s = .fault (.noSuchPlace n) → encode i = [] ∧ wellFormed i = false)

-- the statements made of several parts

/-- R44: the register instructions of R43 write the result of the ratified specification, said over Int and Nat, and retire.
R44: the M instructions; division by zero and overflow give the specified results without a trap.
R43, R44: the Zba instructions.
R60, R61: EXT gives ADDI, SLTI, SLTIU, XORI, ORI, ANDI and ADDIW the immediate E ‖ imm12, sign-extended from bit 31; the pair is one instruction of two words. JALR under EXT goes to x[rs1] + the immediate with bit 0 cleared and links the address after the pair. -/
def Obligations.IntegerResults : Prop :=
  Claim.BaseIntegerResults ∧ Claim.MulDivResults ∧ Claim.ShiftAddResults ∧ Claim.ExtWidensImmediates

/-- R47: a branch that is not taken retires; a taken one goes to its target, or traps MISALIGNED with it when its bit 1 is set.
R47: JAL and JALR write the address of the next word and go to their target, JALR's with bit 0 cleared; bit 1 set traps. -/
def Obligations.BranchesAndJumps : Prop :=
  Claim.BranchesGoOrTrap ∧ Claim.JumpsLinkAndGo

/-- R101, R126: LPSET and LPSETI with a distance and a legal nesting set the loop's start, end and count and go on; count 0 skips the body; a distance of 0 traps LOOP-SETUP 1, a nesting that is not legal traps LOOP-SETUP 2; LPCLR clears counts only.
R102, R62: in U mode the instruction one of whose words is the end of an active loop goes back while the count is above 1, lp1 before lp0 (that any word counts, as R62 says, and not the last alone, is log 95); a transfer out of an active loop clears it, one inside leaves it; in S mode loops are off. -/
def Obligations.HardwareLoops : Prop :=
  Claim.LoopSetupAndClear ∧ Claim.HardwareLoopsRepeatAndEnd

/-- R105, R106: a precise trap of a core in U mode with a handler saves the pc and the cause, clears PRV and ACT, and goes to tvec in S mode; nothing else of the unit, of memory or of the package changes but the lifetime counts.
R106: with no handler, and for a synchronous trap in S mode (DOUBLE), the context freezes, its record joins the terminal ring's queue, and no handler runs.
R46, R40, R41: ECALL and EBREAK of a core in U mode take their traps, and a word that is no instruction traps ILLEGAL-INSTRUCTION with tval 0 and the word in tinst. -/
def Obligations.TrapsEnterOrFreeze : Prop :=
  Claim.TrapEntryFromUser ∧ Claim.UnhandledTrapFreezes ∧ Claim.EcallEbreakIllegalTrap

/-- R43, R22, R60, R156: a load of a core from its own scratchpad or from its cluster's window, plain, under EXT, or under AT with a time that is not ahead, answers the bytes at its address, least significant first, and retires; a copy of their line in the core's global read cache goes.
R22, R47, R154: what a core's address names. An aligned address below 0x80000 is its own scratchpad; an address in the cluster window is the scratchpad of the logical core there, where the region table grants the access; a misaligned address is refused as MISALIGNED first, an address with no target as LOCAL-PROTECTION, a node whose entry is not valid as PLACE-MISS.
R154, R289, R110, R152: a load or store whose address is refused traps with the cause and tval of the first refusal, one that meets a range lock traps RANGE-LOCKED; a global load that misses asks its home and retires with the value that comes back, or traps with the cause that comes back. (The tval of a stripe set with a member that has no valid entry is notes/assumptions/68's choice.) -/
def Obligations.LoadsReadTheirTargets : Prop :=
  Claim.LocalLoadsReturnTheirBytes ∧ Claim.AddressesNameTheirTargets ∧ Claim.LoadsTrapOrAskTheirHome

/-- R43, R22, R150: an untimed store of a core to a scratchpad bank that is not STATE writes exactly its bytes, the low bytes of its register, least significant first; every other byte of memory, every register and the journal are as before. (No release of the core to its cluster is under way, and no acquire waits for an object among the bytes.)
R104, R150, R153: an untimed store to a global address takes a free journal entry, marked ISSUED with its address, data, node and place in the unit's order, and retires; no byte of memory changes, and the cached line of its address goes. With no entry free it has not retired. (Which FREE entry it takes, and that it waits while none stands above those of its home, is notes/assumptions/69's choice.)
R33, R154, R156, R158: a timed store is refused as UNTIMED-TARGET, CLOCK-UNSETTLED, HORIZON-EXCEEDED or LEAD-TOO-SHORT in that order; otherwise it takes a journal entry with TIMED and its T, whatever its address class, and writes no byte yet. -/
def Obligations.StoresGoToTheirTargets : Prop :=
  Claim.LocalStoresWriteTheirBytes ∧ Claim.GlobalStoresTakeJournalEntries ∧ Claim.TimedStoresAreCheckedAndQueued

/-- R28, R48, R95, R106, R108: a CSR instruction that only reads writes the CSR's value to rd and retires: each user CSR at every level, each supervisor CSR above U mode (tstatus with PEND set while an asynchronous cause is held), bfmt b at 0x880 + b.
R28, R48, R88, R97, R108: a number that is not a CSR, a supervisor CSR in U mode, a write to a read-only CSR, and a write of an invalid format or a RSVD bit of bfmt, of a RSVD bit of rcto or rctl, of a RSVD bit, ACT 3 or PRV 2 or 3 of tstatus trap ILLEGAL-INSTRUCTION with tval 5 and the word in tinst.
R88, R97, R101, R108: a CSR instruction that writes gives rd the old value and the register the new one: bfmt a valid format, rcto 40 bits, rctl one bit, a loop's start and end, and its count where R101's nesting allows it (else LOOP-SETUP 3, the register as it was), tstatus its PRV and ACT bits (PEND is ignored), above U mode tvec an aligned address and every other trap CSR the value; memory and every other register are as before. -/
def Obligations.CsrAccesses : Prop :=
  Claim.CsrReadsReturnTheRegister ∧ Claim.RefusedCsrAccessesTrap ∧ Claim.CsrWritesReplaceTheRegister

/-- R100, R111: FIN in U mode with every bound window advanced by its whole rate ends the firing: the registers, vectors, accumulators, loops and handles are discarded, the journal, bank formats and memory stay, and an owed call without a reply is answered with status 3.
R111, R121: FIN with a window short of its rate traps RATE-VIOLATION and names the lowest such handle and its shortfall; nothing of the firing ends.
R112: FIN above U mode makes no rate check: it advances every bound handle over its remaining window, answers an owed call with status 1, tcause and tval, discards the held causes and ends the firing; the journal is untouched, and the core is in U mode for its next firing. -/
def Obligations.FinEndsAndChecksTheFiring : Prop :=
  Claim.FinEndsTheFiring ∧ Claim.FinChecksRates ∧ Claim.FinAboveUserAbandonsTheFiring

/-- R113, R114, R115: WIDF reads a field of the WID by the launch's widths, most significant first; GROW raises the group count when the new count fits the WID space and answers the count before, else it answers all ones and changes nothing.
R116, R117, R182, R321: LAUNCH checks its record's address, waits until the firing's stores, posted atomics and releases are performed, and until the record's bytes can be read (a write of its own to them, or their home, holds them), reads the record as loads would (the first failure traps), hands it to the dispatcher and waits; the dispatcher's answer goes to rd. -/
def Obligations.LaunchesAndTheirFields : Prop :=
  Claim.WidfAndGrowUseTheLaunch ∧ Claim.LaunchSubmitsItsRecord

/-- R105, R106: a core that runs in U mode and does not hold an answer takes its oldest pending asynchronous cause: the trap entry with bit 63 of tcause set, tjidx the entry that it names, tpc the first instruction that has not retired.
R107, R108, R143: TRET in S mode with ACT 0 returns to tpc at the level PRV names and leaves the journal alone; in U mode it traps ILLEGAL-INSTRUCTION with tval 3.
R104, R107: with ACT drop, TRET frees every REFUSED entry of the node of the entry in tjidx; with ACT replay it sends each of them again, but for those of MISSED-DEADLINE, which it frees; every other entry is as before. (That tjidx counts modulo 64, and that a FREE entry's node is 0, is the model's: log 74; the order of the replay is log 69's.) -/
def Obligations.AsynchronousTrapsAndReturn : Prop :=
  Claim.AsynchronousTrapEntry ∧ Claim.TretReturnsToTheFiring ∧ Claim.TretReplaysOrDropsRefusedEntries

/-- R146, R366: KILL in S mode waits for kill-done and then writes its counts; kill-done waits for the context's bank commands and its engines and writes the number of engine operations aborted in bits 31:0 and of stores discarded in 63:32; the firing's journal entries, queued messages and reply slots are free, and no other unit changes when no engine operation is aborted. A firing of a killed launch that its partition's resume found unable to end ends once it can.
R148, R149: PLACEW in M mode refuses a running partition with 1 and TABLE 3 with 4, and otherwise writes a node entry that R20 admits, a core map without a clash, or a stripe set, with status 0; below M mode it traps ILLEGAL-INSTRUCTION with tval 3. (The order of the statuses, 1 then 4 then 2 then 3, and the TARGETs that a peer entry may hold are log 56's.) -/
def Obligations.KillAndPlacew : Prop :=
  Claim.KillAnswersAtKillDone ∧ Claim.PlacewWritesTheTables

/-- R121-R125: the six queue instructions on a bound handle. QWAIT.F retires when the window's slots are published and otherwise waits; QWAIT.E retires; QCNT and QSLOT write the counts and the slot's address; QADV.C releases and QADV.P publishes the slots, with the firing's wid as their tag, and move the cursor.
R121: a queue instruction on an unbound handle, with more than the window's remaining slots, or in the wrong direction traps RATE-VIOLATION with the tval of its case and the handle's number. -/
def Obligations.QueueInstructions : Prop :=
  Claim.QueueInstructionsUseTheWindow ∧ Claim.QueueMisuseTrapsRateViolation

/-- R130, R103: SEND, SENDNB and SEND.R put their message in the send queue and retire, SEND.R with a fresh reply slot's number in rd; with 16 messages queued SEND and SEND.R trap SEND-QUEUE-FULL and SENDNB answers 1; with no FREE slot SEND.R traps REPLY-SLOTS-EXHAUSTED.
R135, R16: RCALL allocates a reply slot and queues a message of kind 2 with the whole target address; R130: a handler address that is not a multiple of 4 traps MISALIGNED first, then a target the place table does not name PLACE-MISS, then no FREE slot REPLY-SLOTS-EXHAUSTED, then a full send queue SEND-QUEUE-FULL.
R135, R17, R25: the target of an RCALL, from its address alone: the unit itself for its own memory, the logical core of its cluster's window, the logical core of a cluster node, the stack core that bits 16:12 name of a stack node or of the stripe set's stack; a core that is absent, and a host node, a peer node, a node that is not valid and an offset past the cluster's cores, trap PLACE-MISS with the core's id or the node, every other local address LOCAL-PROTECTION.
R103, R136-R141: REPLY answers the owed call once, with a0-a5 and status 0, when the firing's writes to its own home are performed; RWAIT and RPOLL consume a READY slot with its status and payload, answer 3 for a FREE slot or a number above 15, and on a WAITING slot RWAIT waits and RPOLL answers 4; a WAITING slot past its deadline is READY with status 2; status 1 traps REMOTE-FAULT while rctl bit 0 is set. -/
def Obligations.MessageInstructions : Prop :=
  Claim.SendsQueueTheirMessage ∧ Claim.RcallQueuesItsCall ∧ Claim.RcallNamesItsTarget ∧ Claim.RepliesAndReplySlots

/-- R288: the eight synchronisation instructions of a core, over the semaphore's VALUE and FAULT, the barrier's PENDING, EXCESS and OVERRUN, and the bitmap's bits (that BARWAIT on a barrier declared with some bytes also waits while an accepted operation has arrivals to make there is log 94's); R275: ESEQ waits for DONE, answers it with EFAULT and clears EFAULT.
R66, R274: ECMD with a command word that passes every check and whose stores are performed queues its operation, counts it in ISSUED, answers its sequence number and retires; an address past the local memory fails with subcode 5, one that is no multiple of 32 traps MISALIGNED, a failed check traps ILLEGAL-COMMAND with the address and the first failed subcode. -/
def Obligations.SynchronisationAndEngineCommands : Prop :=
  Claim.SynchronisationInstructions ∧ Claim.EcmdChecksAndQueues

/-- R103, R144, R145: WFE clears the latch and retires when the latch is set or its time has come, and otherwise waits; the coming of its time answers it. A reply slot whose deadline has passed becomes READY with status 2 at that, once, and sets the latch.
R173, R45, R150, R318: FENCE and FENCE.G empty the unit's read cache; FENCE.J waits until every journal entry of the unit is FREE or, timed, ACCEPTED, and its posted atomics and releases are applied; FENCE.E also waits for the firing's engine operations; FENCE.B waits for the firing's journal entries to its stack, timed ones too, to be FREE and for its bank commands at its pseudo-channel, at every stack for x0. Each then retires. -/
def Obligations.EventsAndFencesWait : Prop :=
  Claim.WfeWaitsForLatchOrTime ∧ Claim.FencesWaitAndRetire

/-- R166, R167: an acquire of an object in a scratchpad of the unit's own cluster that is grantable, with nobody waiting for it and no order log, takes the object, empties the read cache and answers VALUE; one whose object is not grantable joins its wait list. An acquire with a global address asks its home; an answer that has come completes it, a cause that has come traps. (The cluster's engine has no other request.)
R169, R170, R171: REL and RELV, once the firing's stores to the bound regions are performed, send their release: to a global object as a journal entry, to a scratchpad without one; applied there, at an engine that has no other request, it clears XHELD or counts one sharer down and RELV sets VALUE. BIND and UNBIND add and remove the binding; a malformed descriptor traps ILLEGAL-COMMAND 9, a full table 7, a 17th region 8 (that 9 comes before 7 and 7 before 8 is the model's choice, notes/assumptions/76). -/
def Obligations.ObjectsAreAcquiredAndReleased : Prop :=
  Claim.AcquiresTakeTheObject ∧ Claim.ReleasesAndBindings

/-- R174-R176: an atomic on a scratchpad of the unit's own cluster whose engine is idle is applied there and retires: the location holds OPF(old, b), every other byte of memory is as before, and a returning form gives rd the old value, sign-extended; a posted form writes no register. An answer that comes from another home completes a returning form; the unit's cached copy of the location's line goes with it. (No other write of the unit to the cluster is under way, and no acquire waits for an object among the bytes.)
R153, R104, R175: a posted integer atomic to a global address takes a free journal entry with its operand and retires; a returning one asks the engine of the home that its translation leads to, or waits while an own write to its bytes or an own posted atomic to its home is under way (R180) or its page cannot be walked (R377), or traps with the cause of its translation. -/
def Obligations.Atomics : Prop :=
  Claim.AtomicsUpdateAndAnswer ∧ Claim.GlobalAtomicsGoToTheirHome

/-- R221, R222: a law instruction reports the first failed check: a trap of its address first, then a word in a swap-out record, bit 127 set, a law that is not valid (SWRAW makes no such check), then its own check; the word, the Rooster and every register stay as they are. So in a scratchpad and in a stack alike.
R202, R210, R222-R227: on a word at hand, in a scratchpad or a stack, whose checks pass and that has no crossing due, the law operations take the coordinate c advanced to the home's time t: SWLD.C answers c, SWLD.V its observation, neither touching the word; SWST stores the register as the kind admits it and SWADD the input's result, both stamped t, and an armed word's crossing is then entered anew, or posted where its threshold is met (that nothing of a threshold entry with VALID 0 is evaluated is log 90's); SWDIS clears ARMED and removes the entry; SWARM re-bases and arms under the threshold it names, REARM and phase thresholds too (its launch and phase are kept; status 1 is for a crossing that needs an entry: log 91); SWRAW answers a stored doubleword.
R210, R212, R231: an access that finds a crossing of its word at or before the present delivers it first: the word is FIRED, the post carries the crossing's own time and coordinate with path 1, and the instruction then acts; with the post queue full it waits.
R204, R205, R207, R208: what a law unit computes. The threshold is met by R207's comparisons; a time-driven crossing exists exactly in the rows of R208, at the distance and rate they give, and the k-th crossing is the least number of units that covers its distance; OBS keeps a HOLD coordinate, gives L at -64, +0 for an OSC word there, and the FP32 code of each exact power of two (for OSC at every quarter turn); INPUT adds to the exact real: a zero moves nothing, a word at -64 takes the input's logarithm and sign or angle, two opposite powers of two cancel to -64, two equal ones double and stop at the top with SAT, and RAMP adds and clamps. -/
def Obligations.LawInstructions : Prop :=
  Claim.LawFaultsInOrder ∧ Claim.LawInstructionsActOnTheWord ∧ Claim.LawAccessesDeliverACrossing ∧ Claim.LawFunctionsFollowTheirTables

/-- R298, R305, R307, R308, R311, R316: a bank instruction whose address names no stack traps PLACE-MISS; BCAST with a malformed operand traps subcode 0x0B and without a hold 0x0A; BGET without a hold 0x0A; BMV with a malformed descriptor 0x0C, with a delta plane whose node has no entry PLACE-MISS, then with a matrix that does not translate its cause, and then with a layout that does not fit 0x0C; BEXPR with a malformed operand 0x0D. Nothing else happens; a page whose walk must wait (R377) keeps the instruction. (The causes of a BEXPR or BGET that fails later, and the alignment check at the core, are log 44's.)
R305, R307-R311, R316: a bank command whose checks pass is taken by its pseudo-channel, with the frames found for it (that they are found before acceptance and stay with the command, and that BCAST and BGET need no permission, is log 43's), and its instruction retires: BCAST with the bytes read now, BGET, BMV with status 0 (1 and no command without a hold), BEXPR with 0 or the reply slot it allocated. Of a broadcast, in striped mode Bead b receives slice b and in full mode every Bead all bytes, from XOFF * 32 on; other X bytes keep their values. -/
def Obligations.BankInstructions : Prop :=
  Claim.BankInstructionsRefuse ∧ Claim.BankCommandsAreTaken

/-- R240, R258, R259, R263: the special operands of the lane arithmetic: a NaN operand propagates quietened, the first in assembly order first; infinities of opposite sign, infinity times zero, give the canonical NaN; the zeros of VFMAX, VFMIN and VFSUB; VFCMP on NaNs and zeros.
R264, R265: the special operands of VEXP2, VRCP, VRSQ and VLOG2, and VCVT's clamped and widening kinds. -/
def Obligations.FloatLanesAndFunctions : Prop :=
  Claim.FloatLanesFollowTheSpecialRules ∧ Claim.SpecialFunctionsFollowTheirTable

/-- R241, R250: the checks of a vector access over elements of whole bytes, in their order: the first misaligned element, the first outside the own scratchpad, the first that a range lock stops, the first bank whose FMT is not the governing one; else the format of the first element's bank governs.
R241, R246, R268: a vector load whose checks pass writes every lane of vd with its element, as it stands or as the instruction has read it ahead (log 86), decoded by the governing format, and retires, VLD under EXT as one instruction of two words; one whose check fails traps with it and writes nothing.
R241, R249, R250, R256, R269: VST, VSTS and ACCST whose checks pass write each element, encoded by the governing format and the SAT bit of its own bank, the highest lane last; what the instruction has written ahead it does not write again (R246; log 86); no other byte, no register and no other special register changes. (No acquire waits for an object among the bytes.)
R246, R269: an element that an instruction reads ahead keeps, for it, the value it has now, whatever other cores write there later; memory and every other element as read are as before; a range lock or an own write under way to it keeps the read from coming ahead. -/
def Obligations.VectorLoadsAndStores : Prop :=
  Claim.VectorAccessesAreChecked ∧ Claim.VectorLoadsFillTheirLanes ∧ Claim.VectorStoresWriteTheirElements ∧ Claim.ElementsAreReadOneByOne

/-- R252, R253, R255, R257: MMA whose checks pass sets every element of its accumulator to the steps of R84 over K positions of its A tile and weight blocks, from +0 or from the element; ACCZ, ACCRD, ACCWR move whole rows; the flags of MSTAT follow what was written; MSTAT reads them. An MMA whose check fails traps with it and commits nothing.
R254: WLD walks the headers of n blocks, and copies their bytes unchanged to the weight buffer when every byte lies in the own scratchpad, no range lock stops the reads and the last block ends inside the buffer; misaligned operands trap MISALIGNED, the source first; it waits while an own write to a header is under way. -/
def Obligations.MatrixInstructions : Prop :=
  Claim.MatrixInstructionsUpdateAccumulators ∧ Claim.WldCopiesItsBlocks

/-- R151, R153, R155, R161, R187, R376, R383: the home of an outstanding global load answers it with the value served there, or with the cause and subcode its translation meets, an absent page with its retryable record. A not-before load waits until its unit's clock has reached T, by the signed distance, and is then served at its home likewise. A walk may begin instead and changes only the translation cache's walks.
R104, R132, R153, R155: an ISSUED untimed entry waits behind every older entry and unblock token of its unit to the same home, and for a walk of its page; a blocked source's entry is refused with subcode 5 and one whose translation fails with 1 or 2, which blocks the source at that home from its issue order on; a store that translates to a stack is written there and acknowledged. The acknowledgement frees the entry. A refusal makes the entry REFUSED and is reported once per node. An unblock token lifts its source's blocking after what the source sent before it. -/
def Obligations.HomesAnswerLoadsAndStores : Prop :=
  Claim.HomesAnswerLoads ∧ Claim.JournalEntriesMoveAsTheirTableSays

/-- R274, R286, R287, R289, R290: a chunk all of whose elements are done is signalled once, to its barrier (PENDING falls by its bytes) or its bitmap bit, and sets the core's latch; a bit takes its chunk out of the lock on the destination, and once every write is performed all the operation's locks go with the signal; an operation all of whose elements are done and whose chunks are signalled leaves its queue, releases its locks, adds one to its semaphore and counts as finished; one that has failed leaves with FAULT on its semaphore, EFAULT on its core and a record on the terminal ring.
R282, R394: a store of the owner's to a granted copy aperture starts its template's copy on that channel while the channel and the lock table have room, another host's is discarded; a malformed start queues nothing and posts ILLEGAL-COMMAND 6 to the terminal ring. -/
def Obligations.EnginesRunAndSignal : Prop :=
  Claim.EngineOperationsSignalAndEnd ∧ Claim.AperturesStartTemplates

/-- R343, R348, R383: a launch whose ranges all translate becomes resident; an absent page posts one retryable record until its page is reported no more; a page without the permission ends a launch that has not started with value 4 and a terminal record, and posts one retryable record for a launch that has, until that page passes again. The pages that pass are found on the way and are asked for no more. While a page's walk must wait, the check waits. (That the records carry KIND 4 and UNIT 0xC000 is notes/assumptions/46's.)
R341, R344: a batch grant gives the picked launch's next indices to the cluster's backlog, one after another, as many as BATCH, the indices left and the last field's boundary allow, and the launch goes on behind them; while its next batch goes to another cluster the grant waits (notes/assumptions/48). Unless a level has aged, the picked launch is of the lowest PRIO that waits. -/
def Obligations.ResidencyAndBatches : Prop :=
  Claim.ResidencyIsChecked ∧ Claim.BatchesAreGrantedInTurn

/-- R346: a stage ready for 65,536 ticks comes first, the longest; then a message, unless four handler firings have run while a stage was ready; then a stage that is not a source, the highest index over all launches (notes/assumptions/49); then a source of the lowest PRIO, and of these one of the launch whose id comes next after the partition's last one of that level.
R96, R99, R133, R324, R346: a free core that its partition maps starts the picked stage at its ENTRY with the WID in a0, or its oldest message's handler at HPC with the payload in a0-a5; a free stack core starts a handler with sp at 0x10000. Where the launch is not active the message is discarded with a terminal record. A unit that is not free starts nothing; a core's number is below 2048. (Which of several running partitions a free core serves first is notes/assumptions/82's choice.) -/
def Obligations.TheSchedulerStartsFirings : Prop :=
  Claim.TheSchedulerFollowsItsOrders ∧ Claim.FiringsStart

/-- R347, R348, R351: a firing that has run for WATCHDOG ticks since its first instruction gets the cause 0x16, once. A phase whose indices are all issued and of which nothing is left, under way or armed, commits. A launch at its end completes with 1, with 2 where a slot is left filled, with 3 when killed and 4 when its pages failed: without CMPL its id is free at once; with one it first releases CMPL with the value in VALUE. (What a phase's commit and a launch's completion wait for is notes/assumptions/53's.)
R353, R355: with LOG, the step of a choice writes its record at the log's tail, moves LOG_TAIL by 16 and takes the choice: here the one message in flight for a launch that joins its target's inbox. A launch without LOG writes none, and a full ring holds the choice back. In replay a choice is taken when it is the logged one, waits while another is logged that may still arise, and where the unit has no record the divergence is reported with KIND 5 and the unit is forced no more; while the ring cannot be read the choice waits. (When a logged choice can still arise is notes/assumptions/54's, that the record's cause is 0 notes/assumptions/46's.) -/
def Obligations.LaunchesCompleteAndLogTheirChoices : Prop :=
  Claim.LaunchesAdvanceAndComplete ∧ Claim.OrderLogRecordsAreWritten

/-- R399-R401, R405, R406: a voltage ramp ends at its time with the cluster's voltage at the point it was for. A due frequency switch waits for a quiesce point, each instant that is none counted in DEFER as it passes, then sets OPCUR and stops the cluster for 800 ticks. A core that has been free, with no message and no outstanding journal entry, for 4,000 ticks, and has no STATE bank, opens its power switch; one for which the scheduler chooses a firing closes it again 800 ticks later. (From what instant the 4,000 ticks count is notes/assumptions/61's.)
R350, R400, R402, R403: PWRCTL, DIVk and DETCTL are written from S and M mode (a U-mode store traps LOCAL-PROTECTION); a write with a RSVD bit, DIVk = 0 or above 8, or LOG with REPLAY is ignored. Every 40,000 ticks the budget tree shares the root's 2,800 W by demand among dies and stacks and each node's allotment among its children: a stack's cap is what its allotment leaves above 63 W in steps of 250 mW, at most 128; every core's FDUTY is 1-16, and with AUTO = 0 a cluster's requested point stays. (The demand of a die or cluster that reports none is notes/assumptions/98's.) -/
def Obligations.PowerOfClusters : Prop :=
  Claim.ClustersChangePointAndCoresPowerDown ∧ Claim.PowerRegistersAndBudget

/-- R357, R358: a switch record is refused with STATUS 2, 3, 4 or 5 by the first check that fails, and nothing else changes; otherwise STATUS is 0 and the switch is pending. While a burst or a suspended partition holds the table that EVMAP names, the request waits.
R20, R359-R362, R365: no gang stops before T, and from T on its partition is suspended. At T the unit in focus stops at its instruction, which will run again, with its event latch set if it waited for an event, and the partition's traffic and posts go into the pens; once all its units have stopped the switch goes on. An evicted core serves no partition, and its context holds pc, x1-x31 and the scratchpad. Without a partition coming in the switch ends with STATUS 1; one that comes in starts at TIN or later: it is no longer suspended, stopped units run, refusals that stood before a journal have been taken, and WAITING slots' deadlines and the watchdog's start move by the time since T. T and TIN are read on CD0's clock (notes/assumptions/57). -/
def Obligations.SwitchesStopAndResumeGangs : Prop :=
  Claim.SwitchRecordsAreChecked ∧ Claim.GangsStopAreEvictedAndResume

/-- R23, R149, R369, R387, R392, R394, R397, R398: a service nobody asks for does nothing; a device in RECOVERY, a RETIRED one (but for ATTEST), and a requester that is not the owner's PF (but for SHOOT, HANDOVER and ATTEST) answer 2. PLACE answers as PLACEW; ROOT, FWEIGHT and REGION write the root, the weight and the region entry that their rules admit, and answer 3 otherwise with nothing changed. A region entry stands in the protection unit of the cluster that the logical cluster is then mapped to; that REGION answers 3 where it names no mapped cluster is the model's choice (notes/assumptions/83).
R34, R395, R396: PEER writes an entry of the peer map; the two clock-role values make the device grandmaster, with PEER_LOCK = 1, or let it discipline itself over the lowest-numbered peer link that is up. That DISCIPLINE with no link up answers 3 is the model's choice (notes/assumptions/51).
R393, R394: a claim makes its master the owner while nobody owns the device or a handover names it; of claims that arrive in one tick the management core's goes first, then link 0's, and a claim in a mailbox that arrived earlier goes before. Any other claim is discarded, or answered 2 by HANDOVER; a host master claims through its own link. The owner's HANDOVER names the next owner, which changes nothing until that claim; a master that neither owns the device nor claims it gets 2, whatever its arguments. -/
def Obligations.ServicesOfFirmware : Prop :=
  Claim.ServicesAnswerAndWriteTables ∧ Claim.PeersAndClockRoles ∧ Claim.OwnershipIsClaimedAndHandedOver

/-- R377, R379: a walk whose recorded G is the present one fills its die's translation cache with the leaf it found, or with nothing, and its walker serves the next miss that waits; a walk whose G has moved begins again with the present G and fills nothing. (That the newest translations are the ones a full cache keeps is notes/assumptions/99's choice.)
R379, R380, R397: a shoot-down begins with STATUS 0; at every die that may translate for the node G rises by one and no cache entry overlaps the range, and no read cache holds a line of it; it then waits for accesses under the older G that are still to be applied in its range, and ends with STATUS 1. A malformed descriptor's STATUS is 2. S mode shoots its own partition only, the management core none, and a descriptor at a node that is neither a host's nor a stack's is refused. ATTEST reads the nonce and writes a report with it and LCS at its address. (When a request is answered and what it waits for is notes/assumptions/59's; the report's layout and its other bytes, which are free values, notes/assumptions/19's and 16's.) -/
def Obligations.TranslationsAreFilledAndShotDown : Prop :=
  Claim.WalksFillUnderTheirGeneration ∧ Claim.ShootDownsAndAttestation

/-- R105, R290, R407, R409: a context that has read an uncorrectable word, or whose tensor engine fails, freezes with its registers as they are, and a record with the cause goes to the terminal ring.
An engine's operation that reads such a word fails with the cause UNCORRECTABLE, and what it has written stays written.
A corrected error is counted, and a cached translation that fails its parity is dropped and its page walked again. When an error comes about is the agenda's choice (notes/assumptions/64). -/
def Obligations.ErrorsOfStorageAreContained : Prop :=
  ∀ (s : State),
    let life := fun (off : Nat) => min (look nat0 s.dev.life off + 1) (2 ^ 64 - 1)
    let freezes := fun (t : State) (u cause : Nat) => (t.getUnit u).run = .frozen cause ∧ (t.getUnit u).pc = (s.getUnit u).pc ∧ (t.getUnit u).x = (s.getUnit u).x ∧
      t.mem = s.mem ∧ (∀ v, v ≠ u → t.getUnit v = s.getUnit v) ∧ ∃ r, r.cause = cause ∧ r.double = false ∧
        (t.getPart (s.getUnit u).part).terminal.waiting = (s.getPart (s.getUnit u).part).terminal.waiting ++ [r]
    (∀ u place, u < 2305 → place < 3 → (s.getUnit u).run = .running → ∃ t, s.physError (.uncorrectable u place) = .next t ∧ freezes t u 0x20 ∧
      look nat0 t.dev.life (0x248 + 8 * place) = life (0x248 + 8 * place)) ∧
    (∀ u, isCore u = true → (s.getUnit u).run = .running → ∃ t, s.physError (.internal u) = .next t ∧ freezes t u 0x21) ∧
    (∀ c ch o rest place addr, headOp s c ch o rest → o.fail = none → awake s o.part → place < 3 →
      ∃ t, s.physError (.engine (.chan c ch) place addr) = .next t ∧ t.mem = s.mem ∧
        headOp t c ch { o with fail := some { cause := 0x20, sub := 0, addr := addr, progress := progressOf o } } rest) ∧
    (∀ place, place < 3 → ∃ t, s.physError (.corrected place) = .next t ∧ look nat0 t.dev.life (0x220 + 8 * place) = life (0x220 + 8 * place) ∧
      t = { s with dev := { s.dev with life := t.dev.life } }) ∧
    (∀ die k, die < 12 → k < (s.getDie die).tc.length → ∃ t, s.physError (.parity die k) = .next t ∧ (t.getDie die).tc = (s.getDie die).tc.eraseIdx k ∧
      look nat0 t.dev.life 0x240 = life 0x240 ∧ t.mem = s.mem ∧
      ∀ w g, (s.getDie die).tc[k]? = some w → s.home w.part w.node w.base = some (.stack g) →
        ∃ v ∈ (t.getDie (homeDie (.stack g))).walks, v.part = w.part ∧ v.node = w.node)
end

