-- ==== Sys2Proof/Laws/Decode.lean ====
section
/-! SUPPORT. The fields of an encoded word are the fields it was made of (R43, R49, R59), and the byte order of words (R39). -/

namespace Sys2Proof

@[simp] theorem opOf_enc (a : BitVec 7) (b c : BitVec 5) (d : BitVec 3) (e : BitVec 5) (o : BitVec 7) : opOf (enc a b c d e o) = o := by
  apply BitVec.eq_of_getLsbD_eq; intro i hi
  simp only [opOf, enc, BitVec.getLsbD_extractLsb', BitVec.getLsbD_append]
  have h : i = 0 ∨ i = 1 ∨ i = 2 ∨ i = 3 ∨ i = 4 ∨ i = 5 ∨ i = 6 := by omega
  rcases h with rfl | rfl | rfl | rfl | rfl | rfl | rfl <;> simp
@[simp] theorem f3Of_enc (a : BitVec 7) (b c : BitVec 5) (d : BitVec 3) (e : BitVec 5) (o : BitVec 7) : f3Of (enc a b c d e o) = d := by
  apply BitVec.eq_of_getLsbD_eq; intro i hi
  simp only [f3Of, enc, BitVec.getLsbD_extractLsb', BitVec.getLsbD_append]
  have h : i = 0 ∨ i = 1 ∨ i = 2 := by omega
  rcases h with rfl | rfl | rfl <;> simp
@[simp] theorem f7Of_enc (a : BitVec 7) (b c : BitVec 5) (d : BitVec 3) (e : BitVec 5) (o : BitVec 7) : f7Of (enc a b c d e o) = a := by
  apply BitVec.eq_of_getLsbD_eq; intro i hi
  simp only [f7Of, enc, BitVec.getLsbD_extractLsb', BitVec.getLsbD_append]
  have h : i = 0 ∨ i = 1 ∨ i = 2 ∨ i = 3 ∨ i = 4 ∨ i = 5 ∨ i = 6 := by omega
  rcases h with rfl | rfl | rfl | rfl | rfl | rfl | rfl <;> simp
@[simp] theorem f6Of_enc (a : BitVec 7) (b c : BitVec 5) (d : BitVec 3) (e : BitVec 5) (o : BitVec 7) : f6Of (enc a b c d e o) = a.extractLsb' 1 6 := by
  apply BitVec.eq_of_getLsbD_eq; intro i hi
  simp only [f6Of, enc, BitVec.getLsbD_extractLsb', BitVec.getLsbD_append]
  have h : i = 0 ∨ i = 1 ∨ i = 2 ∨ i = 3 ∨ i = 4 ∨ i = 5 := by omega
  rcases h with rfl | rfl | rfl | rfl | rfl | rfl <;> simp
@[simp] theorem fmtOf_enc (a : BitVec 7) (b c : BitVec 5) (d : BitVec 3) (e : BitVec 5) (o : BitVec 7) : fmtOf (enc a b c d e o) = a.extractLsb' 0 2 := by
  apply BitVec.eq_of_getLsbD_eq; intro i hi
  simp only [fmtOf, enc, BitVec.getLsbD_extractLsb', BitVec.getLsbD_append]
  have h : i = 0 ∨ i = 1 := by omega
  rcases h with rfl | rfl <;> simp
@[simp] theorem f3r_enc (a : BitVec 7) (b c : BitVec 5) (d : BitVec 3) (e : BitVec 5) (o : BitVec 7) : f3r (enc a b c d e o) = a.extractLsb' 2 5 := by
  apply BitVec.eq_of_getLsbD_eq; intro i hi
  simp only [f3r, enc, BitVec.getLsbD_extractLsb', BitVec.getLsbD_append]
  have h : i = 0 ∨ i = 1 ∨ i = 2 ∨ i = 3 ∨ i = 4 := by omega
  rcases h with rfl | rfl | rfl | rfl | rfl <;> simp
@[simp] theorem fd_enc (a : BitVec 7) (b c : BitVec 5) (d : BitVec 3) (e : BitVec 5) (o : BitVec 7) : fd (enc a b c d e o) = e := by
  apply BitVec.eq_of_getLsbD_eq; intro i hi
  simp only [fd, enc, BitVec.getLsbD_extractLsb', BitVec.getLsbD_append]
  have h : i = 0 ∨ i = 1 ∨ i = 2 ∨ i = 3 ∨ i = 4 := by omega
  rcases h with rfl | rfl | rfl | rfl | rfl <;> simp
@[simp] theorem f1_enc (a : BitVec 7) (b c : BitVec 5) (d : BitVec 3) (e : BitVec 5) (o : BitVec 7) : f1 (enc a b c d e o) = c := by
  apply BitVec.eq_of_getLsbD_eq; intro i hi
  simp only [f1, enc, BitVec.getLsbD_extractLsb', BitVec.getLsbD_append]
  have h : i = 0 ∨ i = 1 ∨ i = 2 ∨ i = 3 ∨ i = 4 := by omega
  rcases h with rfl | rfl | rfl | rfl | rfl <;> simp
@[simp] theorem f2_enc (a : BitVec 7) (b c : BitVec 5) (d : BitVec 3) (e : BitVec 5) (o : BitVec 7) : f2 (enc a b c d e o) = b := by
  apply BitVec.eq_of_getLsbD_eq; intro i hi
  simp only [f2, enc, BitVec.getLsbD_extractLsb', BitVec.getLsbD_append]
  have h : i = 0 ∨ i = 1 ∨ i = 2 ∨ i = 3 ∨ i = 4 := by omega
  rcases h with rfl | rfl | rfl | rfl | rfl <;> simp
@[simp] theorem sh6_enc (a : BitVec 7) (b c : BitVec 5) (d : BitVec 3) (e : BitVec 5) (o : BitVec 7) : sh6 (enc a b c d e o) = a.extractLsb' 0 1 ++ b := by
  apply BitVec.eq_of_getLsbD_eq; intro i hi
  simp only [sh6, enc, BitVec.getLsbD_extractLsb', BitVec.getLsbD_append]
  have h : i = 0 ∨ i = 1 ∨ i = 2 ∨ i = 3 ∨ i = 4 ∨ i = 5 := by omega
  rcases h with rfl | rfl | rfl | rfl | rfl | rfl <;> simp
@[simp] theorem immI_enc (a : BitVec 7) (b c : BitVec 5) (d : BitVec 3) (e : BitVec 5) (o : BitVec 7) : immI (enc a b c d e o) = a ++ b := by
  apply BitVec.eq_of_getLsbD_eq; intro i hi
  simp only [immI, enc, BitVec.getLsbD_extractLsb', BitVec.getLsbD_append]
  have h : i = 0 ∨ i = 1 ∨ i = 2 ∨ i = 3 ∨ i = 4 ∨ i = 5 ∨ i = 6 ∨ i = 7 ∨ i = 8 ∨ i = 9 ∨ i = 10 ∨ i = 11 := by omega
  rcases h with rfl | rfl | rfl | rfl | rfl | rfl | rfl | rfl | rfl | rfl | rfl | rfl <;> simp
@[simp] theorem immU_encU (m : BitVec 20) (e : BitVec 5) (o : BitVec 7) : immU (encU m e o) = m := by
  apply BitVec.eq_of_getLsbD_eq; intro i hi
  simp only [immU, encU, BitVec.getLsbD_extractLsb', BitVec.getLsbD_append]
  have h : i = 0 ∨ i = 1 ∨ i = 2 ∨ i = 3 ∨ i = 4 ∨ i = 5 ∨ i = 6 ∨ i = 7 ∨ i = 8 ∨ i = 9 ∨ i = 10 ∨ i = 11 ∨ i = 12 ∨ i = 13 ∨ i = 14 ∨ i = 15 ∨ i = 16 ∨ i = 17 ∨ i = 18 ∨ i = 19 := by omega
  rcases h with rfl | rfl | rfl | rfl | rfl | rfl | rfl | rfl | rfl | rfl | rfl | rfl | rfl | rfl | rfl | rfl | rfl | rfl | rfl | rfl <;> simp
@[simp] theorem fd_encU (m : BitVec 20) (e : BitVec 5) (o : BitVec 7) : fd (encU m e o) = e := by
  apply BitVec.eq_of_getLsbD_eq; intro i hi
  simp only [fd, encU, BitVec.getLsbD_extractLsb', BitVec.getLsbD_append]
  have h : i = 0 ∨ i = 1 ∨ i = 2 ∨ i = 3 ∨ i = 4 := by omega
  rcases h with rfl | rfl | rfl | rfl | rfl <;> simp
@[simp] theorem opOf_encU (m : BitVec 20) (e : BitVec 5) (o : BitVec 7) : opOf (encU m e o) = o := by
  apply BitVec.eq_of_getLsbD_eq; intro i hi
  simp only [opOf, encU, BitVec.getLsbD_extractLsb', BitVec.getLsbD_append]
  have h : i = 0 ∨ i = 1 ∨ i = 2 ∨ i = 3 ∨ i = 4 ∨ i = 5 ∨ i = 6 := by omega
  rcases h with rfl | rfl | rfl | rfl | rfl | rfl | rfl <;> simp
@[simp] theorem immJ_encU (m : BitVec 20) (e : BitVec 5) (o : BitVec 7) : immJ (encU (jBits m) e o) = m := by
  apply BitVec.eq_of_getLsbD_eq; intro i hi
  simp only [immJ, encU, jBits, BitVec.getLsbD_extractLsb', BitVec.getLsbD_append]
  have h : i = 0 ∨ i = 1 ∨ i = 2 ∨ i = 3 ∨ i = 4 ∨ i = 5 ∨ i = 6 ∨ i = 7 ∨ i = 8 ∨ i = 9 ∨ i = 10 ∨ i = 11 ∨ i = 12 ∨ i = 13 ∨ i = 14 ∨ i = 15 ∨ i = 16 ∨ i = 17 ∨ i = 18 ∨ i = 19 := by omega
  rcases h with rfl | rfl | rfl | rfl | rfl | rfl | rfl | rfl | rfl | rfl | rfl | rfl | rfl | rfl | rfl | rfl | rfl | rfl | rfl | rfl <;> simp
@[simp] theorem hi7_lo5 (m : BitVec 12) : hi7 m ++ lo5 m = m := by
  apply BitVec.eq_of_getLsbD_eq; intro i hi
  simp only [hi7, lo5, BitVec.getLsbD_extractLsb', BitVec.getLsbD_append]
  have h : i = 0 ∨ i = 1 ∨ i = 2 ∨ i = 3 ∨ i = 4 ∨ i = 5 ∨ i = 6 ∨ i = 7 ∨ i = 8 ∨ i = 9 ∨ i = 10 ∨ i = 11 := by omega
  rcases h with rfl | rfl | rfl | rfl | rfl | rfl | rfl | rfl | rfl | rfl | rfl | rfl <;> simp
@[simp] theorem immB_enc (m : BitVec 12) (b c : BitVec 5) (d : BitVec 3) (o : BitVec 7) : immB (enc (bHi m) b c d (bLo m) o) = m := by
  apply BitVec.eq_of_getLsbD_eq; intro i hi
  simp only [immB, enc, bHi, bLo, BitVec.getLsbD_extractLsb', BitVec.getLsbD_append]
  have h : i = 0 ∨ i = 1 ∨ i = 2 ∨ i = 3 ∨ i = 4 ∨ i = 5 ∨ i = 6 ∨ i = 7 ∨ i = 8 ∨ i = 9 ∨ i = 10 ∨ i = 11 := by omega
  rcases h with rfl | rfl | rfl | rfl | rfl | rfl | rfl | rfl | rfl | rfl | rfl | rfl <;> simp
@[simp] theorem immS_enc (m : BitVec 12) (b c : BitVec 5) (d : BitVec 3) (o : BitVec 7) : immS (enc (hi7 m) b c d (lo5 m) o) = m := by
  rw [immS, f7Of_enc, fd_enc, hi7_lo5]
@[simp] theorem toFin_r5 (r : Fin 32) : (r5 r).toFin = r := rfl
@[simp] theorem rdOf_enc (a : BitVec 7) (b c : BitVec 5) (d : BitVec 3) (e : BitVec 5) (o : BitVec 7) : rdOf (enc a b c d e o) = e.toFin := by
  rw [rdOf, fd_enc]
@[simp] theorem rs1Of_enc (a : BitVec 7) (b c : BitVec 5) (d : BitVec 3) (e : BitVec 5) (o : BitVec 7) : rs1Of (enc a b c d e o) = c.toFin := by
  rw [rs1Of, f1_enc]
@[simp] theorem rs2Of_enc (a : BitVec 7) (b c : BitVec 5) (d : BitVec 3) (e : BitVec 5) (o : BitVec 7) : rs2Of (enc a b c d e o) = b.toFin := by
  rw [rs2Of, f2_enc]
@[simp] theorem rs3Of_enc (a : BitVec 7) (b c : BitVec 5) (d : BitVec 3) (e : BitVec 5) (o : BitVec 7) :
    rs3Of (enc a b c d e o) = (a.extractLsb' 2 5).toFin := by
  rw [rs3Of, f3r_enc]
@[simp] theorem rdOf_encU (m : BitVec 20) (e : BitVec 5) (o : BitVec 7) : rdOf (encU m e o) = e.toFin := by
  rw [rdOf, fd_encU]
/-- A prefix has opcode 0x0B and funct3 3; every other word of that opcode is no prefix. -/
theorem atOf_enc (a : BitVec 7) (b c : BitVec 5) (d : BitVec 3) (e : BitVec 5) (o : BitVec 7) (h : o ≠ 0x0B#7 ∨ d ≠ 3#3) :
    atOf (enc a b c d e o) = none := by
  rw [atOf, opOf_enc, f3Of_enc, if_neg]
  intro g
  exact h.elim (fun h => h g.1) (fun h => h g.2.1)
theorem extOf_enc (a : BitVec 7) (b c : BitVec 5) (d : BitVec 3) (e : BitVec 5) (o : BitVec 7) (h : o ≠ 0x0B#7 ∨ d ≠ 3#3) :
    extOf (enc a b c d e o) = none := by
  rw [extOf, opOf_enc, f3Of_enc, if_neg]
  intro g
  exact h.elim (fun h => h g.1) (fun h => h g.2.1)
/-- A word laid out as bytes and read back. -/
theorem wordOfBytes_bytes (w : Code) :
    wordOfBytes (w.extractLsb' 0 8) (w.extractLsb' 8 8) (w.extractLsb' 16 8) (w.extractLsb' 24 8) = w := by
  apply BitVec.eq_of_getLsbD_eq; intro i hi
  simp only [wordOfBytes, BitVec.getLsbD_append, BitVec.getLsbD_extractLsb']
  have h : i < 8 ∨ (8 ≤ i ∧ i < 16) ∨ (16 ≤ i ∧ i < 24) ∨ (24 ≤ i ∧ i < 32) := by omega
  rcases h with h | h | h | h
  · simp [h]
  · simp [show ¬ i < 8 by omega, show i - 8 < 8 by omega, show 8 + (i - 8) = i by omega]
  · simp [show ¬ i < 8 by omega, show ¬ i - 8 < 8 by omega, show i - 8 - 8 < 8 by omega, show 16 + (i - 8 - 8) = i by omega]
  · simp [show ¬ i < 8 by omega, show ¬ i - 8 < 8 by omega, show ¬ i - 8 - 8 < 8 by omega,
      show i - 8 - 8 - 8 < 8 by omega, show 24 + (i - 8 - 8 - 8) = i by omega]
theorem takeWord_bytes (w : Code) (bs : List Byte) : takeWord (bytesOfWord w ++ bs) = some (w, bs) := by
  simp [takeWord, bytesOfWord, wordOfBytes_bytes]

end Sys2Proof
end

