-- ==== Sys2Proof/Laws/SMap.lean ====
section
/-! SUPPORT. Sparse data: reading what was put, leaving the rest alone, and keeping the canonical form. -/

namespace Sys2Proof.Machine

variable {α : Type} {d : Nat → α}

theorem look_without (m : SMap α) (k i : Nat) : look d (without m k) i = if i = k then d k else look d m i := by
  induction m with
  | nil => by_cases e : i = k <;> simp [without, look, e]
  | cons p m ih =>
    obtain ⟨j, w⟩ := p
    unfold without
    by_cases h1 : j = k
    · subst h1
      rw [if_pos rfl, ih]
      by_cases h2 : i = j
      · simp [h2]
      · simp [h2, look, Ne.symm h2]
    · simp only [h1, if_false, look, ih]
      by_cases h2 : j = i
      · subst h2; simp [h1]
      · simp [h2]

/-- The value put is the value read, and every other key reads as before. -/
theorem look_put [DecidableEq α] (m : SMap α) (k i : Nat) (v : α) : look d (put d m k v) i = if i = k then v else look d m i := by
  induction m with
  | nil =>
    by_cases hv : v = d k
    · by_cases e : i = k <;> simp [put, look, hv, e]
    · by_cases e : i = k
      · simp [put, look, hv, e]
      · simp [put, look, hv, e, Ne.symm e]
  | cons p m ih =>
    obtain ⟨j, w⟩ := p
    unfold put
    by_cases h1 : k < j
    · have hj : j ≠ k := by omega
      by_cases hv : v = d k
      · simp only [h1, hv, if_true, look, look_without]
        by_cases e : i = k
        · simp [e, hj]
        · simp [e]
      · by_cases e : i = k
        · simp [h1, hv, look, e]
        · simp [h1, hv, look, e, Ne.symm e]
    · by_cases h2 : k = j
      · subst h2
        by_cases hv : v = d k
        · simp only [Nat.lt_irrefl, if_false, hv, if_true, look_without, look]
          by_cases e : i = k
          · simp [e]
          · simp [e, Ne.symm e]
        · by_cases e : i = k
          · simp [hv, look, e]
          · simp [hv, look, e, Ne.symm e]
      · simp only [h1, h2, if_false, look, ih]
        by_cases e : i = k
        · subst e; simp [Ne.symm h2]
        · simp [e]

theorem look_put_other [DecidableEq α] (m : SMap α) (k i : Nat) (v : α) (h : i ≠ k) : look d (put d m k v) i = look d m i := by
  rw [look_put, if_neg h]

theorem canonFrom_weaken [DecidableEq α] (n : SMap α) (a b : Nat) (ha : canonFrom d a n = true) (hb : b ≤ a) : canonFrom d b n = true := by
  cases n with
  | nil => rfl
  | cons q n => simp only [canonFrom, Bool.and_eq_true, decide_eq_true_eq] at ha ⊢; exact ⟨⟨by omega, ha.1.2⟩, ha.2⟩

theorem canonFrom_without [DecidableEq α] (m : SMap α) (k lo : Nat) (h : canonFrom d lo m = true) : canonFrom d lo (without m k) = true := by
  induction m generalizing lo with
  | nil => rfl
  | cons p m ih =>
    obtain ⟨j, w⟩ := p
    simp only [canonFrom, Bool.and_eq_true, decide_eq_true_eq] at h
    unfold without
    by_cases h1 : j = k
    · rw [if_pos h1]
      exact canonFrom_weaken _ (j + 1) lo (ih _ h.2) (by omega)
    · simp only [h1, if_false, canonFrom, Bool.and_eq_true, decide_eq_true_eq]
      exact ⟨h.1, ih _ h.2⟩

theorem canonFrom_put [DecidableEq α] (m : SMap α) (k : Nat) (v : α) (lo : Nat) (h : canonFrom d lo m = true) (hk : lo ≤ k) :
    canonFrom d lo (put d m k v) = true := by
  induction m generalizing lo with
  | nil => by_cases hv : v = d k <;> simp [put, canonFrom, hv, hk]
  | cons p m ih =>
    obtain ⟨j, w⟩ := p
    simp only [canonFrom, Bool.and_eq_true, decide_eq_true_eq] at h
    unfold put
    by_cases h1 : k < j
    · by_cases hv : v = d k
      · simp only [h1, hv, if_true, canonFrom, Bool.and_eq_true, decide_eq_true_eq]
        exact ⟨h.1, canonFrom_without _ _ _ h.2⟩
      · simp only [h1, hv, if_true, if_false, canonFrom, Bool.and_eq_true, decide_eq_true_eq]
        exact ⟨⟨hk, hv⟩, ⟨by omega, h.1.2⟩, h.2⟩
    · by_cases h2 : k = j
      · subst h2
        by_cases hv : v = d k
        · simp only [Nat.lt_irrefl, if_false, hv, if_true]
          exact canonFrom_weaken _ (k + 1) lo (canonFrom_without _ _ _ h.2) (by omega)
        · simp [hv, canonFrom, h]
      · simp only [h1, h2, if_false, canonFrom, Bool.and_eq_true, decide_eq_true_eq]
        exact ⟨h.1, ih (j + 1) h.2 (by omega)⟩

/-- A put keeps the canonical form. -/
theorem canon_put [DecidableEq α] (m : SMap α) (k : Nat) (v : α) (h : canon d m = true) : canon d (put d m k v) = true :=
  canonFrom_put m k v 0 h (Nat.zero_le k)

end Sys2Proof.Machine
end

