-- ==== Sys2Proof/Laws/Memory.lean ====
section
/-! SUPPORT. Memory: reading after writing, what a write leaves alone, and that every memory operation keeps the canonical form. -/

namespace Sys2Proof.Machine

theorem wf_put (m : List Host.Cell) (k : Nat) (b : Byte) (h : Memory.wf m = true) : Memory.wf (put byte0 m k b) = true := canon_put m k b h
theorem wf_writeNat (n : Nat) (m : List Host.Cell) (k v : Nat) (h : Memory.wf m = true) : Memory.wf (writeNat m k v n) = true := by
  induction n generalizing m k v with
  | zero => exact h
  | succ n ih => exact ih _ _ _ (wf_put m k _ h)
theorem wf_writeList (bs : List Byte) (m : List Host.Cell) (f : Nat → Nat) (i : Nat) (h : Memory.wf m = true) :
    Memory.wf (writeList m f i bs) = true := by
  induction bs generalizing m i with
  | nil => exact h
  | cons b bs ih => exact ih _ _ (wf_put m (f i) b h)
theorem wf_setByte (s : State) (k : Nat) (b : Byte) (h : Memory.wf s.mem = true) : Memory.wf (s.setByte k b).mem = true := wf_put s.mem k b h
theorem wf_write (s : State) (k n : Nat) (v : Word) (h : Memory.wf s.mem = true) : Memory.wf (s.write k n v).mem = true :=
  wf_writeNat n s.mem k v.toNat h
theorem wf_writeBytes (s : State) (f : Nat → Nat) (bs : List Byte) (h : Memory.wf s.mem = true) : Memory.wf (s.writeBytes f bs).mem = true :=
  wf_writeList bs s.mem f 0 h

/-- A byte outside a written span reads as before. -/
theorem look_writeNat_other (n : Nat) (m : List Host.Cell) (k v a : Nat) (h : a < k ∨ k + n ≤ a) :
    look byte0 (writeNat m k v n) a = look byte0 m a := by
  induction n generalizing m k v with
  | zero => rfl
  | succ n ih => rw [writeNat, ih _ _ _ (by omega), look_put_other _ _ _ _ (by omega)]
/-- Byte i of a written span holds byte i of the value. -/
theorem look_writeNat_in (n : Nat) (m : List Host.Cell) (k v i : Nat) (hi : i < n) :
    look byte0 (writeNat m k v n) (k + i) = BitVec.ofNat 8 (v / 256 ^ i) := by
  induction n generalizing m k v i with
  | zero => omega
  | succ n ih =>
    cases i with
    | zero =>
      rw [writeNat, look_writeNat_other n _ (k + 1) _ (k + 0) (by omega), look_put]
      simp
    | succ i =>
      have e : k + (i + 1) = (k + 1) + i := by omega
      rw [writeNat, e, ih _ (k + 1) (v / 256) i (by omega), Nat.div_div_eq_div_mul, Nat.pow_succ, Nat.mul_comm]
theorem readNat_congr (n : Nat) (m m' : List Host.Cell) (k : Nat) (h : ∀ i, i < n → look byte0 m (k + i) = look byte0 m' (k + i)) :
    readNat m k n = readNat m' k n := by
  induction n generalizing k with
  | zero => rfl
  | succ n ih =>
    have h0 := h 0 (by omega)
    simp only [Nat.add_zero] at h0
    rw [readNat, readNat, h0, ih (k + 1) (fun i hi => by
      have := h (i + 1) (by omega)
      rwa [show k + (i + 1) = k + 1 + i by omega] at this)]
/-- A read of a span that a write left alone. -/
theorem readNat_writeNat_other (n l : Nat) (m : List Host.Cell) (k v a : Nat) (h : a + l ≤ k ∨ k + n ≤ a) :
    readNat (writeNat m k v n) a l = readNat m a l :=
  readNat_congr l _ _ a (fun i hi => look_writeNat_other n m k v (a + i) (by omega))
/-- A read of the span just written gives the low bytes of the value. -/
theorem readNat_writeNat (n : Nat) (m : List Host.Cell) (k v : Nat) : readNat (writeNat m k v n) k n = v % 256 ^ n := by
  induction n generalizing m k v with
  | zero => simp [readNat, Nat.mod_one]
  | succ n ih =>
    have h0 := look_writeNat_in (n + 1) m k v 0 (by omega)
    simp only [Nat.add_zero, Nat.pow_zero, Nat.div_one] at h0
    have e : (256 : Nat) ^ (n + 1) = 256 * 256 ^ n := by rw [Nat.pow_succ, Nat.mul_comm]
    rw [readNat, h0, writeNat, ih _ (k + 1) (v / 256), BitVec.toNat_ofNat, e, Nat.mod_mul]
theorem look_writeList_other (bs : List Byte) (m : List Host.Cell) (f : Nat → Nat) (i a : Nat) (h : ∀ j, i ≤ j → j < i + bs.length → f j ≠ a) :
    look byte0 (writeList m f i bs) a = look byte0 m a := by
  induction bs generalizing m i with
  | nil => rfl
  | cons b bs ih =>
    simp only [List.length_cons] at h
    rw [writeList, ih _ (i + 1) (fun j h1 h2 => h j (by omega) (by omega)), look_put_other _ _ _ _ (fun e => h i (by omega) (by omega) e.symm)]
/-- Reading the byte at a place outside written places. -/
theorem byte_writeBytes_other (s : State) (f : Nat → Nat) (bs : List Byte) (a : Nat) (h : ∀ j, j < bs.length → f j ≠ a) :
    (s.writeBytes f bs).byte a = s.byte a :=
  look_writeList_other bs s.mem f 0 a (fun j _ h2 => h j (by omega))
theorem byte_write_other (s : State) (k n : Nat) (v : Word) (a : Nat) (h : a < k ∨ k + n ≤ a) : (s.write k n v).byte a = s.byte a :=
  look_writeNat_other n s.mem k v.toNat a h
theorem read_write_same (s : State) (k n : Nat) (v : Word) : (s.write k n v).read k n = BitVec.ofNat 64 (v.toNat % 256 ^ n) := by
  show BitVec.ofNat 64 (readNat (writeNat s.mem k v.toNat n) k n) = _
  rw [readNat_writeNat n s.mem k v.toNat]

end Sys2Proof.Machine
end

