-- ==== Sys2Proof/Laws/State.lean ====
section
/-! SUPPORT. One lemma per field and update of the state, so that no proof unfolds a record update; what the x registers read. -/

namespace Sys2Proof.Machine

@[simp] theorem State.setCluster_cur (s : State) (c : Nat) (x : Cluster) : (s.setCluster c x).cur = s.cur := rfl
@[simp] theorem State.setCluster_focus (s : State) (c : Nat) (x : Cluster) : (s.setCluster c x).focus = s.focus := rfl
@[simp] theorem State.setCluster_others (s : State) (c : Nat) (x : Cluster) : (s.setCluster c x).others = s.others := rfl
@[simp] theorem State.setCluster_mem (s : State) (c : Nat) (x : Cluster) : (s.setCluster c x).mem = s.mem := rfl
@[simp] theorem State.setCluster_now (s : State) (c : Nat) (x : Cluster) : (s.setCluster c x).now = s.now := rfl
@[simp] theorem State.setCluster_pace (s : State) (c : Nat) (x : Cluster) : (s.setCluster c x).pace = s.pace := rfl
@[simp] theorem State.setCluster_agenda (s : State) (c : Nat) (x : Cluster) : (s.setCluster c x).agenda = s.agenda := rfl
@[simp] theorem State.setCluster_choice (s : State) (c : Nat) (x : Cluster) : (s.setCluster c x).choice = s.choice := rfl
@[simp] theorem State.setCluster_free (s : State) (c : Nat) (x : Cluster) : (s.setCluster c x).free = s.free := rfl
@[simp] theorem State.setCluster_fids (s : State) (c : Nat) (x : Cluster) : (s.setCluster c x).fids = s.fids := rfl
@[simp] theorem State.setCluster_laws (s : State) (c : Nat) (x : Cluster) : (s.setCluster c x).laws = s.laws := rfl
@[simp] theorem State.setCluster_clusters (s : State) (c : Nat) (x : Cluster) : (s.setCluster c x).clusters = put cluster0 s.clusters c x := rfl
@[simp] theorem State.setCluster_stks (s : State) (c : Nat) (x : Cluster) : (s.setCluster c x).stks = s.stks := rfl
@[simp] theorem State.setCluster_dies (s : State) (c : Nat) (x : Cluster) : (s.setCluster c x).dies = s.dies := rfl
@[simp] theorem State.setCluster_parts (s : State) (c : Nat) (x : Cluster) : (s.setCluster c x).parts = s.parts := rfl
@[simp] theorem State.setCluster_flights (s : State) (c : Nat) (x : Cluster) : (s.setCluster c x).flights = s.flights := rfl
@[simp] theorem State.setCluster_replies (s : State) (c : Nat) (x : Cluster) : (s.setCluster c x).replies = s.replies := rfl
@[simp] theorem State.setCluster_releases (s : State) (c : Nat) (x : Cluster) : (s.setCluster c x).releases = s.releases := rfl
@[simp] theorem State.setCluster_vis (s : State) (c : Nat) (x : Cluster) : (s.setCluster c x).vis = s.vis := rfl
@[simp] theorem State.setCluster_tokens (s : State) (c : Nat) (x : Cluster) : (s.setCluster c x).tokens = s.tokens := rfl
@[simp] theorem State.setCluster_blocked (s : State) (c : Nat) (x : Cluster) : (s.setCluster c x).blocked = s.blocked := rfl
@[simp] theorem State.setCluster_shoots (s : State) (c : Nat) (x : Cluster) : (s.setCluster c x).shoots = s.shoots := rfl
@[simp] theorem State.setCluster_switches (s : State) (c : Nat) (x : Cluster) : (s.setCluster c x).switches = s.switches := rfl
@[simp] theorem State.setCluster_saved (s : State) (c : Nat) (x : Cluster) : (s.setCluster c x).saved = s.saved := rfl
@[simp] theorem State.setCluster_pens (s : State) (c : Nat) (x : Cluster) : (s.setCluster c x).pens = s.pens := rfl
@[simp] theorem State.setCluster_dev (s : State) (c : Nat) (x : Cluster) : (s.setCluster c x).dev = s.dev := rfl
@[simp] theorem State.setCluster_logged (s : State) (c : Nat) (x : Cluster) : (s.setCluster c x).logged = s.logged := rfl

@[simp] theorem State.setStack_cur (s : State) (g : Nat) (x : Stack) : (s.setStack g x).cur = s.cur := rfl
@[simp] theorem State.setStack_focus (s : State) (g : Nat) (x : Stack) : (s.setStack g x).focus = s.focus := rfl
@[simp] theorem State.setStack_others (s : State) (g : Nat) (x : Stack) : (s.setStack g x).others = s.others := rfl
@[simp] theorem State.setStack_mem (s : State) (g : Nat) (x : Stack) : (s.setStack g x).mem = s.mem := rfl
@[simp] theorem State.setStack_now (s : State) (g : Nat) (x : Stack) : (s.setStack g x).now = s.now := rfl
@[simp] theorem State.setStack_pace (s : State) (g : Nat) (x : Stack) : (s.setStack g x).pace = s.pace := rfl
@[simp] theorem State.setStack_agenda (s : State) (g : Nat) (x : Stack) : (s.setStack g x).agenda = s.agenda := rfl
@[simp] theorem State.setStack_choice (s : State) (g : Nat) (x : Stack) : (s.setStack g x).choice = s.choice := rfl
@[simp] theorem State.setStack_free (s : State) (g : Nat) (x : Stack) : (s.setStack g x).free = s.free := rfl
@[simp] theorem State.setStack_fids (s : State) (g : Nat) (x : Stack) : (s.setStack g x).fids = s.fids := rfl
@[simp] theorem State.setStack_laws (s : State) (g : Nat) (x : Stack) : (s.setStack g x).laws = s.laws := rfl
@[simp] theorem State.setStack_clusters (s : State) (g : Nat) (x : Stack) : (s.setStack g x).clusters = s.clusters := rfl
@[simp] theorem State.setStack_stks (s : State) (g : Nat) (x : Stack) : (s.setStack g x).stks = put stack0 s.stks g x := rfl
@[simp] theorem State.setStack_dies (s : State) (g : Nat) (x : Stack) : (s.setStack g x).dies = s.dies := rfl
@[simp] theorem State.setStack_parts (s : State) (g : Nat) (x : Stack) : (s.setStack g x).parts = s.parts := rfl
@[simp] theorem State.setStack_flights (s : State) (g : Nat) (x : Stack) : (s.setStack g x).flights = s.flights := rfl
@[simp] theorem State.setStack_replies (s : State) (g : Nat) (x : Stack) : (s.setStack g x).replies = s.replies := rfl
@[simp] theorem State.setStack_releases (s : State) (g : Nat) (x : Stack) : (s.setStack g x).releases = s.releases := rfl
@[simp] theorem State.setStack_vis (s : State) (g : Nat) (x : Stack) : (s.setStack g x).vis = s.vis := rfl
@[simp] theorem State.setStack_tokens (s : State) (g : Nat) (x : Stack) : (s.setStack g x).tokens = s.tokens := rfl
@[simp] theorem State.setStack_blocked (s : State) (g : Nat) (x : Stack) : (s.setStack g x).blocked = s.blocked := rfl
@[simp] theorem State.setStack_shoots (s : State) (g : Nat) (x : Stack) : (s.setStack g x).shoots = s.shoots := rfl
@[simp] theorem State.setStack_switches (s : State) (g : Nat) (x : Stack) : (s.setStack g x).switches = s.switches := rfl
@[simp] theorem State.setStack_saved (s : State) (g : Nat) (x : Stack) : (s.setStack g x).saved = s.saved := rfl
@[simp] theorem State.setStack_pens (s : State) (g : Nat) (x : Stack) : (s.setStack g x).pens = s.pens := rfl
@[simp] theorem State.setStack_dev (s : State) (g : Nat) (x : Stack) : (s.setStack g x).dev = s.dev := rfl
@[simp] theorem State.setStack_logged (s : State) (g : Nat) (x : Stack) : (s.setStack g x).logged = s.logged := rfl

@[simp] theorem State.setDie_cur (s : State) (d : Nat) (x : Die) : (s.setDie d x).cur = s.cur := rfl
@[simp] theorem State.setDie_focus (s : State) (d : Nat) (x : Die) : (s.setDie d x).focus = s.focus := rfl
@[simp] theorem State.setDie_others (s : State) (d : Nat) (x : Die) : (s.setDie d x).others = s.others := rfl
@[simp] theorem State.setDie_mem (s : State) (d : Nat) (x : Die) : (s.setDie d x).mem = s.mem := rfl
@[simp] theorem State.setDie_now (s : State) (d : Nat) (x : Die) : (s.setDie d x).now = s.now := rfl
@[simp] theorem State.setDie_pace (s : State) (d : Nat) (x : Die) : (s.setDie d x).pace = s.pace := rfl
@[simp] theorem State.setDie_agenda (s : State) (d : Nat) (x : Die) : (s.setDie d x).agenda = s.agenda := rfl
@[simp] theorem State.setDie_choice (s : State) (d : Nat) (x : Die) : (s.setDie d x).choice = s.choice := rfl
@[simp] theorem State.setDie_free (s : State) (d : Nat) (x : Die) : (s.setDie d x).free = s.free := rfl
@[simp] theorem State.setDie_fids (s : State) (d : Nat) (x : Die) : (s.setDie d x).fids = s.fids := rfl
@[simp] theorem State.setDie_laws (s : State) (d : Nat) (x : Die) : (s.setDie d x).laws = s.laws := rfl
@[simp] theorem State.setDie_clusters (s : State) (d : Nat) (x : Die) : (s.setDie d x).clusters = s.clusters := rfl
@[simp] theorem State.setDie_stks (s : State) (d : Nat) (x : Die) : (s.setDie d x).stks = s.stks := rfl
@[simp] theorem State.setDie_dies (s : State) (d : Nat) (x : Die) : (s.setDie d x).dies = put die0 s.dies d x := rfl
@[simp] theorem State.setDie_parts (s : State) (d : Nat) (x : Die) : (s.setDie d x).parts = s.parts := rfl
@[simp] theorem State.setDie_flights (s : State) (d : Nat) (x : Die) : (s.setDie d x).flights = s.flights := rfl
@[simp] theorem State.setDie_replies (s : State) (d : Nat) (x : Die) : (s.setDie d x).replies = s.replies := rfl
@[simp] theorem State.setDie_releases (s : State) (d : Nat) (x : Die) : (s.setDie d x).releases = s.releases := rfl
@[simp] theorem State.setDie_vis (s : State) (d : Nat) (x : Die) : (s.setDie d x).vis = s.vis := rfl
@[simp] theorem State.setDie_tokens (s : State) (d : Nat) (x : Die) : (s.setDie d x).tokens = s.tokens := rfl
@[simp] theorem State.setDie_blocked (s : State) (d : Nat) (x : Die) : (s.setDie d x).blocked = s.blocked := rfl
@[simp] theorem State.setDie_shoots (s : State) (d : Nat) (x : Die) : (s.setDie d x).shoots = s.shoots := rfl
@[simp] theorem State.setDie_switches (s : State) (d : Nat) (x : Die) : (s.setDie d x).switches = s.switches := rfl
@[simp] theorem State.setDie_saved (s : State) (d : Nat) (x : Die) : (s.setDie d x).saved = s.saved := rfl
@[simp] theorem State.setDie_pens (s : State) (d : Nat) (x : Die) : (s.setDie d x).pens = s.pens := rfl
@[simp] theorem State.setDie_dev (s : State) (d : Nat) (x : Die) : (s.setDie d x).dev = s.dev := rfl
@[simp] theorem State.setDie_logged (s : State) (d : Nat) (x : Die) : (s.setDie d x).logged = s.logged := rfl

@[simp] theorem State.setPart_cur (s : State) (p : Nat) (x : Part) : (s.setPart p x).cur = s.cur := rfl
@[simp] theorem State.setPart_focus (s : State) (p : Nat) (x : Part) : (s.setPart p x).focus = s.focus := rfl
@[simp] theorem State.setPart_others (s : State) (p : Nat) (x : Part) : (s.setPart p x).others = s.others := rfl
@[simp] theorem State.setPart_mem (s : State) (p : Nat) (x : Part) : (s.setPart p x).mem = s.mem := rfl
@[simp] theorem State.setPart_now (s : State) (p : Nat) (x : Part) : (s.setPart p x).now = s.now := rfl
@[simp] theorem State.setPart_pace (s : State) (p : Nat) (x : Part) : (s.setPart p x).pace = s.pace := rfl
@[simp] theorem State.setPart_agenda (s : State) (p : Nat) (x : Part) : (s.setPart p x).agenda = s.agenda := rfl
@[simp] theorem State.setPart_choice (s : State) (p : Nat) (x : Part) : (s.setPart p x).choice = s.choice := rfl
@[simp] theorem State.setPart_free (s : State) (p : Nat) (x : Part) : (s.setPart p x).free = s.free := rfl
@[simp] theorem State.setPart_fids (s : State) (p : Nat) (x : Part) : (s.setPart p x).fids = s.fids := rfl
@[simp] theorem State.setPart_laws (s : State) (p : Nat) (x : Part) : (s.setPart p x).laws = s.laws := rfl
@[simp] theorem State.setPart_clusters (s : State) (p : Nat) (x : Part) : (s.setPart p x).clusters = s.clusters := rfl
@[simp] theorem State.setPart_stks (s : State) (p : Nat) (x : Part) : (s.setPart p x).stks = s.stks := rfl
@[simp] theorem State.setPart_dies (s : State) (p : Nat) (x : Part) : (s.setPart p x).dies = s.dies := rfl
@[simp] theorem State.setPart_parts (s : State) (p : Nat) (x : Part) : (s.setPart p x).parts = put part0 s.parts p x := rfl
@[simp] theorem State.setPart_flights (s : State) (p : Nat) (x : Part) : (s.setPart p x).flights = s.flights := rfl
@[simp] theorem State.setPart_replies (s : State) (p : Nat) (x : Part) : (s.setPart p x).replies = s.replies := rfl
@[simp] theorem State.setPart_releases (s : State) (p : Nat) (x : Part) : (s.setPart p x).releases = s.releases := rfl
@[simp] theorem State.setPart_vis (s : State) (p : Nat) (x : Part) : (s.setPart p x).vis = s.vis := rfl
@[simp] theorem State.setPart_tokens (s : State) (p : Nat) (x : Part) : (s.setPart p x).tokens = s.tokens := rfl
@[simp] theorem State.setPart_blocked (s : State) (p : Nat) (x : Part) : (s.setPart p x).blocked = s.blocked := rfl
@[simp] theorem State.setPart_shoots (s : State) (p : Nat) (x : Part) : (s.setPart p x).shoots = s.shoots := rfl
@[simp] theorem State.setPart_switches (s : State) (p : Nat) (x : Part) : (s.setPart p x).switches = s.switches := rfl
@[simp] theorem State.setPart_saved (s : State) (p : Nat) (x : Part) : (s.setPart p x).saved = s.saved := rfl
@[simp] theorem State.setPart_pens (s : State) (p : Nat) (x : Part) : (s.setPart p x).pens = s.pens := rfl
@[simp] theorem State.setPart_dev (s : State) (p : Nat) (x : Part) : (s.setPart p x).dev = s.dev := rfl
@[simp] theorem State.setPart_logged (s : State) (p : Nat) (x : Part) : (s.setPart p x).logged = s.logged := rfl

@[simp] theorem State.setLaw_cur (s : State) (l : Nat) (x : LawUnit) : (s.setLaw l x).cur = s.cur := rfl
@[simp] theorem State.setLaw_focus (s : State) (l : Nat) (x : LawUnit) : (s.setLaw l x).focus = s.focus := rfl
@[simp] theorem State.setLaw_others (s : State) (l : Nat) (x : LawUnit) : (s.setLaw l x).others = s.others := rfl
@[simp] theorem State.setLaw_mem (s : State) (l : Nat) (x : LawUnit) : (s.setLaw l x).mem = s.mem := rfl
@[simp] theorem State.setLaw_now (s : State) (l : Nat) (x : LawUnit) : (s.setLaw l x).now = s.now := rfl
@[simp] theorem State.setLaw_pace (s : State) (l : Nat) (x : LawUnit) : (s.setLaw l x).pace = s.pace := rfl
@[simp] theorem State.setLaw_agenda (s : State) (l : Nat) (x : LawUnit) : (s.setLaw l x).agenda = s.agenda := rfl
@[simp] theorem State.setLaw_choice (s : State) (l : Nat) (x : LawUnit) : (s.setLaw l x).choice = s.choice := rfl
@[simp] theorem State.setLaw_free (s : State) (l : Nat) (x : LawUnit) : (s.setLaw l x).free = s.free := rfl
@[simp] theorem State.setLaw_fids (s : State) (l : Nat) (x : LawUnit) : (s.setLaw l x).fids = s.fids := rfl
@[simp] theorem State.setLaw_laws (s : State) (l : Nat) (x : LawUnit) : (s.setLaw l x).laws = put law0 s.laws l x := rfl
@[simp] theorem State.setLaw_clusters (s : State) (l : Nat) (x : LawUnit) : (s.setLaw l x).clusters = s.clusters := rfl
@[simp] theorem State.setLaw_stks (s : State) (l : Nat) (x : LawUnit) : (s.setLaw l x).stks = s.stks := rfl
@[simp] theorem State.setLaw_dies (s : State) (l : Nat) (x : LawUnit) : (s.setLaw l x).dies = s.dies := rfl
@[simp] theorem State.setLaw_parts (s : State) (l : Nat) (x : LawUnit) : (s.setLaw l x).parts = s.parts := rfl
@[simp] theorem State.setLaw_flights (s : State) (l : Nat) (x : LawUnit) : (s.setLaw l x).flights = s.flights := rfl
@[simp] theorem State.setLaw_replies (s : State) (l : Nat) (x : LawUnit) : (s.setLaw l x).replies = s.replies := rfl
@[simp] theorem State.setLaw_releases (s : State) (l : Nat) (x : LawUnit) : (s.setLaw l x).releases = s.releases := rfl
@[simp] theorem State.setLaw_vis (s : State) (l : Nat) (x : LawUnit) : (s.setLaw l x).vis = s.vis := rfl
@[simp] theorem State.setLaw_tokens (s : State) (l : Nat) (x : LawUnit) : (s.setLaw l x).tokens = s.tokens := rfl
@[simp] theorem State.setLaw_blocked (s : State) (l : Nat) (x : LawUnit) : (s.setLaw l x).blocked = s.blocked := rfl
@[simp] theorem State.setLaw_shoots (s : State) (l : Nat) (x : LawUnit) : (s.setLaw l x).shoots = s.shoots := rfl
@[simp] theorem State.setLaw_switches (s : State) (l : Nat) (x : LawUnit) : (s.setLaw l x).switches = s.switches := rfl
@[simp] theorem State.setLaw_saved (s : State) (l : Nat) (x : LawUnit) : (s.setLaw l x).saved = s.saved := rfl
@[simp] theorem State.setLaw_pens (s : State) (l : Nat) (x : LawUnit) : (s.setLaw l x).pens = s.pens := rfl
@[simp] theorem State.setLaw_dev (s : State) (l : Nat) (x : LawUnit) : (s.setLaw l x).dev = s.dev := rfl
@[simp] theorem State.setLaw_logged (s : State) (l : Nat) (x : LawUnit) : (s.setLaw l x).logged = s.logged := rfl

@[simp] theorem State.setReg_cur (s : State) (r : Reg) (v : Word) : (s.setReg r v).cur = { s.cur with x := setX s.cur.x r v } := rfl
@[simp] theorem State.setReg_focus (s : State) (r : Reg) (v : Word) : (s.setReg r v).focus = s.focus := rfl
@[simp] theorem State.setReg_others (s : State) (r : Reg) (v : Word) : (s.setReg r v).others = s.others := rfl
@[simp] theorem State.setReg_mem (s : State) (r : Reg) (v : Word) : (s.setReg r v).mem = s.mem := rfl
@[simp] theorem State.setReg_now (s : State) (r : Reg) (v : Word) : (s.setReg r v).now = s.now := rfl
@[simp] theorem State.setReg_pace (s : State) (r : Reg) (v : Word) : (s.setReg r v).pace = s.pace := rfl
@[simp] theorem State.setReg_agenda (s : State) (r : Reg) (v : Word) : (s.setReg r v).agenda = s.agenda := rfl
@[simp] theorem State.setReg_choice (s : State) (r : Reg) (v : Word) : (s.setReg r v).choice = s.choice := rfl
@[simp] theorem State.setReg_free (s : State) (r : Reg) (v : Word) : (s.setReg r v).free = s.free := rfl
@[simp] theorem State.setReg_fids (s : State) (r : Reg) (v : Word) : (s.setReg r v).fids = s.fids := rfl
@[simp] theorem State.setReg_laws (s : State) (r : Reg) (v : Word) : (s.setReg r v).laws = s.laws := rfl
@[simp] theorem State.setReg_clusters (s : State) (r : Reg) (v : Word) : (s.setReg r v).clusters = s.clusters := rfl
@[simp] theorem State.setReg_stks (s : State) (r : Reg) (v : Word) : (s.setReg r v).stks = s.stks := rfl
@[simp] theorem State.setReg_dies (s : State) (r : Reg) (v : Word) : (s.setReg r v).dies = s.dies := rfl
@[simp] theorem State.setReg_parts (s : State) (r : Reg) (v : Word) : (s.setReg r v).parts = s.parts := rfl
@[simp] theorem State.setReg_flights (s : State) (r : Reg) (v : Word) : (s.setReg r v).flights = s.flights := rfl
@[simp] theorem State.setReg_replies (s : State) (r : Reg) (v : Word) : (s.setReg r v).replies = s.replies := rfl
@[simp] theorem State.setReg_releases (s : State) (r : Reg) (v : Word) : (s.setReg r v).releases = s.releases := rfl
@[simp] theorem State.setReg_vis (s : State) (r : Reg) (v : Word) : (s.setReg r v).vis = s.vis := rfl
@[simp] theorem State.setReg_tokens (s : State) (r : Reg) (v : Word) : (s.setReg r v).tokens = s.tokens := rfl
@[simp] theorem State.setReg_blocked (s : State) (r : Reg) (v : Word) : (s.setReg r v).blocked = s.blocked := rfl
@[simp] theorem State.setReg_shoots (s : State) (r : Reg) (v : Word) : (s.setReg r v).shoots = s.shoots := rfl
@[simp] theorem State.setReg_switches (s : State) (r : Reg) (v : Word) : (s.setReg r v).switches = s.switches := rfl
@[simp] theorem State.setReg_saved (s : State) (r : Reg) (v : Word) : (s.setReg r v).saved = s.saved := rfl
@[simp] theorem State.setReg_pens (s : State) (r : Reg) (v : Word) : (s.setReg r v).pens = s.pens := rfl
@[simp] theorem State.setReg_dev (s : State) (r : Reg) (v : Word) : (s.setReg r v).dev = s.dev := rfl
@[simp] theorem State.setReg_logged (s : State) (r : Reg) (v : Word) : (s.setReg r v).logged = s.logged := rfl

@[simp] theorem State.setByte_cur (s : State) (k : Nat) (b : Byte) : (s.setByte k b).cur = s.cur := rfl
@[simp] theorem State.setByte_focus (s : State) (k : Nat) (b : Byte) : (s.setByte k b).focus = s.focus := rfl
@[simp] theorem State.setByte_others (s : State) (k : Nat) (b : Byte) : (s.setByte k b).others = s.others := rfl
@[simp] theorem State.setByte_mem (s : State) (k : Nat) (b : Byte) : (s.setByte k b).mem = put byte0 s.mem k b := rfl
@[simp] theorem State.setByte_now (s : State) (k : Nat) (b : Byte) : (s.setByte k b).now = s.now := rfl
@[simp] theorem State.setByte_pace (s : State) (k : Nat) (b : Byte) : (s.setByte k b).pace = s.pace := rfl
@[simp] theorem State.setByte_agenda (s : State) (k : Nat) (b : Byte) : (s.setByte k b).agenda = s.agenda := rfl
@[simp] theorem State.setByte_choice (s : State) (k : Nat) (b : Byte) : (s.setByte k b).choice = s.choice := rfl
@[simp] theorem State.setByte_free (s : State) (k : Nat) (b : Byte) : (s.setByte k b).free = s.free := rfl
@[simp] theorem State.setByte_fids (s : State) (k : Nat) (b : Byte) : (s.setByte k b).fids = s.fids := rfl
@[simp] theorem State.setByte_laws (s : State) (k : Nat) (b : Byte) : (s.setByte k b).laws = s.laws := rfl
@[simp] theorem State.setByte_clusters (s : State) (k : Nat) (b : Byte) : (s.setByte k b).clusters = s.clusters := rfl
@[simp] theorem State.setByte_stks (s : State) (k : Nat) (b : Byte) : (s.setByte k b).stks = s.stks := rfl
@[simp] theorem State.setByte_dies (s : State) (k : Nat) (b : Byte) : (s.setByte k b).dies = s.dies := rfl
@[simp] theorem State.setByte_parts (s : State) (k : Nat) (b : Byte) : (s.setByte k b).parts = s.parts := rfl
@[simp] theorem State.setByte_flights (s : State) (k : Nat) (b : Byte) : (s.setByte k b).flights = s.flights := rfl
@[simp] theorem State.setByte_replies (s : State) (k : Nat) (b : Byte) : (s.setByte k b).replies = s.replies := rfl
@[simp] theorem State.setByte_releases (s : State) (k : Nat) (b : Byte) : (s.setByte k b).releases = s.releases := rfl
@[simp] theorem State.setByte_vis (s : State) (k : Nat) (b : Byte) : (s.setByte k b).vis = s.vis := rfl
@[simp] theorem State.setByte_tokens (s : State) (k : Nat) (b : Byte) : (s.setByte k b).tokens = s.tokens := rfl
@[simp] theorem State.setByte_blocked (s : State) (k : Nat) (b : Byte) : (s.setByte k b).blocked = s.blocked := rfl
@[simp] theorem State.setByte_shoots (s : State) (k : Nat) (b : Byte) : (s.setByte k b).shoots = s.shoots := rfl
@[simp] theorem State.setByte_switches (s : State) (k : Nat) (b : Byte) : (s.setByte k b).switches = s.switches := rfl
@[simp] theorem State.setByte_saved (s : State) (k : Nat) (b : Byte) : (s.setByte k b).saved = s.saved := rfl
@[simp] theorem State.setByte_pens (s : State) (k : Nat) (b : Byte) : (s.setByte k b).pens = s.pens := rfl
@[simp] theorem State.setByte_dev (s : State) (k : Nat) (b : Byte) : (s.setByte k b).dev = s.dev := rfl
@[simp] theorem State.setByte_logged (s : State) (k : Nat) (b : Byte) : (s.setByte k b).logged = s.logged := rfl

@[simp] theorem State.write_cur (s : State) (k n : Nat) (v : Word) : (s.write k n v).cur = s.cur := rfl
@[simp] theorem State.write_focus (s : State) (k n : Nat) (v : Word) : (s.write k n v).focus = s.focus := rfl
@[simp] theorem State.write_others (s : State) (k n : Nat) (v : Word) : (s.write k n v).others = s.others := rfl
@[simp] theorem State.write_mem (s : State) (k n : Nat) (v : Word) : (s.write k n v).mem = writeNat s.mem k v.toNat n := rfl
@[simp] theorem State.write_now (s : State) (k n : Nat) (v : Word) : (s.write k n v).now = s.now := rfl
@[simp] theorem State.write_pace (s : State) (k n : Nat) (v : Word) : (s.write k n v).pace = s.pace := rfl
@[simp] theorem State.write_agenda (s : State) (k n : Nat) (v : Word) : (s.write k n v).agenda = s.agenda := rfl
@[simp] theorem State.write_choice (s : State) (k n : Nat) (v : Word) : (s.write k n v).choice = s.choice := rfl
@[simp] theorem State.write_free (s : State) (k n : Nat) (v : Word) : (s.write k n v).free = s.free := rfl
@[simp] theorem State.write_fids (s : State) (k n : Nat) (v : Word) : (s.write k n v).fids = s.fids := rfl
@[simp] theorem State.write_laws (s : State) (k n : Nat) (v : Word) : (s.write k n v).laws = s.laws := rfl
@[simp] theorem State.write_clusters (s : State) (k n : Nat) (v : Word) : (s.write k n v).clusters = s.clusters := rfl
@[simp] theorem State.write_stks (s : State) (k n : Nat) (v : Word) : (s.write k n v).stks = s.stks := rfl
@[simp] theorem State.write_dies (s : State) (k n : Nat) (v : Word) : (s.write k n v).dies = s.dies := rfl
@[simp] theorem State.write_parts (s : State) (k n : Nat) (v : Word) : (s.write k n v).parts = s.parts := rfl
@[simp] theorem State.write_flights (s : State) (k n : Nat) (v : Word) : (s.write k n v).flights = s.flights := rfl
@[simp] theorem State.write_replies (s : State) (k n : Nat) (v : Word) : (s.write k n v).replies = s.replies := rfl
@[simp] theorem State.write_releases (s : State) (k n : Nat) (v : Word) : (s.write k n v).releases = s.releases := rfl
@[simp] theorem State.write_vis (s : State) (k n : Nat) (v : Word) : (s.write k n v).vis = s.vis := rfl
@[simp] theorem State.write_tokens (s : State) (k n : Nat) (v : Word) : (s.write k n v).tokens = s.tokens := rfl
@[simp] theorem State.write_blocked (s : State) (k n : Nat) (v : Word) : (s.write k n v).blocked = s.blocked := rfl
@[simp] theorem State.write_shoots (s : State) (k n : Nat) (v : Word) : (s.write k n v).shoots = s.shoots := rfl
@[simp] theorem State.write_switches (s : State) (k n : Nat) (v : Word) : (s.write k n v).switches = s.switches := rfl
@[simp] theorem State.write_saved (s : State) (k n : Nat) (v : Word) : (s.write k n v).saved = s.saved := rfl
@[simp] theorem State.write_pens (s : State) (k n : Nat) (v : Word) : (s.write k n v).pens = s.pens := rfl
@[simp] theorem State.write_dev (s : State) (k n : Nat) (v : Word) : (s.write k n v).dev = s.dev := rfl
@[simp] theorem State.write_logged (s : State) (k n : Nat) (v : Word) : (s.write k n v).logged = s.logged := rfl

@[simp] theorem State.writeBytes_cur (s : State) (f : Nat → Nat) (bs : List Byte) : (s.writeBytes f bs).cur = s.cur := rfl
@[simp] theorem State.writeBytes_focus (s : State) (f : Nat → Nat) (bs : List Byte) : (s.writeBytes f bs).focus = s.focus := rfl
@[simp] theorem State.writeBytes_others (s : State) (f : Nat → Nat) (bs : List Byte) : (s.writeBytes f bs).others = s.others := rfl
@[simp] theorem State.writeBytes_mem (s : State) (f : Nat → Nat) (bs : List Byte) : (s.writeBytes f bs).mem = writeList s.mem f 0 bs := rfl
@[simp] theorem State.writeBytes_now (s : State) (f : Nat → Nat) (bs : List Byte) : (s.writeBytes f bs).now = s.now := rfl
@[simp] theorem State.writeBytes_pace (s : State) (f : Nat → Nat) (bs : List Byte) : (s.writeBytes f bs).pace = s.pace := rfl
@[simp] theorem State.writeBytes_agenda (s : State) (f : Nat → Nat) (bs : List Byte) : (s.writeBytes f bs).agenda = s.agenda := rfl
@[simp] theorem State.writeBytes_choice (s : State) (f : Nat → Nat) (bs : List Byte) : (s.writeBytes f bs).choice = s.choice := rfl
@[simp] theorem State.writeBytes_free (s : State) (f : Nat → Nat) (bs : List Byte) : (s.writeBytes f bs).free = s.free := rfl
@[simp] theorem State.writeBytes_fids (s : State) (f : Nat → Nat) (bs : List Byte) : (s.writeBytes f bs).fids = s.fids := rfl
@[simp] theorem State.writeBytes_laws (s : State) (f : Nat → Nat) (bs : List Byte) : (s.writeBytes f bs).laws = s.laws := rfl
@[simp] theorem State.writeBytes_clusters (s : State) (f : Nat → Nat) (bs : List Byte) : (s.writeBytes f bs).clusters = s.clusters := rfl
@[simp] theorem State.writeBytes_stks (s : State) (f : Nat → Nat) (bs : List Byte) : (s.writeBytes f bs).stks = s.stks := rfl
@[simp] theorem State.writeBytes_dies (s : State) (f : Nat → Nat) (bs : List Byte) : (s.writeBytes f bs).dies = s.dies := rfl
@[simp] theorem State.writeBytes_parts (s : State) (f : Nat → Nat) (bs : List Byte) : (s.writeBytes f bs).parts = s.parts := rfl
@[simp] theorem State.writeBytes_flights (s : State) (f : Nat → Nat) (bs : List Byte) : (s.writeBytes f bs).flights = s.flights := rfl
@[simp] theorem State.writeBytes_replies (s : State) (f : Nat → Nat) (bs : List Byte) : (s.writeBytes f bs).replies = s.replies := rfl
@[simp] theorem State.writeBytes_releases (s : State) (f : Nat → Nat) (bs : List Byte) : (s.writeBytes f bs).releases = s.releases := rfl
@[simp] theorem State.writeBytes_vis (s : State) (f : Nat → Nat) (bs : List Byte) : (s.writeBytes f bs).vis = s.vis := rfl
@[simp] theorem State.writeBytes_tokens (s : State) (f : Nat → Nat) (bs : List Byte) : (s.writeBytes f bs).tokens = s.tokens := rfl
@[simp] theorem State.writeBytes_blocked (s : State) (f : Nat → Nat) (bs : List Byte) : (s.writeBytes f bs).blocked = s.blocked := rfl
@[simp] theorem State.writeBytes_shoots (s : State) (f : Nat → Nat) (bs : List Byte) : (s.writeBytes f bs).shoots = s.shoots := rfl
@[simp] theorem State.writeBytes_switches (s : State) (f : Nat → Nat) (bs : List Byte) : (s.writeBytes f bs).switches = s.switches := rfl
@[simp] theorem State.writeBytes_saved (s : State) (f : Nat → Nat) (bs : List Byte) : (s.writeBytes f bs).saved = s.saved := rfl
@[simp] theorem State.writeBytes_pens (s : State) (f : Nat → Nat) (bs : List Byte) : (s.writeBytes f bs).pens = s.pens := rfl
@[simp] theorem State.writeBytes_dev (s : State) (f : Nat → Nat) (bs : List Byte) : (s.writeBytes f bs).dev = s.dev := rfl
@[simp] theorem State.writeBytes_logged (s : State) (f : Nat → Nat) (bs : List Byte) : (s.writeBytes f bs).logged = s.logged := rfl

@[simp] theorem State.stall_cur (s : State) (w : Wait) : (s.stall w).cur = { s.cur with wait := w } := rfl
@[simp] theorem State.stall_focus (s : State) (w : Wait) : (s.stall w).focus = s.focus := rfl
@[simp] theorem State.stall_others (s : State) (w : Wait) : (s.stall w).others = s.others := rfl
@[simp] theorem State.stall_mem (s : State) (w : Wait) : (s.stall w).mem = s.mem := rfl
@[simp] theorem State.stall_now (s : State) (w : Wait) : (s.stall w).now = s.now := rfl
@[simp] theorem State.stall_pace (s : State) (w : Wait) : (s.stall w).pace = s.pace := rfl
@[simp] theorem State.stall_agenda (s : State) (w : Wait) : (s.stall w).agenda = s.agenda := rfl
@[simp] theorem State.stall_choice (s : State) (w : Wait) : (s.stall w).choice = s.choice := rfl
@[simp] theorem State.stall_free (s : State) (w : Wait) : (s.stall w).free = s.free := rfl
@[simp] theorem State.stall_fids (s : State) (w : Wait) : (s.stall w).fids = s.fids := rfl
@[simp] theorem State.stall_laws (s : State) (w : Wait) : (s.stall w).laws = s.laws := rfl
@[simp] theorem State.stall_clusters (s : State) (w : Wait) : (s.stall w).clusters = s.clusters := rfl
@[simp] theorem State.stall_stks (s : State) (w : Wait) : (s.stall w).stks = s.stks := rfl
@[simp] theorem State.stall_dies (s : State) (w : Wait) : (s.stall w).dies = s.dies := rfl
@[simp] theorem State.stall_parts (s : State) (w : Wait) : (s.stall w).parts = s.parts := rfl
@[simp] theorem State.stall_flights (s : State) (w : Wait) : (s.stall w).flights = s.flights := rfl
@[simp] theorem State.stall_replies (s : State) (w : Wait) : (s.stall w).replies = s.replies := rfl
@[simp] theorem State.stall_releases (s : State) (w : Wait) : (s.stall w).releases = s.releases := rfl
@[simp] theorem State.stall_vis (s : State) (w : Wait) : (s.stall w).vis = s.vis := rfl
@[simp] theorem State.stall_tokens (s : State) (w : Wait) : (s.stall w).tokens = s.tokens := rfl
@[simp] theorem State.stall_blocked (s : State) (w : Wait) : (s.stall w).blocked = s.blocked := rfl
@[simp] theorem State.stall_shoots (s : State) (w : Wait) : (s.stall w).shoots = s.shoots := rfl
@[simp] theorem State.stall_switches (s : State) (w : Wait) : (s.stall w).switches = s.switches := rfl
@[simp] theorem State.stall_saved (s : State) (w : Wait) : (s.stall w).saved = s.saved := rfl
@[simp] theorem State.stall_pens (s : State) (w : Wait) : (s.stall w).pens = s.pens := rfl
@[simp] theorem State.stall_dev (s : State) (w : Wait) : (s.stall w).dev = s.dev := rfl
@[simp] theorem State.stall_logged (s : State) (w : Wait) : (s.stall w).logged = s.logged := rfl

@[simp] theorem State.retireN_cur (s : State) (n : Nat) : (s.retireN n).cur = afterInstr s.cur n (s.cur.pc + BitVec.ofNat 64 (4 * (n - 1))) none (s.cur.pc + BitVec.ofNat 64 (4 * (n - 1)) + 4) := rfl
@[simp] theorem State.retireN_focus (s : State) (n : Nat) : (s.retireN n).focus = s.focus := rfl
@[simp] theorem State.retireN_others (s : State) (n : Nat) : (s.retireN n).others = s.others := rfl
@[simp] theorem State.retireN_mem (s : State) (n : Nat) : (s.retireN n).mem = s.mem := rfl
@[simp] theorem State.retireN_now (s : State) (n : Nat) : (s.retireN n).now = s.now := rfl
@[simp] theorem State.retireN_pace (s : State) (n : Nat) : (s.retireN n).pace = s.pace := rfl
@[simp] theorem State.retireN_agenda (s : State) (n : Nat) : (s.retireN n).agenda = s.agenda := rfl
@[simp] theorem State.retireN_choice (s : State) (n : Nat) : (s.retireN n).choice = s.choice := rfl
@[simp] theorem State.retireN_free (s : State) (n : Nat) : (s.retireN n).free = s.free := rfl
@[simp] theorem State.retireN_fids (s : State) (n : Nat) : (s.retireN n).fids = s.fids := rfl
@[simp] theorem State.retireN_laws (s : State) (n : Nat) : (s.retireN n).laws = s.laws := rfl
@[simp] theorem State.retireN_clusters (s : State) (n : Nat) : (s.retireN n).clusters = s.clusters := rfl
@[simp] theorem State.retireN_stks (s : State) (n : Nat) : (s.retireN n).stks = s.stks := rfl
@[simp] theorem State.retireN_dies (s : State) (n : Nat) : (s.retireN n).dies = s.dies := rfl
@[simp] theorem State.retireN_parts (s : State) (n : Nat) : (s.retireN n).parts = s.parts := rfl
@[simp] theorem State.retireN_flights (s : State) (n : Nat) : (s.retireN n).flights = s.flights := rfl
@[simp] theorem State.retireN_replies (s : State) (n : Nat) : (s.retireN n).replies = s.replies := rfl
@[simp] theorem State.retireN_releases (s : State) (n : Nat) : (s.retireN n).releases = s.releases := rfl
@[simp] theorem State.retireN_vis (s : State) (n : Nat) : (s.retireN n).vis = s.vis := rfl
@[simp] theorem State.retireN_tokens (s : State) (n : Nat) : (s.retireN n).tokens = s.tokens := rfl
@[simp] theorem State.retireN_blocked (s : State) (n : Nat) : (s.retireN n).blocked = s.blocked := rfl
@[simp] theorem State.retireN_shoots (s : State) (n : Nat) : (s.retireN n).shoots = s.shoots := rfl
@[simp] theorem State.retireN_switches (s : State) (n : Nat) : (s.retireN n).switches = s.switches := rfl
@[simp] theorem State.retireN_saved (s : State) (n : Nat) : (s.retireN n).saved = s.saved := rfl
@[simp] theorem State.retireN_pens (s : State) (n : Nat) : (s.retireN n).pens = s.pens := rfl
@[simp] theorem State.retireN_dev (s : State) (n : Nat) : (s.retireN n).dev = s.dev := rfl
@[simp] theorem State.retireN_logged (s : State) (n : Nat) : (s.retireN n).logged = s.logged := rfl

@[simp] theorem State.setUnit_focus (s : State) (u : Nat) (x : Unit) : (s.setUnit u x).focus = s.focus := by unfold State.setUnit; split <;> rfl
@[simp] theorem State.setUnit_mem (s : State) (u : Nat) (x : Unit) : (s.setUnit u x).mem = s.mem := by unfold State.setUnit; split <;> rfl
@[simp] theorem State.setUnit_now (s : State) (u : Nat) (x : Unit) : (s.setUnit u x).now = s.now := by unfold State.setUnit; split <;> rfl
@[simp] theorem State.setUnit_pace (s : State) (u : Nat) (x : Unit) : (s.setUnit u x).pace = s.pace := by unfold State.setUnit; split <;> rfl
@[simp] theorem State.setUnit_agenda (s : State) (u : Nat) (x : Unit) : (s.setUnit u x).agenda = s.agenda := by unfold State.setUnit; split <;> rfl
@[simp] theorem State.setUnit_choice (s : State) (u : Nat) (x : Unit) : (s.setUnit u x).choice = s.choice := by unfold State.setUnit; split <;> rfl
@[simp] theorem State.setUnit_free (s : State) (u : Nat) (x : Unit) : (s.setUnit u x).free = s.free := by unfold State.setUnit; split <;> rfl
@[simp] theorem State.setUnit_fids (s : State) (u : Nat) (x : Unit) : (s.setUnit u x).fids = s.fids := by unfold State.setUnit; split <;> rfl
@[simp] theorem State.setUnit_laws (s : State) (u : Nat) (x : Unit) : (s.setUnit u x).laws = s.laws := by unfold State.setUnit; split <;> rfl
@[simp] theorem State.setUnit_clusters (s : State) (u : Nat) (x : Unit) : (s.setUnit u x).clusters = s.clusters := by unfold State.setUnit; split <;> rfl
@[simp] theorem State.setUnit_stks (s : State) (u : Nat) (x : Unit) : (s.setUnit u x).stks = s.stks := by unfold State.setUnit; split <;> rfl
@[simp] theorem State.setUnit_dies (s : State) (u : Nat) (x : Unit) : (s.setUnit u x).dies = s.dies := by unfold State.setUnit; split <;> rfl
@[simp] theorem State.setUnit_parts (s : State) (u : Nat) (x : Unit) : (s.setUnit u x).parts = s.parts := by unfold State.setUnit; split <;> rfl
@[simp] theorem State.setUnit_flights (s : State) (u : Nat) (x : Unit) : (s.setUnit u x).flights = s.flights := by unfold State.setUnit; split <;> rfl
@[simp] theorem State.setUnit_replies (s : State) (u : Nat) (x : Unit) : (s.setUnit u x).replies = s.replies := by unfold State.setUnit; split <;> rfl
@[simp] theorem State.setUnit_releases (s : State) (u : Nat) (x : Unit) : (s.setUnit u x).releases = s.releases := by unfold State.setUnit; split <;> rfl
@[simp] theorem State.setUnit_vis (s : State) (u : Nat) (x : Unit) : (s.setUnit u x).vis = s.vis := by unfold State.setUnit; split <;> rfl
@[simp] theorem State.setUnit_tokens (s : State) (u : Nat) (x : Unit) : (s.setUnit u x).tokens = s.tokens := by unfold State.setUnit; split <;> rfl
@[simp] theorem State.setUnit_blocked (s : State) (u : Nat) (x : Unit) : (s.setUnit u x).blocked = s.blocked := by unfold State.setUnit; split <;> rfl
@[simp] theorem State.setUnit_switches (s : State) (u : Nat) (x : Unit) : (s.setUnit u x).switches = s.switches := by unfold State.setUnit; split <;> rfl
@[simp] theorem State.setUnit_saved (s : State) (u : Nat) (x : Unit) : (s.setUnit u x).saved = s.saved := by unfold State.setUnit; split <;> rfl
@[simp] theorem State.setUnit_pens (s : State) (u : Nat) (x : Unit) : (s.setUnit u x).pens = s.pens := by unfold State.setUnit; split <;> rfl
@[simp] theorem State.setUnit_dev (s : State) (u : Nat) (x : Unit) : (s.setUnit u x).dev = s.dev := by unfold State.setUnit; split <;> rfl
@[simp] theorem State.setUnit_logged (s : State) (u : Nat) (x : Unit) : (s.setUnit u x).logged = s.logged := by unfold State.setUnit; split <;> rfl
@[simp] theorem State.refocus_mem (s : State) (u : Nat) : (s.refocus u).mem = s.mem := by unfold State.refocus; split <;> rfl
@[simp] theorem State.refocus_now (s : State) (u : Nat) : (s.refocus u).now = s.now := by unfold State.refocus; split <;> rfl
@[simp] theorem State.refocus_pace (s : State) (u : Nat) : (s.refocus u).pace = s.pace := by unfold State.refocus; split <;> rfl
@[simp] theorem State.refocus_agenda (s : State) (u : Nat) : (s.refocus u).agenda = s.agenda := by unfold State.refocus; split <;> rfl
@[simp] theorem State.refocus_choice (s : State) (u : Nat) : (s.refocus u).choice = s.choice := by unfold State.refocus; split <;> rfl
@[simp] theorem State.refocus_free (s : State) (u : Nat) : (s.refocus u).free = s.free := by unfold State.refocus; split <;> rfl
@[simp] theorem State.refocus_fids (s : State) (u : Nat) : (s.refocus u).fids = s.fids := by unfold State.refocus; split <;> rfl
@[simp] theorem State.refocus_laws (s : State) (u : Nat) : (s.refocus u).laws = s.laws := by unfold State.refocus; split <;> rfl
@[simp] theorem State.refocus_clusters (s : State) (u : Nat) : (s.refocus u).clusters = s.clusters := by unfold State.refocus; split <;> rfl
@[simp] theorem State.refocus_stks (s : State) (u : Nat) : (s.refocus u).stks = s.stks := by unfold State.refocus; split <;> rfl
@[simp] theorem State.refocus_dies (s : State) (u : Nat) : (s.refocus u).dies = s.dies := by unfold State.refocus; split <;> rfl
@[simp] theorem State.refocus_parts (s : State) (u : Nat) : (s.refocus u).parts = s.parts := by unfold State.refocus; split <;> rfl
@[simp] theorem State.refocus_flights (s : State) (u : Nat) : (s.refocus u).flights = s.flights := by unfold State.refocus; split <;> rfl
@[simp] theorem State.refocus_replies (s : State) (u : Nat) : (s.refocus u).replies = s.replies := by unfold State.refocus; split <;> rfl
@[simp] theorem State.refocus_releases (s : State) (u : Nat) : (s.refocus u).releases = s.releases := by unfold State.refocus; split <;> rfl
@[simp] theorem State.refocus_vis (s : State) (u : Nat) : (s.refocus u).vis = s.vis := by unfold State.refocus; split <;> rfl
@[simp] theorem State.refocus_tokens (s : State) (u : Nat) : (s.refocus u).tokens = s.tokens := by unfold State.refocus; split <;> rfl
@[simp] theorem State.refocus_blocked (s : State) (u : Nat) : (s.refocus u).blocked = s.blocked := by unfold State.refocus; split <;> rfl
@[simp] theorem State.refocus_switches (s : State) (u : Nat) : (s.refocus u).switches = s.switches := by unfold State.refocus; split <;> rfl
@[simp] theorem State.refocus_saved (s : State) (u : Nat) : (s.refocus u).saved = s.saved := by unfold State.refocus; split <;> rfl
@[simp] theorem State.refocus_pens (s : State) (u : Nat) : (s.refocus u).pens = s.pens := by unfold State.refocus; split <;> rfl
@[simp] theorem State.refocus_dev (s : State) (u : Nat) : (s.refocus u).dev = s.dev := by unfold State.refocus; split <;> rfl
@[simp] theorem State.refocus_logged (s : State) (u : Nat) : (s.refocus u).logged = s.logged := by unfold State.refocus; split <;> rfl
@[simp] theorem State.refocus_focus (s : State) (u : Nat) : (s.refocus u).focus = u := by
  unfold State.refocus
  split
  · next h => exact h.symm
  · rfl
@[simp] theorem State.retire_eq (s : State) : s.retire = s.retireN 1 := rfl
@[simp] theorem State.done_eq (s : State) (n : Nat) (rd : Reg) (v : Word) : s.done n rd v = (s.setReg rd v).retireN n := rfl
@[simp] theorem State.setPch_mem (s : State) (g p : Nat) (x : Pch) : (s.setPch g p x).mem = s.mem := rfl
@[simp] theorem State.setLaunch_mem (s : State) (p : Nat) (l : Launch) : (s.setLaunch p l).mem = s.mem := rfl
@[simp] theorem State.jump_mem (s : State) (n : Nat) (t : Word) : (s.jump n t).mem = s.mem := rfl

-- reading back what was set

@[simp] theorem State.getUnit_focus (s : State) : s.getUnit s.focus = s.cur := by simp [State.getUnit]
@[simp] theorem State.setUnit_focus_cur (s : State) (x : Unit) : (s.setUnit s.focus x).cur = x := by simp [State.setUnit]
theorem State.setUnit_other_cur (s : State) (u : Nat) (x : Unit) (h : u ≠ s.focus) : (s.setUnit u x).cur = s.cur := by simp [State.setUnit, h]

-- the x registers (R44, R50)

/-- x0 reads 0. -/
@[simp] theorem getX_zero (x : Vector Word 32) : getX x 0 = 0 := rfl
/-- Reading a register after a write. -/
theorem getX_setX (x : Vector Word 32) (r q : Reg) (v : Word) : getX (setX x r v) q = if q = r ∧ r ≠ 0 then v else getX x q := by
  have get_eq : ∀ (y : Vector Word 32), y.get q = y[q.val] := fun _ => rfl
  unfold getX setX
  by_cases hq : q = 0
  · subst hq
    by_cases hr : r = 0
    · simp [hr]
    · have : (0 : Reg) ≠ r := fun e => hr e.symm
      simp [this]
  · by_cases hr : r = 0
    · simp [hq, hr]
    · by_cases e : q = r
      · subst e; simp [hr, get_eq]
      · have : r.val ≠ q.val := fun h => e (Fin.ext h.symm)
        simp [hq, hr, e, get_eq, this]
@[simp] theorem State.x_zero (s : State) : s.x 0 = 0 := rfl
theorem State.x_setReg (s : State) (r q : Reg) (v : Word) : (s.setReg r v).x q = if q = r ∧ r ≠ 0 then v else s.x q := getX_setX s.cur.x r q v

-- retiring (R102)

@[simp] theorem afterInstr_x (u : Unit) (k : Nat) (a : Word) (t : Option Word) (n : Word) : (afterInstr u k a t n).x = u.x := by
  simp only [afterInstr]; repeat' split
  all_goals rfl
@[simp] theorem afterInstr_wait (u : Unit) (k : Nat) (a : Word) (t : Option Word) (n : Word) : (afterInstr u k a t n).wait = .none := by
  simp only [afterInstr]; repeat' split
  all_goals rfl
/-- With no active loop an instruction retires at its next pc and changes no loop. -/
theorem afterInstr_noLoop (u : Unit) (k : Nat) (a : Word) (t : Option Word) (n : Word) (h0 : u.lp0.count = 0) (h1 : u.lp1.count = 0) :
    afterInstr u k a t n = { u with pc := n, wait := .none, tile := {} } := by
  obtain ⟨_, _, _, _, _, ⟨_, _, _⟩, ⟨_, _, _⟩⟩ := u
  simp only at h0 h1
  subst h0 h1
  unfold afterInstr
  split <;> simp_all [loopTest]

end Sys2Proof.Machine
end

