-- ==== Sys2Proof/Laws/Ops.lean ====
section
/-! SUPPORT. What the shared operations do, once each: reading a piece after writing it, maps of pieces, records and replies, traps and
guards, translation's caches, time, armings and elements read ahead. -/

namespace Sys2Proof.Machine

-- the pieces

theorem getCluster_setCluster (s : State) (c d : Nat) (x : Cluster) : (s.setCluster c x).getCluster d = if d = c then x else s.getCluster d :=
  look_put _ _ _ _
theorem getStack_setStack (s : State) (c d : Nat) (x : Stack) : (s.setStack c x).getStack d = if d = c then x else s.getStack d := look_put _ _ _ _
theorem getDie_setDie (s : State) (c d : Nat) (x : Die) : (s.setDie c x).getDie d = if d = c then x else s.getDie d := look_put _ _ _ _
theorem getPart_setPart (s : State) (c d : Nat) (x : Part) : (s.setPart c x).getPart d = if d = c then x else s.getPart d := look_put _ _ _ _
theorem getLaw_setLaw (s : State) (c d : Nat) (x : LawUnit) : (s.setLaw c x).getLaw d = if d = c then x else s.getLaw d := look_put _ _ _ _
theorem getPch_setPch (s : State) (g c h d : Nat) (x : Pch) :
    (s.setPch g c x).getPch h d = if h = g ∧ d = c then x else s.getPch h d := by
  unfold State.getPch State.setPch
  rw [getStack_setStack]
  by_cases e : h = g
  · subst e; by_cases f : d = c <;> simp [f, look_put]
  · simp [e]
theorem getUnit_setUnit (s : State) (u v : Nat) (x : Unit) : (s.setUnit u x).getUnit v = if v = u then x else s.getUnit v := by
  unfold State.getUnit State.setUnit
  by_cases h : u = s.focus
  · subst h; by_cases e : v = s.focus <;> simp [e]
  · by_cases e : v = s.focus
    · subst e; simp [h, Ne.symm h]
    · by_cases g : v = u <;> simp [h, e, g, look_put]
theorem getUnit_refocus (s : State) (u v : Nat) : (s.refocus u).getUnit v = s.getUnit v := by
  unfold State.getUnit State.refocus
  by_cases h : u = s.focus
  · simp [h]
  · by_cases e : v = u
    · subst e; simp [h]
    · by_cases g : v = s.focus
      · subst g; simp [h, e, look_put]
      · simp [h, e, g, look_put]
theorem getLaunch_setLaunch (s : State) (p : Nat) (l : Launch) (k : Nat) :
    (s.setLaunch p l).getLaunch p k = if k = l.lid then (s.getLaunch p k).map (fun _ => l) else s.getLaunch p k := by
  unfold State.getLaunch State.setLaunch
  rw [getPart_setPart, if_pos rfl]
  simp only [findLaunch, replaceLaunch]
  induction (s.getPart p).launches with
  | nil => simp
  | cons x xs ih =>
    by_cases h : x.lid = l.lid
    · by_cases e : k = l.lid
      · subst e; simp [h]
      · have h1 : (l.lid == k) = false := beq_eq_false_iff_ne.mpr (Ne.symm e)
        rw [if_neg e] at ih ⊢
        simp only [List.map_cons, h, if_true, List.find?_cons, h1]
        exact ih
    · by_cases e : k = l.lid
      · subst e
        have h1 : (x.lid == l.lid) = false := beq_eq_false_iff_ne.mpr h
        rw [if_pos rfl] at ih ⊢
        simp only [List.map_cons, h, if_false, List.find?_cons, h1]
        exact ih
      · rw [if_neg e] at ih ⊢
        simp only [List.map_cons, h, if_false, List.find?_cons]
        split <;> first | rfl | exact ih

-- maps of pieces

theorem look_mapS {α : Type} [DecidableEq α] (d : Nat → α) (f : Nat → α → α) (m : SMap α) (k : Nat) :
    look d (mapS d f m) k = if (m.any (fun kv => kv.1 == k)) = true then f k (look d m k) else d k := by
  unfold mapS
  induction m with
  | nil => simp [look]
  | cons x xs ih =>
    obtain ⟨j, v⟩ := x
    simp only [List.foldr_cons, look_put]
    by_cases h : j = k
    · subst h; simp [look]
    · have hb : (j == k) = false := beq_eq_false_iff_ne.mpr h
      rw [if_neg (Ne.symm h), ih]; simp only [List.any_cons, hb, Bool.false_or, look, if_neg h]
theorem look_freeSlots_free (m : SMap Slot) (k : Nat) : (look slot0 (freeSlots m) k).st = .free := by
  unfold freeSlots
  induction m with
  | nil => rfl
  | cons x xs ih =>
    simp only [List.foldr_cons, look_put]
    split
    · rfl
    · exact ih

-- bytes

theorem byte_setByte (s : State) (k j : Nat) (b : Byte) : (s.setByte k b).byte j = if j = k then b else s.byte j := look_put _ _ _ _
theorem byte_write_in (s : State) (k n i : Nat) (v : Word) (h : i < n) : (s.write k n v).byte (k + i) = BitVec.ofNat 8 (v.toNat / 256 ^ i) :=
  look_writeNat_in n s.mem k v.toNat i h

-- records, replies, causes: everything they change

theorem countLife_eq (s : State) (o n : Nat) : s.countLife o n = { s with dev := { s.dev with life := (s.countLife o n).dev.life } } := rfl
theorem countCause_eq (s : State) (c : Nat) : s.countCause c = { s with dev := { s.dev with life := (s.countCause c).dev.life } } := by
  unfold State.countCause; split <;> rfl
@[simp] theorem countCause_mem (s : State) (c : Nat) : (s.countCause c).mem = s.mem := by rw [countCause_eq]
@[simp] theorem countCause_cur (s : State) (c : Nat) : (s.countCause c).cur = s.cur := by rw [countCause_eq]
@[simp] theorem countCause_focus (s : State) (c : Nat) : (s.countCause c).focus = s.focus := by rw [countCause_eq]
@[simp] theorem countCause_parts (s : State) (c : Nat) : (s.countCause c).parts = s.parts := by rw [countCause_eq]
/-- A report changes lifetime counts and one partition's rings. -/
theorem report_eq (s : State) (p : Nat) (b : Bool) (r : FaultRec) :
    s.report p b r = { s with dev := { s.dev with life := (s.report p b r).dev.life }, parts := (s.report p b r).parts } := by
  unfold State.report; rw [countCause_eq]; rfl
@[simp] theorem report_mem (s : State) (p : Nat) (b : Bool) (r : FaultRec) : (s.report p b r).mem = s.mem := by rw [report_eq]
@[simp] theorem report_cur (s : State) (p : Nat) (b : Bool) (r : FaultRec) : (s.report p b r).cur = s.cur := by rw [report_eq]
@[simp] theorem report_focus (s : State) (p : Nat) (b : Bool) (r : FaultRec) : (s.report p b r).focus = s.focus := by rw [report_eq]
@[simp] theorem report_others (s : State) (p : Nat) (b : Bool) (r : FaultRec) : (s.report p b r).others = s.others := by rw [report_eq]
/-- A reply joins the replies under way, or has nowhere to go. -/
theorem sendReply_eq (s : State) (r : ReplyTo) (n : Nat) (p : List Word) (v : Nat) : s.sendReply r n p v = { s with replies := (s.sendReply r n p v).replies } := by
  unfold State.sendReply; split <;> rfl
@[simp] theorem sendReply_mem (s : State) (r : ReplyTo) (n : Nat) (p : List Word) (v : Nat) : (s.sendReply r n p v).mem = s.mem := by rw [sendReply_eq]
@[simp] theorem sendReply_cur (s : State) (r : ReplyTo) (n : Nat) (p : List Word) (v : Nat) : (s.sendReply r n p v).cur = s.cur := by rw [sendReply_eq]
@[simp] theorem sendReply_focus (s : State) (r : ReplyTo) (n : Nat) (p : List Word) (v : Nat) : (s.sendReply r n p v).focus = s.focus := by rw [sendReply_eq]
@[simp] theorem sendReply_parts (s : State) (r : ReplyTo) (n : Nat) (p : List Word) (v : Nat) : (s.sendReply r n p v).parts = s.parts := by rw [sendReply_eq]
@[simp] theorem answerOwed_mem (s : State) (u n : Nat) (a b : Word) : (s.answerOwed u n a b).mem = s.mem := by
  unfold State.answerOwed; dsimp only; split
  · rfl
  · split <;> simp
@[simp] theorem answerOwed_parts (s : State) (u n : Nat) (a b : Word) : (s.answerOwed u n a b).parts = s.parts := by
  unfold State.answerOwed; dsimp only; split
  · rfl
  · split <;> simp
@[simp] theorem addAsync_mem (s : State) (u : Nat) (a : Async) : (s.addAsync u a).mem = s.mem := by simp [State.addAsync]
theorem getUnit_addAsync (s : State) (u v : Nat) (a : Async) :
    (s.addAsync u a).getUnit v = if v = u then { s.getUnit u with asyncs := (s.getUnit u).asyncs ++ [a], latch := true } else s.getUnit v := by
  unfold State.addAsync; rw [getUnit_setUnit]
@[simp] theorem endFiring_mem (s : State) (u : Nat) : (s.endFiring u).mem = s.mem := by simp [State.endFiring]
@[simp] theorem freeze_mem (s : State) (u c : Nat) (v : Word) (b : Bool) (sub : Nat) : (s.freeze u c v b sub).mem = s.mem := by simp [State.freeze]

-- traps and guards

@[simp] theorem enterTrap_mem (s : State) (c : Nat) (b : Bool) (v w : Word) (j : Nat) : (s.enterTrap c b v w j).mem = s.mem := by
  simp [State.enterTrap]
@[simp] theorem stackTrap_mem (s : State) (c : Nat) (v : Word) (sub : Nat) : (s.stackTrap c v sub).mem = s.mem := by
  unfold State.stackTrap
  split
  · simp
  · split <;> simp
/-- Everything a precise trap can be: a stack core's, a fault of firmware, a freeze, or the entry of the handler. -/
theorem raise_cases (s : State) (c : Nat) (v w : Word) (sub : Nat) :
    (isSc s.focus = true ∧ raise s c v w sub = .next (s.stackTrap c v sub)) ∨
    (isSc s.focus = false ∧ s.cur.priv = .m ∧ raise s c v w sub = .fault (.firmwareTrap c)) ∨
    (isSc s.focus = false ∧ s.cur.priv = .s ∧ raise s c v w sub = .next (s.freeze s.focus c v true sub)) ∨
    (isSc s.focus = false ∧ s.cur.priv = .u ∧ s.cur.t.tvec = 0 ∧ raise s c v w sub = .next (s.freeze s.focus c v false sub)) ∨
    (isSc s.focus = false ∧ s.cur.priv = .u ∧ s.cur.t.tvec ≠ 0 ∧ raise s c v w sub = .next (s.enterTrap c false v w 0)) := by
  unfold raise
  cases h : isSc s.focus
  · cases hp : s.cur.priv
    · by_cases ht : s.cur.t.tvec = 0
      · exact .inr (.inr (.inr (.inl ⟨rfl, rfl, ht, by simp [ht]⟩)))
      · exact .inr (.inr (.inr (.inr ⟨rfl, rfl, ht, by
          show (if s.cur.t.tvec = 0 then _ else _) = _
          rw [if_neg ht]⟩)))
    · simp
    · simp
  · simp
/-- A precise trap changes no byte of memory. -/
theorem raise_mem (s t : State) (c : Nat) (v w : Word) (sub : Nat) (h : raise s c v w sub = .next t) : t.mem = s.mem := by
  rcases raise_cases s c v w sub with ⟨_, e⟩ | ⟨_, _, e⟩ | ⟨_, _, e⟩ | ⟨_, _, _, e⟩ | ⟨_, _, _, e⟩ <;> rw [e] at h
  · cases h; simp
  · cases h
  · cases h; simp
  · cases h; simp
  · cases h; simp
theorem raise_not_refused (s : State) (c : Nat) (v w : Word) (sub : Nat) (r : Refusal) : raise s c v w sub ≠ .refused r := by
  rcases raise_cases s c v w sub with ⟨_, e⟩ | ⟨_, _, e⟩ | ⟨_, _, e⟩ | ⟨_, _, _, e⟩ | ⟨_, _, _, e⟩ <;> rw [e] <;> exact fun h => by cases h
theorem raise_fault (s : State) (c : Nat) (v w : Word) (sub : Nat) (f : Fault) (h : raise s c v w sub = .fault f) : f = .firmwareTrap c ∧ s.cur.priv = .m := by
  rcases raise_cases s c v w sub with ⟨_, e⟩ | ⟨_, hp, e⟩ | ⟨_, _, e⟩ | ⟨_, _, _, e⟩ | ⟨_, _, _, e⟩ <;> rw [e] at h
  · cases h
  · cases h; exact ⟨rfl, hp⟩
  · cases h
  · cases h
  · cases h
/-- A guard either lets its instruction run or traps ILLEGAL-INSTRUCTION. -/
theorem guardU_cases (i : Instr) (b : Bool) (s : State) (k : Out) :
    (isSc s.focus = false ∨ b = true) ∧ guardU i b s k = k ∨ isSc s.focus = true ∧ b = false ∧ guardU i b s k = illegal s 4 (firstWord i) := by
  unfold guardU; cases isSc s.focus <;> cases b <;> simp
theorem guardS_cases (i : Instr) (s : State) (k : Out) :
    (isSc s.focus = false ∧ s.cur.priv ≠ .u ∧ guardS i s k = k) ∨ (isSc s.focus = true ∧ guardS i s k = illegal s 4 (firstWord i)) ∨
    (isSc s.focus = false ∧ s.cur.priv = .u ∧ guardS i s k = illegal s 3 (firstWord i)) := by
  unfold guardS; cases isSc s.focus <;> by_cases h : s.cur.priv = .u <;> simp [h]
theorem guardM_cases (i : Instr) (s : State) (k : Out) :
    (isSc s.focus = false ∧ s.cur.priv = .m ∧ guardM i s k = k) ∨ (isSc s.focus = true ∧ guardM i s k = illegal s 4 (firstWord i)) ∨
    (isSc s.focus = false ∧ s.cur.priv ≠ .m ∧ guardM i s k = illegal s 3 (firstWord i)) := by
  unfold guardM; cases isSc s.focus <;> by_cases h : s.cur.priv = .m <;> simp [h]

-- translation's caches: filling changes dies only

theorem fillOne_eq (s : State) (p n o : Nat) : s.fillOne p n o = { s with dies := (s.fillOne p n o).dies } := by
  unfold State.fillOne
  split <;> try rfl
  dsimp only
  split <;> try rfl
  split <;> rfl
theorem fill_eq (s : State) (p n o : Nat) : s.fill p n o = { s with dies := (s.fill p n o).dies } := by
  unfold State.fill
  generalize hs : s.fillOne p n o = s1
  have h1 : s1 = { s with dies := s1.dies } := by rw [← hs]; exact fillOne_eq s p n o
  dsimp only
  split
  · rename_i n2 o2 _
    have h2 := fillOne_eq s1 p n2 o2
    rw [h2, h1]
  · exact h1
@[simp] theorem fill_mem (s : State) (p n o : Nat) : (s.fill p n o).mem = s.mem := by rw [fill_eq]
@[simp] theorem fill_cur (s : State) (p n o : Nat) : (s.fill p n o).cur = s.cur := by rw [fill_eq]
@[simp] theorem fill_parts (s : State) (p n o : Nat) : (s.fill p n o).parts = s.parts := by rw [fill_eq]
@[simp] theorem reportAbsent_mem (s : State) (p n o : Nat) (r : FaultRec) : (s.reportAbsent p n o r).mem = s.mem := by
  unfold State.reportAbsent
  simp only
  repeat' split
  all_goals simp
@[simp] theorem noteFail_mem (s : State) (u : Nat) (f : TFail) (n o : Nat) (a : Word) (k : Nat) : (s.noteFail u f n o a k).mem = s.mem := by
  unfold State.noteFail; split <;> simp
theorem readSite_eq (s : State) (p : Nat) (t : Site) (n : Nat) : (s.readSite p t n).2 = { s with free := (s.readSite p t n).2.free } := by
  unfold State.readSite; split <;> rfl
@[simp] theorem readSite_mem (s : State) (p : Nat) (t : Site) (n : Nat) : (s.readSite p t n).2.mem = s.mem := by rw [readSite_eq]

-- time, and what an access does on the way

/-- Time that passes changes the count and the clusters' DEFER only. -/
theorem elapse_eq (s : State) (n : Nat) : s.elapse n = { s with now := s.now + n, clusters := (s.elapse n).clusters } := by
  have h : ∀ (l : List (Nat × Cluster)) (t : State), l.foldl (fun t kv => t.deferCluster n kv.1) t =
      { t with clusters := (l.foldl (fun t kv => t.deferCluster n kv.1) t).clusters } := by
    intro l
    induction l with
    | nil => intro t; rfl
    | cons x l ih => intro t; rw [List.foldl_cons, ih]; rfl
  exact h _ _
@[simp] theorem elapse_now (s : State) (n : Nat) : (s.elapse n).now = s.now + n := by rw [elapse_eq]
@[simp] theorem elapse_mem (s : State) (n : Nat) : (s.elapse n).mem = s.mem := by rw [elapse_eq]
@[simp] theorem elapse_cur (s : State) (n : Nat) : (s.elapse n).cur = s.cur := by rw [elapse_eq]
@[simp] theorem elapse_agenda (s : State) (n : Nat) : (s.elapse n).agenda = s.agenda := by rw [elapse_eq]
/-- A slot that has expired sets the latch and goes READY; nothing else changes. -/
theorem expire_eq (s : State) : s.expire = { s with cur := { s.cur with latch := s.expire.cur.latch, slots := s.expire.cur.slots } } := by
  unfold State.expire
  generalize (List.range 16).foldl (fun m k => put slot0 m k (s.slotNow s.focus k)) s.cur.slots = m
  by_cases h : s.slotExpired s.focus = true <;> simp only [h, if_true, if_false, Bool.false_eq_true]
/-- An armed word's launch and phase are kept beside it. -/
@[simp] theorem setArm_mem (s : State) (w : WordAt) (a : Option (Nat × Nat)) : (s.setArm w a).mem = s.mem := rfl
@[simp] theorem setArm_cur (s : State) (w : WordAt) (a : Option (Nat × Nat)) : (s.setArm w a).cur = s.cur := rfl
/-- An element read ahead stands in the unit's tile, and nothing else changes. -/
theorem seeElem_eq (s : State) (a : Nat) : s.seeElem a = { s with cur := { s.cur with tile := (s.seeElem a).cur.tile } } := by
  unfold State.seeElem
  dsimp only
  split <;> rfl

end Sys2Proof.Machine
end

