-- ==== Sys2Proof/Laws/PerInstr.lean ====
section
/-! SUPPORT. Statements about every instruction as syntax, one lemma per constructor. -/

namespace Sys2Proof.Laws.EncodeLength

/-- R39, R62: an instruction encodes to as many words as fetching it reads; a step without a word to none. -/
def Statement (i : Instr) : Prop := encode i = [] ∨ (encode i).length = wordsOf i

theorem encFollower_length (f : Follower) : (encFollower f).length = 1 := by
  cases f with
  | load k => cases k <;> rfl
  | store k => cases k <;> rfl
  | opImm k => cases k <;> rfl
  | jalr => rfl
  | vld => rfl
  | vst => rfl
theorem encTail_length (t : Tail) : (encTail t).length = tailLen t := by
  cases t <;> simp [encTail, tailLen, encFollower_length]

theorem lui (rd : Reg) (imm : BitVec 20) : Statement (.lui rd imm) := .inr rfl
theorem auipc (rd : Reg) (imm : BitVec 20) : Statement (.auipc rd imm) := .inr rfl
theorem jal (rd : Reg) (imm : BitVec 20) : Statement (.jal rd imm) := .inr rfl
theorem jalr (rd rs1 : Reg) (imm : BitVec 12) : Statement (.jalr rd rs1 imm) := .inr rfl
theorem beq (rs1 rs2 : Reg) (imm : BitVec 12) : Statement (.beq rs1 rs2 imm) := .inr rfl
theorem bne (rs1 rs2 : Reg) (imm : BitVec 12) : Statement (.bne rs1 rs2 imm) := .inr rfl
theorem blt (rs1 rs2 : Reg) (imm : BitVec 12) : Statement (.blt rs1 rs2 imm) := .inr rfl
theorem bge (rs1 rs2 : Reg) (imm : BitVec 12) : Statement (.bge rs1 rs2 imm) := .inr rfl
theorem bltu (rs1 rs2 : Reg) (imm : BitVec 12) : Statement (.bltu rs1 rs2 imm) := .inr rfl
theorem bgeu (rs1 rs2 : Reg) (imm : BitVec 12) : Statement (.bgeu rs1 rs2 imm) := .inr rfl
theorem lb (rd rs1 : Reg) (imm : BitVec 12) : Statement (.lb rd rs1 imm) := .inr rfl
theorem lh (rd rs1 : Reg) (imm : BitVec 12) : Statement (.lh rd rs1 imm) := .inr rfl
theorem lw (rd rs1 : Reg) (imm : BitVec 12) : Statement (.lw rd rs1 imm) := .inr rfl
theorem ld (rd rs1 : Reg) (imm : BitVec 12) : Statement (.ld rd rs1 imm) := .inr rfl
theorem lbu (rd rs1 : Reg) (imm : BitVec 12) : Statement (.lbu rd rs1 imm) := .inr rfl
theorem lhu (rd rs1 : Reg) (imm : BitVec 12) : Statement (.lhu rd rs1 imm) := .inr rfl
theorem lwu (rd rs1 : Reg) (imm : BitVec 12) : Statement (.lwu rd rs1 imm) := .inr rfl
theorem sb (rs2 rs1 : Reg) (imm : BitVec 12) : Statement (.sb rs2 rs1 imm) := .inr rfl
theorem sh (rs2 rs1 : Reg) (imm : BitVec 12) : Statement (.sh rs2 rs1 imm) := .inr rfl
theorem sw (rs2 rs1 : Reg) (imm : BitVec 12) : Statement (.sw rs2 rs1 imm) := .inr rfl
theorem sd (rs2 rs1 : Reg) (imm : BitVec 12) : Statement (.sd rs2 rs1 imm) := .inr rfl
theorem addi (rd rs1 : Reg) (imm : BitVec 12) : Statement (.addi rd rs1 imm) := .inr rfl
theorem slti (rd rs1 : Reg) (imm : BitVec 12) : Statement (.slti rd rs1 imm) := .inr rfl
theorem sltiu (rd rs1 : Reg) (imm : BitVec 12) : Statement (.sltiu rd rs1 imm) := .inr rfl
theorem xori (rd rs1 : Reg) (imm : BitVec 12) : Statement (.xori rd rs1 imm) := .inr rfl
theorem ori (rd rs1 : Reg) (imm : BitVec 12) : Statement (.ori rd rs1 imm) := .inr rfl
theorem andi (rd rs1 : Reg) (imm : BitVec 12) : Statement (.andi rd rs1 imm) := .inr rfl
theorem slli (rd rs1 : Reg) (sh : BitVec 6) : Statement (.slli rd rs1 sh) := .inr rfl
theorem srli (rd rs1 : Reg) (sh : BitVec 6) : Statement (.srli rd rs1 sh) := .inr rfl
theorem srai (rd rs1 : Reg) (sh : BitVec 6) : Statement (.srai rd rs1 sh) := .inr rfl
theorem add (rd rs1 rs2 : Reg) : Statement (.add rd rs1 rs2) := .inr rfl
theorem sub (rd rs1 rs2 : Reg) : Statement (.sub rd rs1 rs2) := .inr rfl
theorem sll (rd rs1 rs2 : Reg) : Statement (.sll rd rs1 rs2) := .inr rfl
theorem slt (rd rs1 rs2 : Reg) : Statement (.slt rd rs1 rs2) := .inr rfl
theorem sltu (rd rs1 rs2 : Reg) : Statement (.sltu rd rs1 rs2) := .inr rfl
theorem xor (rd rs1 rs2 : Reg) : Statement (.xor rd rs1 rs2) := .inr rfl
theorem srl (rd rs1 rs2 : Reg) : Statement (.srl rd rs1 rs2) := .inr rfl
theorem sra (rd rs1 rs2 : Reg) : Statement (.sra rd rs1 rs2) := .inr rfl
theorem or (rd rs1 rs2 : Reg) : Statement (.or rd rs1 rs2) := .inr rfl
theorem and (rd rs1 rs2 : Reg) : Statement (.and rd rs1 rs2) := .inr rfl
theorem addiw (rd rs1 : Reg) (imm : BitVec 12) : Statement (.addiw rd rs1 imm) := .inr rfl
theorem slliw (rd rs1 : Reg) (sh : BitVec 5) : Statement (.slliw rd rs1 sh) := .inr rfl
theorem srliw (rd rs1 : Reg) (sh : BitVec 5) : Statement (.srliw rd rs1 sh) := .inr rfl
theorem sraiw (rd rs1 : Reg) (sh : BitVec 5) : Statement (.sraiw rd rs1 sh) := .inr rfl
theorem addw (rd rs1 rs2 : Reg) : Statement (.addw rd rs1 rs2) := .inr rfl
theorem subw (rd rs1 rs2 : Reg) : Statement (.subw rd rs1 rs2) := .inr rfl
theorem sllw (rd rs1 rs2 : Reg) : Statement (.sllw rd rs1 rs2) := .inr rfl
theorem srlw (rd rs1 rs2 : Reg) : Statement (.srlw rd rs1 rs2) := .inr rfl
theorem sraw (rd rs1 rs2 : Reg) : Statement (.sraw rd rs1 rs2) := .inr rfl
theorem fence (pred succ : BitVec 4) : Statement (.fence pred succ) := .inr rfl
theorem ecall : Statement (.ecall) := .inr rfl
theorem ebreak : Statement (.ebreak) := .inr rfl
theorem mul (rd rs1 rs2 : Reg) : Statement (.mul rd rs1 rs2) := .inr rfl
theorem mulh (rd rs1 rs2 : Reg) : Statement (.mulh rd rs1 rs2) := .inr rfl
theorem mulhsu (rd rs1 rs2 : Reg) : Statement (.mulhsu rd rs1 rs2) := .inr rfl
theorem mulhu (rd rs1 rs2 : Reg) : Statement (.mulhu rd rs1 rs2) := .inr rfl
theorem div (rd rs1 rs2 : Reg) : Statement (.div rd rs1 rs2) := .inr rfl
theorem divu (rd rs1 rs2 : Reg) : Statement (.divu rd rs1 rs2) := .inr rfl
theorem rem (rd rs1 rs2 : Reg) : Statement (.rem rd rs1 rs2) := .inr rfl
theorem remu (rd rs1 rs2 : Reg) : Statement (.remu rd rs1 rs2) := .inr rfl
theorem mulw (rd rs1 rs2 : Reg) : Statement (.mulw rd rs1 rs2) := .inr rfl
theorem divw (rd rs1 rs2 : Reg) : Statement (.divw rd rs1 rs2) := .inr rfl
theorem divuw (rd rs1 rs2 : Reg) : Statement (.divuw rd rs1 rs2) := .inr rfl
theorem remw (rd rs1 rs2 : Reg) : Statement (.remw rd rs1 rs2) := .inr rfl
theorem remuw (rd rs1 rs2 : Reg) : Statement (.remuw rd rs1 rs2) := .inr rfl
theorem csrrw (rd rs1 : Reg) (csr : BitVec 12) : Statement (.csrrw rd rs1 csr) := .inr rfl
theorem csrrs (rd rs1 : Reg) (csr : BitVec 12) : Statement (.csrrs rd rs1 csr) := .inr rfl
theorem csrrc (rd rs1 : Reg) (csr : BitVec 12) : Statement (.csrrc rd rs1 csr) := .inr rfl
theorem csrrwi (rd : Reg) (uimm : BitVec 5) (csr : BitVec 12) : Statement (.csrrwi rd uimm csr) := .inr rfl
theorem csrrsi (rd : Reg) (uimm : BitVec 5) (csr : BitVec 12) : Statement (.csrrsi rd uimm csr) := .inr rfl
theorem csrrci (rd : Reg) (uimm : BitVec 5) (csr : BitVec 12) : Statement (.csrrci rd uimm csr) := .inr rfl
theorem sh1add (rd rs1 rs2 : Reg) : Statement (.sh1add rd rs1 rs2) := .inr rfl
theorem sh2add (rd rs1 rs2 : Reg) : Statement (.sh2add rd rs1 rs2) := .inr rfl
theorem sh3add (rd rs1 rs2 : Reg) : Statement (.sh3add rd rs1 rs2) := .inr rfl
theorem addUw (rd rs1 rs2 : Reg) : Statement (.addUw rd rs1 rs2) := .inr rfl
theorem sh1addUw (rd rs1 rs2 : Reg) : Statement (.sh1addUw rd rs1 rs2) := .inr rfl
theorem sh2addUw (rd rs1 rs2 : Reg) : Statement (.sh2addUw rd rs1 rs2) := .inr rfl
theorem sh3addUw (rd rs1 rs2 : Reg) : Statement (.sh3addUw rd rs1 rs2) := .inr rfl
theorem slliUw (rd rs1 : Reg) (sh : BitVec 6) : Statement (.slliUw rd rs1 sh) := .inr rfl
theorem illegalWord (w : Code) : Statement (.illegalWord w) := .inr rfl
theorem fin : Statement (.fin) := .inr rfl
theorem widf (rd : Reg) (k : Fin 6) : Statement (.widf rd k) := .inr rfl
theorem grow (rd rs1 : Reg) : Statement (.grow rd rs1) := .inr rfl
theorem launch (rd rs1 : Reg) : Statement (.launch rd rs1) := .inr rfl
theorem wfe (rs1 : Reg) : Statement (.wfe rs1) := .inr rfl
theorem lpclr (n : Fin 2) : Statement (.lpclr n) := .inr rfl
theorem tret : Statement (.tret) := .inr rfl
theorem kill (rd rs1 : Reg) : Statement (.kill rd rs1) := .inr rfl
theorem placew (rd rs1 rs2 : Reg) : Statement (.placew rd rs1 rs2) := .inr rfl
theorem qwaitF (q : Fin 16) (rs1 : Reg) : Statement (.qwaitF q rs1) := .inr rfl
theorem qwaitE (q : Fin 16) (rs1 : Reg) : Statement (.qwaitE q rs1) := .inr rfl
theorem qadvC (q : Fin 16) (rs1 : Reg) : Statement (.qadvC q rs1) := .inr rfl
theorem qadvP (q : Fin 16) (rs1 : Reg) : Statement (.qadvP q rs1) := .inr rfl
theorem qcnt (rd : Reg) (q : Fin 16) : Statement (.qcnt rd q) := .inr rfl
theorem qslot (rd : Reg) (q : Fin 16) (rs1 : Reg) : Statement (.qslot rd q rs1) := .inr rfl
theorem lpset (n : Fin 2) (rs1 : Reg) (imm : BitVec 12) : Statement (.lpset n rs1 imm) := .inr rfl
theorem lpseti (n : Fin 2) (count : Fin 32) (imm : BitVec 12) : Statement (.lpseti n count imm) := .inr rfl
theorem atPfx (rs1 : Reg) (tail : Tail) : Statement (.atPfx rs1 tail) := by
  right; simp [encode, wordsOf, encTail_length, Nat.add_comm]
theorem extPfx (e : BitVec 20) (tail : Tail) : Statement (.extPfx e tail) := by
  right; simp [encode, wordsOf, encTail_length, Nat.add_comm]
theorem send (rs1 rs2 : Reg) : Statement (.send rs1 rs2) := .inr rfl
theorem sendR (rd rs1 rs2 : Reg) : Statement (.sendR rd rs1 rs2) := .inr rfl
theorem sendnb (rd rs1 rs2 : Reg) : Statement (.sendnb rd rs1 rs2) := .inr rfl
theorem rcall (rd rs1 rs2 : Reg) : Statement (.rcall rd rs1 rs2) := .inr rfl
theorem reply : Statement (.reply) := .inr rfl
theorem rwait (rd rs1 : Reg) : Statement (.rwait rd rs1) := .inr rfl
theorem rpoll (rd rs1 : Reg) : Statement (.rpoll rd rs1) := .inr rfl
theorem semwait (i : Fin 64) (rs1 : Reg) : Statement (.semwait i rs1) := .inr rfl
theorem semadd (i : Fin 64) (rs1 : Reg) : Statement (.semadd i rs1) := .inr rfl
theorem semset (i : Fin 64) (rs1 : Reg) : Statement (.semset i rs1) := .inr rfl
theorem semrd (rd : Reg) (i : Fin 64) : Statement (.semrd rd i) := .inr rfl
theorem bardecl (i : Fin 16) (rs1 : Reg) : Statement (.bardecl i rs1) := .inr rfl
theorem barwait (i : Fin 16) : Statement (.barwait i) := .inr rfl
theorem chkwait (i : Fin 8) (rs1 : Reg) : Statement (.chkwait i rs1) := .inr rfl
theorem chktest (rd : Reg) (i : Fin 8) (rs1 : Reg) : Statement (.chktest rd i rs1) := .inr rfl
theorem ecmd (rd rs1 : Reg) : Statement (.ecmd rd rs1) := .inr rfl
theorem eseq (rd rs1 : Reg) : Statement (.eseq rd rs1) := .inr rfl
theorem acqX (rd rs1 : Reg) : Statement (.acqX rd rs1) := .inr rfl
theorem acqS (rd rs1 : Reg) : Statement (.acqS rd rs1) := .inr rfl
theorem acqw (rd rs2 rs1 : Reg) : Statement (.acqw rd rs2 rs1) := .inr rfl
theorem rel (rs1 : Reg) : Statement (.rel rs1) := .inr rfl
theorem relv (rs2 rs1 : Reg) : Statement (.relv rs2 rs1) := .inr rfl
theorem bind (rs1 rs2 : Reg) : Statement (.bind rs1 rs2) := .inr rfl
theorem unbind (rs1 rs2 : Reg) : Statement (.unbind rs1 rs2) := .inr rfl
theorem fenceG : Statement (.fenceG) := .inr rfl
theorem fenceB (rs1 : Reg) : Statement (.fenceB rs1) := .inr rfl
theorem fenceE : Statement (.fenceE) := .inr rfl
theorem fenceJ : Statement (.fenceJ) := .inr rfl
theorem amoaddW (rd rs2 rs1 : Reg) : Statement (.amoaddW rd rs2 rs1) := .inr rfl
theorem amoaddWP (rs2 rs1 : Reg) : Statement (.amoaddWP rs2 rs1) := .inr rfl
theorem amoaddD (rd rs2 rs1 : Reg) : Statement (.amoaddD rd rs2 rs1) := .inr rfl
theorem amoaddDP (rs2 rs1 : Reg) : Statement (.amoaddDP rs2 rs1) := .inr rfl
theorem amoandW (rd rs2 rs1 : Reg) : Statement (.amoandW rd rs2 rs1) := .inr rfl
theorem amoandWP (rs2 rs1 : Reg) : Statement (.amoandWP rs2 rs1) := .inr rfl
theorem amoandD (rd rs2 rs1 : Reg) : Statement (.amoandD rd rs2 rs1) := .inr rfl
theorem amoandDP (rs2 rs1 : Reg) : Statement (.amoandDP rs2 rs1) := .inr rfl
theorem amoorW (rd rs2 rs1 : Reg) : Statement (.amoorW rd rs2 rs1) := .inr rfl
theorem amoorWP (rs2 rs1 : Reg) : Statement (.amoorWP rs2 rs1) := .inr rfl
theorem amoorD (rd rs2 rs1 : Reg) : Statement (.amoorD rd rs2 rs1) := .inr rfl
theorem amoorDP (rs2 rs1 : Reg) : Statement (.amoorDP rs2 rs1) := .inr rfl
theorem amoxorW (rd rs2 rs1 : Reg) : Statement (.amoxorW rd rs2 rs1) := .inr rfl
theorem amoxorWP (rs2 rs1 : Reg) : Statement (.amoxorWP rs2 rs1) := .inr rfl
theorem amoxorD (rd rs2 rs1 : Reg) : Statement (.amoxorD rd rs2 rs1) := .inr rfl
theorem amoxorDP (rs2 rs1 : Reg) : Statement (.amoxorDP rs2 rs1) := .inr rfl
theorem amominW (rd rs2 rs1 : Reg) : Statement (.amominW rd rs2 rs1) := .inr rfl
theorem amominWP (rs2 rs1 : Reg) : Statement (.amominWP rs2 rs1) := .inr rfl
theorem amominD (rd rs2 rs1 : Reg) : Statement (.amominD rd rs2 rs1) := .inr rfl
theorem amominDP (rs2 rs1 : Reg) : Statement (.amominDP rs2 rs1) := .inr rfl
theorem amomaxW (rd rs2 rs1 : Reg) : Statement (.amomaxW rd rs2 rs1) := .inr rfl
theorem amomaxWP (rs2 rs1 : Reg) : Statement (.amomaxWP rs2 rs1) := .inr rfl
theorem amomaxD (rd rs2 rs1 : Reg) : Statement (.amomaxD rd rs2 rs1) := .inr rfl
theorem amomaxDP (rs2 rs1 : Reg) : Statement (.amomaxDP rs2 rs1) := .inr rfl
theorem amominuW (rd rs2 rs1 : Reg) : Statement (.amominuW rd rs2 rs1) := .inr rfl
theorem amominuWP (rs2 rs1 : Reg) : Statement (.amominuWP rs2 rs1) := .inr rfl
theorem amominuD (rd rs2 rs1 : Reg) : Statement (.amominuD rd rs2 rs1) := .inr rfl
theorem amominuDP (rs2 rs1 : Reg) : Statement (.amominuDP rs2 rs1) := .inr rfl
theorem amomaxuW (rd rs2 rs1 : Reg) : Statement (.amomaxuW rd rs2 rs1) := .inr rfl
theorem amomaxuWP (rs2 rs1 : Reg) : Statement (.amomaxuWP rs2 rs1) := .inr rfl
theorem amomaxuD (rd rs2 rs1 : Reg) : Statement (.amomaxuD rd rs2 rs1) := .inr rfl
theorem amomaxuDP (rs2 rs1 : Reg) : Statement (.amomaxuDP rs2 rs1) := .inr rfl
theorem amoswapW (rd rs2 rs1 : Reg) : Statement (.amoswapW rd rs2 rs1) := .inr rfl
theorem amoswapWP (rs2 rs1 : Reg) : Statement (.amoswapWP rs2 rs1) := .inr rfl
theorem amoswapD (rd rs2 rs1 : Reg) : Statement (.amoswapD rd rs2 rs1) := .inr rfl
theorem amoswapDP (rs2 rs1 : Reg) : Statement (.amoswapDP rs2 rs1) := .inr rfl
theorem amocasW (rd rs2 rs3 rs1 : Reg) : Statement (.amocasW rd rs2 rs3 rs1) := .inr rfl
theorem amocasD (rd rs2 rs3 rs1 : Reg) : Statement (.amocasD rd rs2 rs3 rs1) := .inr rfl
theorem amofaddS (rd rs2 rs1 : Reg) : Statement (.amofaddS rd rs2 rs1) := .inr rfl
theorem amofaddBh (rd rs2 rs1 : Reg) : Statement (.amofaddBh rd rs2 rs1) := .inr rfl
theorem amofmaxS (rd rs2 rs1 : Reg) : Statement (.amofmaxS rd rs2 rs1) := .inr rfl
theorem swldC (rd rs1 : Reg) : Statement (.swldC rd rs1) := .inr rfl
theorem swldV (rd rs1 : Reg) : Statement (.swldV rd rs1) := .inr rfl
theorem swst (rs2 rs1 : Reg) : Statement (.swst rs2 rs1) := .inr rfl
theorem swadd (rd rs2 rs1 : Reg) : Statement (.swadd rd rs2 rs1) := .inr rfl
theorem swarm (rd rs2 rs1 : Reg) : Statement (.swarm rd rs2 rs1) := .inr rfl
theorem swdis (rs1 : Reg) : Statement (.swdis rs1) := .inr rfl
theorem swraw (rd rs2 rs1 : Reg) : Statement (.swraw rd rs2 rs1) := .inr rfl
theorem bmode (rd rs2 rs1 : Reg) : Statement (.bmode rd rs2 rs1) := .inr rfl
theorem bcast (rs2 rs1 : Reg) : Statement (.bcast rs2 rs1) := .inr rfl
theorem bmv (rd rs2 rs1 : Reg) : Statement (.bmv rd rs2 rs1) := .inr rfl
theorem bexpr (rd rs2 rs1 : Reg) : Statement (.bexpr rd rs2 rs1) := .inr rfl
theorem bget (rs2 rs1 : Reg) : Statement (.bget rs2 rs1) := .inr rfl
theorem bstat (rd rs1 : Reg) : Statement (.bstat rd rs1) := .inr rfl
theorem mma (acc : Acc) (rs1 rs2 rs3 : Reg) : Statement (.mma acc rs1 rs2 rs3) := .inr rfl
theorem wld (n : Fin 32) (rs1 rs2 : Reg) : Statement (.wld n rs1 rs2) := .inr rfl
theorem accz (acc : Acc) : Statement (.accz acc) := .inr rfl
theorem accrd (vd : VReg) (acc : Acc) (rs1 : Reg) : Statement (.accrd vd acc rs1) := .inr rfl
theorem accwr (acc : Acc) (vs : VReg) (rs1 : Reg) : Statement (.accwr acc vs rs1) := .inr rfl
theorem accst (acc : Acc) (rs1 : Reg) : Statement (.accst acc rs1) := .inr rfl
theorem mstat (rd : Reg) : Statement (.mstat rd) := .inr rfl
theorem vfadd (vd va vb : VReg) : Statement (.vfadd vd va vb) := .inr rfl
theorem vfsub (vd va vb : VReg) : Statement (.vfsub vd va vb) := .inr rfl
theorem vfmul (vd va vb : VReg) : Statement (.vfmul vd va vb) := .inr rfl
theorem vfmax (vd va vb : VReg) : Statement (.vfmax vd va vb) := .inr rfl
theorem vfmin (vd va vb : VReg) : Statement (.vfmin vd va vb) := .inr rfl
theorem vfabs (vd va : VReg) : Statement (.vfabs vd va) := .inr rfl
theorem vfneg (vd va : VReg) : Statement (.vfneg vd va) := .inr rfl
theorem vfcmp (cond : FCond) (vd va vb : VReg) : Statement (.vfcmp cond vd va vb) := .inr rfl
theorem viadd (vd va vb : VReg) : Statement (.viadd vd va vb) := .inr rfl
theorem visub (vd va vb : VReg) : Statement (.visub vd va vb) := .inr rfl
theorem vimul (vd va vb : VReg) : Statement (.vimul vd va vb) := .inr rfl
theorem vand (vd va vb : VReg) : Statement (.vand vd va vb) := .inr rfl
theorem vor (vd va vb : VReg) : Statement (.vor vd va vb) := .inr rfl
theorem vxor (vd va vb : VReg) : Statement (.vxor vd va vb) := .inr rfl
theorem vsll (vd va vb : VReg) : Statement (.vsll vd va vb) := .inr rfl
theorem vsrl (vd va vb : VReg) : Statement (.vsrl vd va vb) := .inr rfl
theorem vsra (vd va vb : VReg) : Statement (.vsra vd va vb) := .inr rfl
theorem vimin (vd va vb : VReg) : Statement (.vimin vd va vb) := .inr rfl
theorem vimax (vd va vb : VReg) : Statement (.vimax vd va vb) := .inr rfl
theorem vicmp (cond : ICond) (vd va vb : VReg) : Statement (.vicmp cond vd va vb) := .inr rfl
theorem vexp2 (vd va : VReg) : Statement (.vexp2 vd va) := .inr rfl
theorem vrcp (vd va : VReg) : Statement (.vrcp vd va) := .inr rfl
theorem vrsq (vd va : VReg) : Statement (.vrsq vd va) := .inr rfl
theorem vlog2 (vd va : VReg) : Statement (.vlog2 vd va) := .inr rfl
theorem vcvt (kind : CvtKind) (vd va : VReg) : Statement (.vcvt kind vd va) := .inr rfl
theorem vfsum (vd va : VReg) : Statement (.vfsum vd va) := .inr rfl
theorem vfmaxr (vd va : VReg) : Statement (.vfmaxr vd va) := .inr rfl
theorem visum (vd va : VReg) : Statement (.visum vd va) := .inr rfl
theorem vperm (vd va vb : VReg) : Statement (.vperm vd va vb) := .inr rfl
theorem vbcast (vd : VReg) (rs1 : Reg) : Statement (.vbcast vd rs1) := .inr rfl
theorem vmvx (rd : Reg) (va : VReg) (lane : Fin 32) : Statement (.vmvx rd va lane) := .inr rfl
theorem vmvv (vd va : VReg) : Statement (.vmvv vd va) := .inr rfl
theorem vslide (vd va : VReg) (amt : BitVec 5) : Statement (.vslide vd va amt) := .inr rfl
theorem vlds (vd : VReg) (rs1 rs2 : Reg) : Statement (.vlds vd rs1 rs2) := .inr rfl
theorem vsts (vs : VReg) (rs1 rs2 : Reg) : Statement (.vsts vs rs1 rs2) := .inr rfl
theorem vldx (vd : VReg) (rs1 : Reg) (vb : VReg) : Statement (.vldx vd rs1 vb) := .inr rfl
theorem vld (vd : VReg) (rs1 : Reg) (imm : BitVec 12) : Statement (.vld vd rs1 imm) := .inr rfl
theorem vst (vs : VReg) (rs1 : Reg) (imm : BitVec 12) : Statement (.vst vs rs1 imm) := .inr rfl
theorem vfma (vd va vb vc : VReg) : Statement (.vfma vd va vb vc) := .inr rfl
theorem vfms (vd va vb vc : VReg) : Statement (.vfms vd va vb vc) := .inr rfl
theorem vsel (vd va vb vc : VReg) : Statement (.vsel vd va vb vc) := .inr rfl
theorem vrec (vd va vb vc : VReg) : Statement (.vrec vd va vb vc) := .inr rfl
theorem bfmtWrite (f : CsrOp) (b : Fin 128) (rd src : Reg) : Statement (.bfmtWrite f b rd src) := .inl rfl
theorem tstatusWrite (f : CsrOp) (rd src : Reg) : Statement (.tstatusWrite f rd src) := .inl rfl
theorem loopCsrWrite (f : CsrOp) (k : Fin 6) (rd src : Reg) : Statement (.loopCsrWrite f k rd src) := .inl rfl
theorem replyCsrWrite (f : CsrOp) (k : Fin 2) (rd src : Reg) : Statement (.replyCsrWrite f k rd src) := .inl rfl
theorem trapEntry (u : Nat) : Statement (.trapEntry u) := .inl rfl
theorem dispatchRecord (src : Submitter) : Statement (.dispatchRecord src) := .inl rfl
theorem residencyCheck (part lid : Nat) : Statement (.residencyCheck part lid) := .inl rfl
theorem batchGrant (part cluster : Nat) : Statement (.batchGrant part cluster) := .inl rfl
theorem stageSchedule (u : Nat) : Statement (.stageSchedule u) := .inl rfl
theorem stackCoreFiringStart (u : Nat) : Statement (.stackCoreFiringStart u) := .inl rfl
theorem phaseCommit (part lid : Nat) : Statement (.phaseCommit part lid) := .inl rfl
theorem launchComplete (part lid : Nat) : Statement (.launchComplete part lid) := .inl rfl
theorem watchdogExpiry (u : Nat) : Statement (.watchdogExpiry u) := .inl rfl
theorem messageDepart (u : Nat) : Statement (.messageDepart u) := .inl rfl
theorem messageAccept (k : Nat) : Statement (.messageAccept k) := .inl rfl
theorem replyArrival (k : Nat) : Statement (.replyArrival k) := .inl rfl
theorem replyTimeout (u slot : Nat) : Statement (.replyTimeout u slot) := .inl rfl
theorem wfeTimeout (u : Nat) : Statement (.wfeTimeout u) := .inl rfl
theorem homeLoad (u : Nat) (walk : Bool) : Statement (.homeLoad u walk) := .inl rfl
theorem homeStoreArrival (u j : Nat) : Statement (.homeStoreArrival u j) := .inl rfl
theorem journalAck (u j : Nat) : Statement (.journalAck u j) := .inl rfl
theorem journalRefusal (u j : Nat) : Statement (.journalRefusal u j) := .inl rfl
theorem unblockToken (k : Nat) : Statement (.unblockToken k) := .inl rfl
theorem timedStoreArrival (u j : Nat) : Statement (.timedStoreArrival u j) := .inl rfl
theorem timedStoreAccept (u j : Nat) : Statement (.timedStoreAccept u j) := .inl rfl
theorem timedStoreVisible (k : Nat) : Statement (.timedStoreVisible k) := .inl rfl
theorem notBeforeLoad (u : Nat) : Statement (.notBeforeLoad u) := .inl rfl
theorem acquireRequest (u : Nat) : Statement (.acquireRequest u) := .inl rfl
theorem objectGrant (k : Nat) : Statement (.objectGrant k) := .inl rfl
theorem acquireCancel (u : Nat) : Statement (.acquireCancel u) := .inl rfl
theorem releaseApply (k : Nat) : Statement (.releaseApply k) := .inl rfl
theorem atomicEngineGrant (c : Nat) : Statement (.atomicEngineGrant c) := .inl rfl
theorem stackAtomicGrant (g : Nat) : Statement (.stackAtomicGrant g) := .inl rfl
theorem copy (c ch : Nat) : Statement (.copy c ch) := .inl rfl
theorem copyt (c ch : Nat) : Statement (.copyt c ch) := .inl rfl
theorem csrwalk (c ch : Nat) : Statement (.csrwalk c ch) := .inl rfl
theorem swregRegister (g : Nat) : Statement (.swregRegister g) := .inl rfl
theorem swregUnregister (g : Nat) : Statement (.swregUnregister g) := .inl rfl
theorem reduce (g : Nat) : Statement (.reduce g) := .inl rfl
theorem apertureStart (c part ch : Nat) (v : Word) : Statement (.apertureStart c part ch v) := .inl rfl
theorem chunkComplete (c ch i : Nat) : Statement (.chunkComplete c ch i) := .inl rfl
theorem engineOpComplete (e : EngineQueue) : Statement (.engineOpComplete e) := .inl rfl
theorem engineOpFaulted (e : EngineQueue) : Statement (.engineOpFaulted e) := .inl rfl
theorem killDone (u : Nat) : Statement (.killDone u) := .inl rfl
theorem roosterDue (l k : Nat) : Statement (.roosterDue l k) := .inl rfl
theorem sweepVisit (l : Nat) : Statement (.sweepVisit l) := .inl rfl
theorem alarmPost (l : Nat) : Statement (.alarmPost l) := .inl rfl
theorem lawTableCommit (i : Fin 256) (v : Word) : Statement (.lawTableCommit i v) := .inl rfl
theorem thresholdCommit (stack : Option (Fin 8)) (i : Fin 256) (v : Word) : Statement (.thresholdCommit stack i v) := .inl rfl
theorem stepCounterWrite (j : Fin 4096) (v : Word) : Statement (.stepCounterWrite j v) := .inl rfl
theorem handlerTableCommit (i : Fin 64) (v : Word) : Statement (.handlerTableCommit i v) := .inl rfl
theorem bmodeGrant (g pch : Nat) : Statement (.bmodeGrant g pch) := .inl rfl
theorem bmvBurst (g pch : Nat) : Statement (.bmvBurst g pch) := .inl rfl
theorem bexprPiece (g pch : Nat) : Statement (.bexprPiece g pch) := .inl rfl
theorem bankRetry (r : ReqId) : Statement (.bankRetry r) := .inl rfl
theorem retryResend (g k : Nat) : Statement (.retryResend g k) := .inl rfl
theorem burstTicketWindowEnd (g pch : Nat) : Statement (.burstTicketWindowEnd g pch) := .inl rfl
theorem beadFault (g pch progress : Nat) : Statement (.beadFault g pch progress) := .inl rfl
theorem clockExchange (die : Nat) (good : Bool) (offset : Int) : Statement (.clockExchange die good offset) := .inl rfl
theorem holdoverExpiry (die : Nat) : Statement (.holdoverExpiry die) := .inl rfl
theorem peerClockExchange (good : Bool) (offset : Int) : Statement (.peerClockExchange good offset) := .inl rfl
theorem gangStop : Statement (.gangStop) := .inl rfl
theorem coreEvict (u : Nat) : Statement (.coreEvict u) := .inl rfl
theorem partitionResume : Statement (.partitionResume) := .inl rfl
theorem serviceSwitch (src : Requester) : Statement (.serviceSwitch src) := .inl rfl
theorem serviceShoot (src : Requester) : Statement (.serviceShoot src) := .inl rfl
theorem servicePlace (src : Requester) : Statement (.servicePlace src) := .inl rfl
theorem serviceRoot (src : Requester) : Statement (.serviceRoot src) := .inl rfl
theorem serviceFweight (src : Requester) : Statement (.serviceFweight src) := .inl rfl
theorem servicePeer (src : Requester) : Statement (.servicePeer src) := .inl rfl
theorem serviceGrandmaster (src : Requester) : Statement (.serviceGrandmaster src) := .inl rfl
theorem serviceDiscipline (src : Requester) : Statement (.serviceDiscipline src) := .inl rfl
theorem serviceHandover (src : Requester) : Statement (.serviceHandover src) := .inl rfl
theorem serviceAttest (src : Requester) : Statement (.serviceAttest src) := .inl rfl
theorem serviceRegion (src : Requester) : Statement (.serviceRegion src) := .inl rfl
theorem ownClaim (master : Fin 3) (link : Fin 2) : Statement (.ownClaim master link) := .inl rfl
theorem hostQtailWrite (part link : Nat) (v : Word) : Statement (.hostQtailWrite part link v) := .inl rfl
theorem walkFill (die k : Nat) : Statement (.walkFill die k) := .inl rfl
theorem faultRecordPost (part : Nat) : Statement (.faultRecordPost part) := .inl rfl
theorem ringHeadWrite (part : Nat) (terminal : Bool) (v : Word) : Statement (.ringHeadWrite part terminal v) := .inl rfl
theorem fstatWrite (part : Nat) (v : Word) : Statement (.fstatWrite part v) := .inl rfl
theorem detctlWrite (v : Word) : Statement (.detctlWrite v) := .inl rfl
theorem orderLogRecord (part lid kind unit : Nat) (choice : Word) : Statement (.orderLogRecord part lid kind unit choice) := .inl rfl
theorem budgetTreePeriod (demand : List (Nat × Nat)) : Statement (.budgetTreePeriod demand) := .inl rfl
theorem pwrctlWrite (v : Word) : Statement (.pwrctlWrite v) := .inl rfl
theorem divWrite (k : Fin 16) (v : Word) : Statement (.divWrite k v) := .inl rfl
theorem voltageRampEnd (c : Nat) : Statement (.voltageRampEnd c) := .inl rfl
theorem frequencySwitch (c : Nat) : Statement (.frequencySwitch c) := .inl rfl
theorem powerSwitchOpen (u : Nat) : Statement (.powerSwitchOpen u) := .inl rfl
theorem powerSwitchClose (u : Nat) : Statement (.powerSwitchClose u) := .inl rfl
theorem linkLost (link : Nat) : Statement (.linkLost link) := .inl rfl
theorem flitRetry (hop : Nat) : Statement (.flitRetry hop) := .inl rfl
theorem lifetimeCommit (peaks : List Nat) : Statement (.lifetimeCommit peaks) := .inl rfl
theorem reset (imageOk : Bool) : Statement (.reset imageOk) := .inl rfl
theorem lifeCycleChange (st : Fin 4) : Statement (.lifeCycleChange st) := .inl rfl
theorem recoveryImage (imageOk : Bool) : Statement (.recoveryImage imageOk) := .inl rfl
theorem registerWrite (w : RegWrite) (v : Word) : Statement (.registerWrite w v) := .inl rfl
theorem linkDown (link : Nat) : Statement (.linkDown link) := .inl rfl
theorem linkRetrain (link : Nat) : Statement (.linkRetrain link) := .inl rfl
theorem droopEvent (die : Fin 4) : Statement (.droopEvent die) := .inl rfl
theorem orderlyPowerDown : Statement (.orderlyPowerDown) := .inl rfl

end Sys2Proof.Laws.EncodeLength
end

