-- ==== Sys2Proof/Safety.lean ====
section
/-! DEFINITION. What a safe run is: k steps that all answer a next state. -/

namespace Sys2Proof

/-- Every one of the next k steps answers a next state. -/
def Safe : Nat → Machine.State → Prop
  | 0, _ => True
  | k + 1, s => ∃ t, Machine.step s = .next t ∧ Safe k t

end Sys2Proof
end

