-- ==== Sys2Proof/Tests/Slice0.lean ====
section
/-! SUPPORT. Ill-formed terms, words of the spec and their instructions, a few results the spec states, and for every statement with
hypotheses states and operands that meet them, clause by clause. -/

namespace Sys2Proof.Tests
open Sys2Proof Sys2Proof.Machine Sys2Proof.Claim
set_option Elab.async false

-- small states

/-- The first byte of stack node 0. -/
def globalA : Word := 0x0100000000000000#64

/-- A unit with values in some registers. -/
def xs (l : List (Reg × Word)) (u : Machine.Unit) : Machine.Unit := l.foldl (fun u p => { u with x := u.x.set p.1 p.2 }) u
/-- Core 0 after reset as the given unit. -/
def core0 (u : Machine.Unit) : State := { State.reset with cur := u }
/-- A U-mode core with a handler and a running firing of launch 1. -/
def userUnit : Machine.Unit := { pc := 0x1000, run := .running, t := { tvec := 0x2000 }, firing := { lid := 1, fid := 3 } }
def user : State := core0 userUnit
/-- The same core in S mode. -/
def super : State := core0 { userUnit with priv := .s }
/-- The management core. -/
def mgmt : State := { State.reset with focus := 2304, cur := { priv := .m, pc := 0x1000 } }
/-- A stack core. -/
def sc : State := { State.reset with focus := 2048, cur := userUnit }
/-- A core whose registers a0-a3 (x10-x13) hold the given values. -/
def args (a b c d : Word) : State := core0 (xs [(10, a), (11, b), (12, c), (13, d)] userUnit)
/-- A result is `.ok v`, or `.error e`, as a Bool. -/
def okB {ε α : Type} [DecidableEq α] (r : Except ε α) (v : α) : Bool := match r with | .ok a => decide (a = v) | .error _ => false
def errB {ε α : Type} [DecidableEq ε] (r : Except ε α) (e : ε) : Bool := match r with | .ok _ => false | .error a => decide (a = e)
theorem okB_iff {ε α : Type} [DecidableEq α] (r : Except ε α) (v : α) : okB r v = true ↔ r = .ok v := by cases r <;> simp [okB]
theorem errB_iff {ε α : Type} [DecidableEq ε] (r : Except ε α) (e : ε) : errB r e = true ↔ r = .error e := by cases r <;> simp [errB]
/-- The same core with a region that grants every MMIO address. -/
def opened (u : Machine.Unit) : State := { core0 u with parts := [(0, { regions := [(2, 0x8000000301000000), (3, 0x2000000)] })] }
def isOk {ε α : Type} (r : Except ε α) : Bool := match r with | .ok _ => true | .error _ => false
/-- A launch record of two stages and two queues. -/
def rec1 : Record :=
  { prio := 0, groups := 100, widths := [4, 3], args := 0, cmpl := 0, wdog := 0, stktop := 0, weight := 0, batch := 0, phased := false, flock := [],
    stages := [{ entry := 0x1000, src := true }, { entry := 0x1100, src := false }],
    queues := [{ core := 15, depth := 4, slot8 := 8, base := 0x2000, pstage := 0, cstage := 1, prate := 1, crate := 2 },
               { core := 1, depth := 2, slot8 := 1, base := 0x7FFF0, pstage := 1, cstage := 0, prate := 2, crate := 1 }], ranges := [] }
/-- Launch 1, running, with slots 0 and 1 of queue 0 published. -/
def launch1 : Launch := { lid := 1, record := rec1, groups := 100, st := .running, qs := [(0, { granted := 2, pub := [0, 1] })] }
/-- Core 0 with launch 1 active; handle 0 reads queue 0, handle 1 writes queue 1. -/
def launched (u : Machine.Unit) : State :=
  { core0 { u with handles := [(0, some { out := false, rate := 2, cursor := 0 }), (1, some { out := true, rate := 2, cursor := 0 })] } with
    parts := [(0, { launches := [launch1] })] }
/-- Core 0 with bytes of its scratchpad written: pairs of an address and a doubleword. -/
def scratchMem (l : List (Nat × Word)) : List Host.Cell := l.foldl (fun m p => writeNat m (scratchKey 0 p.1) p.2.toNat 8) []
/-- Core 0 with a state word of law 1 at scratchpad address 0 (bank 0 is STATE), threshold 1 in its law unit, x10 = 0 and x11 as given. -/
def lawState (kind : Nat) (p0 p1 p2 coord stamp thr d3 arg : Word) : State :=
  { core0 (xs [(11, arg)] { userUnit with bfmt := [(0, 8)] }) with
    mem := scratchMem [(0, coord), (8, stamp ||| 0x10000000000#64)]
    parts := [(0, { laws := [(4, 0x8000000000000000#64 ||| BitVec.ofNat 64 kind), (5, p0), (6, p1), (7, p2)] })]
    laws := [(0, { thr := [(4, thr), (7, d3)] })] }
/-- A cached leaf of stack node 0's first page: KBLOCK16 in pseudo-channel 0, row bytes 512, readable and writable. -/
def page0 (leaf : Word) : TcEntry := { part := 0, node := 0, base := 0, size := 0x10000, leaf := leaf }
/-- Core 0 with that page, x10 naming its first byte, x11 and the pseudo-channels of stack 0 as given. -/
def bankState (arg : Word) (cap : Nat) (pch : SMap Pch) : State :=
  { core0 (xs [(10, globalA), (11, arg)] userUnit) with
    dies := [(4, { tc := [page0 0x5800000000000C00] })], stks := [(0, { cap := cap, pch := pch })] }
/-- Core 0 with stack node 0's first page cached under the given leaf. -/
def paged (leaf : Word) (u : Machine.Unit) : State := { core0 u with dies := [(4, { tc := [page0 leaf] })] }
/-- A LINEAR leaf over all 128 pseudo-channels: readable, writable and executable; and one that forbids reads and writes. -/
def leafRwx : Word := 0x4000000000001C00
def leafX : Word := 0x4000000000001000
/-- One that grants reads and writes alone. -/
def leafRw : Word := 0x4000000000000C00

-- words written out from the encodings (R43, R49-R58), every operand with a value of its own

theorem test_decode_branches : 
    decodeWords 0x8C5A7537#32 0 0 = .lui 10 0x8c5a7 ∧ decodeWords 0x8C5A7517#32 0 0 = .auipc 10 0x8c5a7 ∧
    decodeWords 0xB4F1856F#32 0 0 = .jal 10 0x8c5a7 ∧ decodeWords 0x9A558567#32 0 0 = .jalr 10 11 0x9a5 ∧
    decodeWords 0xB4C58563#32 0 0 = .beq 11 12 0x9a5 ∧ decodeWords 0xB4C59563#32 0 0 = .bne 11 12 0x9a5 ∧
    decodeWords 0xB4C5C563#32 0 0 = .blt 11 12 0x9a5 ∧ decodeWords 0xB4C5D563#32 0 0 = .bge 11 12 0x9a5 ∧
    decodeWords 0xB4C5E563#32 0 0 = .bltu 11 12 0x9a5 ∧ decodeWords 0xB4C5F563#32 0 0 = .bgeu 11 12 0x9a5 := by decide +kernel
theorem test_decode_loads_and_stores : 
    decodeWords 0x9A558503#32 0 0 = .lb 10 11 0x9a5 ∧ decodeWords 0x9A559503#32 0 0 = .lh 10 11 0x9a5 ∧
    decodeWords 0x9A55A503#32 0 0 = .lw 10 11 0x9a5 ∧ decodeWords 0x9A55B503#32 0 0 = .ld 10 11 0x9a5 ∧
    decodeWords 0x9A55C503#32 0 0 = .lbu 10 11 0x9a5 ∧ decodeWords 0x9A55D503#32 0 0 = .lhu 10 11 0x9a5 ∧
    decodeWords 0x9A55E503#32 0 0 = .lwu 10 11 0x9a5 ∧ decodeWords 0x9AC582A3#32 0 0 = .sb 12 11 0x9a5 ∧
    decodeWords 0x9AC592A3#32 0 0 = .sh 12 11 0x9a5 ∧ decodeWords 0x9AC5A2A3#32 0 0 = .sw 12 11 0x9a5 ∧
    decodeWords 0x9AC5B2A3#32 0 0 = .sd 12 11 0x9a5 := by decide +kernel
theorem test_decode_immediates : 
    decodeWords 0x9A558513#32 0 0 = .addi 10 11 0x9a5 ∧ decodeWords 0x9A55A513#32 0 0 = .slti 10 11 0x9a5 ∧
    decodeWords 0x9A55B513#32 0 0 = .sltiu 10 11 0x9a5 ∧ decodeWords 0x9A55C513#32 0 0 = .xori 10 11 0x9a5 ∧
    decodeWords 0x9A55E513#32 0 0 = .ori 10 11 0x9a5 ∧ decodeWords 0x9A55F513#32 0 0 = .andi 10 11 0x9a5 ∧
    decodeWords 0x01559513#32 0 0 = .slli 10 11 21 ∧ decodeWords 0x0155D513#32 0 0 = .srli 10 11 21 ∧
    decodeWords 0x4155D513#32 0 0 = .srai 10 11 21 := by decide +kernel
theorem test_decode_registers : 
    decodeWords 0x00C58533#32 0 0 = .add 10 11 12 ∧ decodeWords 0x40C58533#32 0 0 = .sub 10 11 12 ∧
    decodeWords 0x00C59533#32 0 0 = .sll 10 11 12 ∧ decodeWords 0x00C5A533#32 0 0 = .slt 10 11 12 ∧
    decodeWords 0x00C5B533#32 0 0 = .sltu 10 11 12 ∧ decodeWords 0x00C5C533#32 0 0 = .xor 10 11 12 ∧
    decodeWords 0x00C5D533#32 0 0 = .srl 10 11 12 ∧ decodeWords 0x40C5D533#32 0 0 = .sra 10 11 12 ∧
    decodeWords 0x00C5E533#32 0 0 = .or 10 11 12 ∧ decodeWords 0x00C5F533#32 0 0 = .and 10 11 12 := by decide +kernel
theorem test_decode_words : 
    decodeWords 0x9A55851B#32 0 0 = .addiw 10 11 0x9a5 ∧ decodeWords 0x0155951B#32 0 0 = .slliw 10 11 21 ∧
    decodeWords 0x0155D51B#32 0 0 = .srliw 10 11 21 ∧ decodeWords 0x4155D51B#32 0 0 = .sraiw 10 11 21 ∧
    decodeWords 0x00C5853B#32 0 0 = .addw 10 11 12 ∧ decodeWords 0x40C5853B#32 0 0 = .subw 10 11 12 ∧
    decodeWords 0x00C5953B#32 0 0 = .sllw 10 11 12 ∧ decodeWords 0x00C5D53B#32 0 0 = .srlw 10 11 12 ∧
    decodeWords 0x40C5D53B#32 0 0 = .sraw 10 11 12 := by decide +kernel
theorem test_decode_fence_mul : 
    decodeWords 0x0960000F#32 0 0 = .fence 9 6 ∧ decodeWords 0x00000073#32 0 0 = .ecall ∧
    decodeWords 0x00100073#32 0 0 = .ebreak ∧ decodeWords 0x02C58533#32 0 0 = .mul 10 11 12 ∧
    decodeWords 0x02C59533#32 0 0 = .mulh 10 11 12 ∧ decodeWords 0x02C5A533#32 0 0 = .mulhsu 10 11 12 ∧
    decodeWords 0x02C5B533#32 0 0 = .mulhu 10 11 12 ∧ decodeWords 0x02C5C533#32 0 0 = .div 10 11 12 ∧
    decodeWords 0x02C5D533#32 0 0 = .divu 10 11 12 ∧ decodeWords 0x02C5E533#32 0 0 = .rem 10 11 12 ∧
    decodeWords 0x02C5F533#32 0 0 = .remu 10 11 12 ∧ decodeWords 0x02C5853B#32 0 0 = .mulw 10 11 12 ∧
    decodeWords 0x02C5C53B#32 0 0 = .divw 10 11 12 ∧ decodeWords 0x02C5D53B#32 0 0 = .divuw 10 11 12 ∧
    decodeWords 0x02C5E53B#32 0 0 = .remw 10 11 12 ∧ decodeWords 0x02C5F53B#32 0 0 = .remuw 10 11 12 := by decide +kernel
theorem test_decode_csr_zba : 
    decodeWords 0xCC159573#32 0 0 = .csrrw 10 11 0xcc1 ∧ decodeWords 0xCC15A573#32 0 0 = .csrrs 10 11 0xcc1 ∧
    decodeWords 0xCC15B573#32 0 0 = .csrrc 10 11 0xcc1 ∧ decodeWords 0xCC1B5573#32 0 0 = .csrrwi 10 22 0xcc1 ∧
    decodeWords 0xCC1B6573#32 0 0 = .csrrsi 10 22 0xcc1 ∧ decodeWords 0xCC1B7573#32 0 0 = .csrrci 10 22 0xcc1 ∧
    decodeWords 0x20C5A533#32 0 0 = .sh1add 10 11 12 ∧ decodeWords 0x20C5C533#32 0 0 = .sh2add 10 11 12 ∧
    decodeWords 0x20C5E533#32 0 0 = .sh3add 10 11 12 ∧ decodeWords 0x08C5853B#32 0 0 = .addUw 10 11 12 ∧
    decodeWords 0x20C5A53B#32 0 0 = .sh1addUw 10 11 12 ∧ decodeWords 0x20C5C53B#32 0 0 = .sh2addUw 10 11 12 ∧
    decodeWords 0x20C5E53B#32 0 0 = .sh3addUw 10 11 12 ∧ decodeWords 0x0955951B#32 0 0 = .slliUw 10 11 21 := by decide +kernel
theorem test_decode_firings_queues : 
    decodeWords 0x0000000B#32 0 0 = .fin ∧ decodeWords 0x0201850B#32 0 0 = .widf 10 3 ∧
    decodeWords 0x0405850B#32 0 0 = .grow 10 11 ∧ decodeWords 0x0605850B#32 0 0 = .launch 10 11 ∧
    decodeWords 0x0805800B#32 0 0 = .wfe 11 ∧ decodeWords 0x0A00008B#32 0 0 = .lpclr 1 ∧ decodeWords 0x1000000B#32 0 0 = .tret ∧
    decodeWords 0x1205850B#32 0 0 = .kill 10 11 ∧ decodeWords 0x14C5850B#32 0 0 = .placew 10 11 12 ∧
    decodeWords 0x00E5900B#32 0 0 = .qwaitF 14 11 ∧ decodeWords 0x02E5900B#32 0 0 = .qwaitE 14 11 ∧
    decodeWords 0x04E5900B#32 0 0 = .qadvC 14 11 ∧ decodeWords 0x06E5900B#32 0 0 = .qadvP 14 11 ∧
    decodeWords 0x08E0150B#32 0 0 = .qcnt 10 14 ∧ decodeWords 0x0AE5950B#32 0 0 = .qslot 10 14 11 ∧
    decodeWords 0x9A55A08B#32 0 0 = .lpset 1 11 0x9a5 ∧ decodeWords 0x9A56C08B#32 0 0 = .lpseti 1 13 0x9a5 := by decide +kernel
theorem test_decode_messages : 
    decodeWords 0x00C5D00B#32 0 0 = .send 11 12 ∧ decodeWords 0x02C5D50B#32 0 0 = .sendR 10 11 12 ∧
    decodeWords 0x04C5D50B#32 0 0 = .sendnb 10 11 12 ∧ decodeWords 0x06C5D50B#32 0 0 = .rcall 10 11 12 ∧
    decodeWords 0x0800500B#32 0 0 = .reply ∧ decodeWords 0x0A05D50B#32 0 0 = .rwait 10 11 ∧
    decodeWords 0x0C05D50B#32 0 0 = .rpoll 10 11 := by decide +kernel
theorem test_decode_synchronisation : 
    decodeWords 0x0255E00B#32 0 0 = .semwait 37 11 ∧ decodeWords 0x0655E00B#32 0 0 = .semadd 37 11 ∧
    decodeWords 0x0A55E00B#32 0 0 = .semset 37 11 ∧ decodeWords 0x0E50650B#32 0 0 = .semrd 10 37 ∧
    decodeWords 0x1055E00B#32 0 0 = .bardecl 5 11 ∧ decodeWords 0x1450600B#32 0 0 = .barwait 5 ∧
    decodeWords 0x1855E00B#32 0 0 = .chkwait 5 11 ∧ decodeWords 0x1C55E50B#32 0 0 = .chktest 10 5 11 ∧
    decodeWords 0x0005F50B#32 0 0 = .ecmd 10 11 ∧ decodeWords 0x0205F50B#32 0 0 = .eseq 10 11 := by decide +kernel
theorem test_decode_objects_fences : 
    decodeWords 0x0005852B#32 0 0 = .acqX 10 11 ∧ decodeWords 0x0205852B#32 0 0 = .acqS 10 11 ∧
    decodeWords 0x04C5852B#32 0 0 = .acqw 10 12 11 ∧ decodeWords 0x0605802B#32 0 0 = .rel 11 ∧
    decodeWords 0x08C5802B#32 0 0 = .relv 12 11 ∧ decodeWords 0x0AC5802B#32 0 0 = .bind 11 12 ∧
    decodeWords 0x0CC5802B#32 0 0 = .unbind 11 12 ∧ decodeWords 0x0000102B#32 0 0 = .fenceG ∧
    decodeWords 0x0205902B#32 0 0 = .fenceB 11 ∧ decodeWords 0x0400102B#32 0 0 = .fenceE ∧
    decodeWords 0x0600102B#32 0 0 = .fenceJ := by decide +kernel
theorem test_decode_atomics : 
    decodeWords 0x00C5A52B#32 0 0 = .amoaddW 10 12 11 ∧ decodeWords 0x08C5A02B#32 0 0 = .amoaddWP 12 11 ∧
    decodeWords 0x00C5B52B#32 0 0 = .amoaddD 10 12 11 ∧ decodeWords 0x08C5B02B#32 0 0 = .amoaddDP 12 11 ∧
    decodeWords 0x10C5A52B#32 0 0 = .amoandW 10 12 11 ∧ decodeWords 0x18C5A02B#32 0 0 = .amoandWP 12 11 ∧
    decodeWords 0x10C5B52B#32 0 0 = .amoandD 10 12 11 ∧ decodeWords 0x18C5B02B#32 0 0 = .amoandDP 12 11 ∧
    decodeWords 0x20C5A52B#32 0 0 = .amoorW 10 12 11 ∧ decodeWords 0x28C5A02B#32 0 0 = .amoorWP 12 11 ∧
    decodeWords 0x20C5B52B#32 0 0 = .amoorD 10 12 11 ∧ decodeWords 0x28C5B02B#32 0 0 = .amoorDP 12 11 ∧
    decodeWords 0x30C5A52B#32 0 0 = .amoxorW 10 12 11 ∧ decodeWords 0x38C5A02B#32 0 0 = .amoxorWP 12 11 ∧
    decodeWords 0x30C5B52B#32 0 0 = .amoxorD 10 12 11 ∧ decodeWords 0x38C5B02B#32 0 0 = .amoxorDP 12 11 := by decide +kernel
theorem test_decode_atomics_more : 
    decodeWords 0x40C5A52B#32 0 0 = .amominW 10 12 11 ∧ decodeWords 0x48C5A02B#32 0 0 = .amominWP 12 11 ∧
    decodeWords 0x40C5B52B#32 0 0 = .amominD 10 12 11 ∧ decodeWords 0x48C5B02B#32 0 0 = .amominDP 12 11 ∧
    decodeWords 0x50C5A52B#32 0 0 = .amomaxW 10 12 11 ∧ decodeWords 0x58C5A02B#32 0 0 = .amomaxWP 12 11 ∧
    decodeWords 0x50C5B52B#32 0 0 = .amomaxD 10 12 11 ∧ decodeWords 0x58C5B02B#32 0 0 = .amomaxDP 12 11 ∧
    decodeWords 0x60C5A52B#32 0 0 = .amominuW 10 12 11 ∧ decodeWords 0x68C5A02B#32 0 0 = .amominuWP 12 11 ∧
    decodeWords 0x60C5B52B#32 0 0 = .amominuD 10 12 11 ∧ decodeWords 0x68C5B02B#32 0 0 = .amominuDP 12 11 ∧
    decodeWords 0x70C5A52B#32 0 0 = .amomaxuW 10 12 11 ∧ decodeWords 0x78C5A02B#32 0 0 = .amomaxuWP 12 11 ∧
    decodeWords 0x70C5B52B#32 0 0 = .amomaxuD 10 12 11 ∧ decodeWords 0x78C5B02B#32 0 0 = .amomaxuDP 12 11 ∧
    decodeWords 0x80C5A52B#32 0 0 = .amoswapW 10 12 11 ∧ decodeWords 0x88C5A02B#32 0 0 = .amoswapWP 12 11 ∧
    decodeWords 0x80C5B52B#32 0 0 = .amoswapD 10 12 11 ∧ decodeWords 0x88C5B02B#32 0 0 = .amoswapDP 12 11 := by decide +kernel
theorem test_decode_atomics_float_law : 
    decodeWords 0x68C5C52B#32 0 0 = .amocasW 10 12 13 11 ∧ decodeWords 0x6AC5C52B#32 0 0 = .amocasD 10 12 13 11 ∧
    decodeWords 0x00C5D52B#32 0 0 = .amofaddS 10 12 11 ∧ decodeWords 0x02C5D52B#32 0 0 = .amofaddBh 10 12 11 ∧
    decodeWords 0x04C5D52B#32 0 0 = .amofmaxS 10 12 11 ∧ decodeWords 0x0005E52B#32 0 0 = .swldC 10 11 ∧
    decodeWords 0x0205E52B#32 0 0 = .swldV 10 11 ∧ decodeWords 0x04C5E02B#32 0 0 = .swst 12 11 ∧
    decodeWords 0x06C5E52B#32 0 0 = .swadd 10 12 11 ∧ decodeWords 0x08C5E52B#32 0 0 = .swarm 10 12 11 ∧
    decodeWords 0x0A05E02B#32 0 0 = .swdis 11 ∧ decodeWords 0x0CC5E52B#32 0 0 = .swraw 10 12 11 := by decide +kernel
theorem test_decode_banks : 
    decodeWords 0x00C5F52B#32 0 0 = .bmode 10 12 11 ∧ decodeWords 0x02C5F02B#32 0 0 = .bcast 12 11 ∧
    decodeWords 0x04C5F52B#32 0 0 = .bmv 10 12 11 ∧ decodeWords 0x06C5F52B#32 0 0 = .bexpr 10 12 11 ∧
    decodeWords 0x08C5F02B#32 0 0 = .bget 12 11 ∧ decodeWords 0x0A05F52B#32 0 0 = .bstat 10 11 := by decide +kernel
theorem test_decode_matrix : 
    decodeWords 0x68C5815B#32 0 0 = .mma 2 11 12 13 ∧ decodeWords 0x00C591DB#32 0 0 = .wld 3 11 12 ∧
    decodeWords 0x0200115B#32 0 0 = .accz 2 ∧ decodeWords 0x04259EDB#32 0 0 = .accrd 29 2 11 ∧
    decodeWords 0x07D5915B#32 0 0 = .accwr 2 29 11 ∧ decodeWords 0x0825905B#32 0 0 = .accst 2 11 ∧
    decodeWords 0x0A00155B#32 0 0 = .mstat 10 := by decide +kernel
theorem test_decode_lanes : 
    decodeWords 0x00C5857B#32 0 0 = .vfadd 10 11 12 ∧ decodeWords 0x02C5857B#32 0 0 = .vfsub 10 11 12 ∧
    decodeWords 0x04C5857B#32 0 0 = .vfmul 10 11 12 ∧ decodeWords 0x06C5857B#32 0 0 = .vfmax 10 11 12 ∧
    decodeWords 0x08C5857B#32 0 0 = .vfmin 10 11 12 ∧ decodeWords 0x0A05857B#32 0 0 = .vfabs 10 11 ∧
    decodeWords 0x0C05857B#32 0 0 = .vfneg 10 11 ∧ decodeWords 0x14C5857B#32 0 0 = .vfcmp .lt 10 11 12 := by decide +kernel
theorem test_decode_integer_lanes : 
    decodeWords 0x00C5957B#32 0 0 = .viadd 10 11 12 ∧ decodeWords 0x02C5957B#32 0 0 = .visub 10 11 12 ∧
    decodeWords 0x04C5957B#32 0 0 = .vimul 10 11 12 ∧ decodeWords 0x06C5957B#32 0 0 = .vand 10 11 12 ∧
    decodeWords 0x08C5957B#32 0 0 = .vor 10 11 12 ∧ decodeWords 0x0AC5957B#32 0 0 = .vxor 10 11 12 ∧
    decodeWords 0x0CC5957B#32 0 0 = .vsll 10 11 12 ∧ decodeWords 0x0EC5957B#32 0 0 = .vsrl 10 11 12 ∧
    decodeWords 0x10C5957B#32 0 0 = .vsra 10 11 12 ∧ decodeWords 0x12C5957B#32 0 0 = .vimin 10 11 12 ∧
    decodeWords 0x14C5957B#32 0 0 = .vimax 10 11 12 ∧ decodeWords 0x2AC5957B#32 0 0 = .vicmp .leu 10 11 12 := by decide +kernel
theorem test_decode_functions : 
    decodeWords 0x0005A57B#32 0 0 = .vexp2 10 11 ∧ decodeWords 0x0205A57B#32 0 0 = .vrcp 10 11 ∧
    decodeWords 0x0405A57B#32 0 0 = .vrsq 10 11 ∧ decodeWords 0x0605A57B#32 0 0 = .vlog2 10 11 ∧
    decodeWords 0x0855A57B#32 0 0 = .vcvt .frome4m3 10 11 := by decide +kernel
theorem test_decode_lane_moves : 
    decodeWords 0x1005A57B#32 0 0 = .vfsum 10 11 ∧ decodeWords 0x1205A57B#32 0 0 = .vfmaxr 10 11 ∧
    decodeWords 0x1405A57B#32 0 0 = .visum 10 11 ∧ decodeWords 0x20C5A57B#32 0 0 = .vperm 10 11 12 ∧
    decodeWords 0x2205A57B#32 0 0 = .vbcast 10 11 ∧ decodeWords 0x25E5A57B#32 0 0 = .vmvx 10 11 30 ∧
    decodeWords 0x2605A57B#32 0 0 = .vmvv 10 11 ∧ decodeWords 0x2955A57B#32 0 0 = .vslide 10 11 21 := by decide +kernel
theorem test_decode_vector_memory : 
    decodeWords 0x00C5B57B#32 0 0 = .vlds 10 11 12 ∧ decodeWords 0x02C5BEFB#32 0 0 = .vsts 29 11 12 ∧
    decodeWords 0x04C5B57B#32 0 0 = .vldx 10 11 12 ∧ decodeWords 0x9A55C57B#32 0 0 = .vld 10 11 0x9a5 ∧
    decodeWords 0x9BD5D2FB#32 0 0 = .vst 29 11 0x9a5 ∧ decodeWords 0x68C5E57B#32 0 0 = .vfma 10 11 12 13 ∧
    decodeWords 0x6AC5E57B#32 0 0 = .vfms 10 11 12 13 ∧ decodeWords 0x6CC5E57B#32 0 0 = .vsel 10 11 12 13 ∧
    decodeWords 0x6EC5E57B#32 0 0 = .vrec 10 11 12 13 := by decide +kernel
-- prefixes (R59-R63) and words that are no instructions (R40)

theorem test_decode_prefixes :
    decodeWords 0x0002B00B#32 0x9A55B503#32 0 = .atPfx 5 (.one (.load .ld 10 11 0x9A5)) ∧
    decodeWords 0xABCDBC8B#32 0x9A558513#32 0 = .extPfx 0xABCDE (.one (.opImm .addi 10 11 0x9A5)) ∧
    decodeWords 0x0002B00B#32 0xABCDBC8B#32 0x9AC5B2A3#32 = .atPfx 5 (.viaExt 0xABCDE (.store .sd 12 11 0x9A5)) ∧
    decodeWords 0xABCDBC8B#32 0x0002B00B#32 0x9A558503#32 = .extPfx 0xABCDE (.viaAt 5 (.load .lb 10 11 0x9A5)) ∧
    decodeWords 0xABCDBC8B#32 0x9A55C57B#32 0 = .extPfx 0xABCDE (.one (.vld 10 11 0x9A5)) ∧
    decodeWords 0xABCDBC8B#32 0x0000000B#32 0 = .extPfx 0xABCDE (.bad 0x0000000B#32) ∧
    decodeWords 0x0002B00B#32 0x0002B00B#32 0 = .atPfx 5 (.bad 0x0002B00B#32) := by decide +kernel
theorem test_decode_illegal : decodeWords 0x0000707B#32 0 0 = .illegalWord 0x0000707B#32 ∧ decodeWords 0x0000008B#32 0 0 = .illegalWord 0x0000008B#32 ∧
    decodeWords 0x0132900B#32 0 0 = .illegalWord 0x0132900B#32 ∧ decodeWords 0x1000008B#32 0 0 = .illegalWord 0x1000008B#32 ∧
    decodeWords 0x0000105B#32 0 0 = .illegalWord 0x0000105B#32 ∧ decodeWords 0#32 0 0 = .illegalWord 0#32 := by decide +kernel
/-- The words that the worked programs of the spec print beside their mnemonics (R71, R192, R194, R235, R273, R336). -/
theorem test_decode_printed : decodeWords 0xCC002573#32 0 0 = .csrrs 10 0 0xCC0 ∧ decodeWords 0x03829293#32 0 0 = .slli 5 5 56 ∧
    decodeWords 0x0032900B#32 0 0 = .qwaitF 3 5 ∧ decodeWords 0x0212900B#32 0 0 = .qwaitE 1 5 ∧ decodeWords 0x0405900B#32 0 0 = .qadvC 0 11 ∧
    decodeWords 0x0615900B#32 0 0 = .qadvP 1 11 ∧ decodeWords 0x0A25950B#32 0 0 = .qslot 10 2 11 ∧ decodeWords 0x68C5C52B#32 0 0 = .amocasW 10 12 13 11 ∧
    decodeWords 0x0052E00B#32 0 0 = .semwait 5 5 ∧ decodeWords 0x1825600B#32 0 0 = .chkwait 2 10 ∧ decodeWords 0x00B5115B#32 0 0 = .wld 2 10 11 ∧
    decodeWords 0x040540FB#32 0 0 = .vld 1 10 64 ∧ decodeWords 0x0415507B#32 0 0 = .vst 1 10 64 ∧ decodeWords 0x04A2E02B#32 0 0 = .swst 10 5 ∧
    decodeWords 0x08B2E62B#32 0 0 = .swarm 12 11 5 ∧ decodeWords 0x0002E6AB#32 0 0 = .swldC 13 5 ∧ decodeWords 0x0202E6AB#32 0 0 = .swldV 13 5 ∧
    decodeWords 0x06A366AB#32 0 0 = .swadd 13 10 6 ∧ decodeWords 0x00A4B023#32 0 0 = .sd 10 9 0 := by decide +kernel

-- ill-formed terms, one for each check

theorem test_illformed_units : wellFormed (.trapEntry 2305) = false ∧ wellFormed (.stageSchedule 2048) = false ∧ wellFormed (.coreEvict 2048) = false ∧
    wellFormed (.powerSwitchOpen 2048) = false ∧ wellFormed (.stackCoreFiringStart 2047) = false ∧ wellFormed (.stackCoreFiringStart 2304) = false ∧
    wellFormed (.homeLoad 2305 true) = false ∧ wellFormed (.stackCoreFiringStart 2303) = true := by decide
theorem test_illformed_entries : wellFormed (.journalAck 0 64) = false ∧ wellFormed (.journalAck 2305 0) = false ∧ wellFormed (.replyTimeout 0 16) = false ∧
    wellFormed (.replyTimeout 2305 0) = false ∧ wellFormed (.bankRetry (.load 2305)) = false ∧ wellFormed (.bankRetry (.store 0 64)) = false ∧
    wellFormed (.bankRetry (.store 2305 0)) = false ∧ wellFormed (.bankRetry (.atomic 2305)) = false ∧ wellFormed (.journalAck 2304 63) = true := by decide
theorem test_illformed_submitters : wellFormed (.dispatchRecord (.unit 2305)) = false ∧ wellFormed (.dispatchRecord (.host 16 0)) = false ∧
    wellFormed (.dispatchRecord (.host 0 2)) = false ∧ wellFormed (.serviceRoot (.mailbox 16 0)) = false ∧ wellFormed (.serviceRoot (.mailbox 0 2)) = false ∧
    wellFormed (.serviceRoot (.unit 2305)) = false ∧ wellFormed (.registerWrite (.bar 16 0 0) 0) = false ∧ wellFormed (.registerWrite (.bar 0 2 0) 0) = false ∧
    wellFormed (.hostQtailWrite 16 0 0) = false ∧ wellFormed (.hostQtailWrite 0 2 0) = false := by decide
theorem test_illformed_parts : wellFormed (.residencyCheck 16 1) = false ∧ wellFormed (.batchGrant 16 0) = false ∧ wellFormed (.batchGrant 0 128) = false ∧
    wellFormed (.faultRecordPost 16) = false ∧ wellFormed (.fstatWrite 16 0) = false ∧ wellFormed (.ringHeadWrite 16 true 0) = false ∧
    wellFormed (.orderLogRecord 16 1 1 0 0) = false ∧ wellFormed (.orderLogRecord 0 1 1 2305 0) = false := by decide
theorem test_illformed_engines : wellFormed (.atomicEngineGrant 128) = false ∧ wellFormed (.stackAtomicGrant 8) = false ∧ wellFormed (.reduce 8) = false ∧
    wellFormed (.copy 128 0) = false ∧ wellFormed (.copy 0 8) = false ∧ wellFormed (.apertureStart 0 0 8 0) = false ∧ wellFormed (.apertureStart 128 0 0 0) = false ∧
    wellFormed (.apertureStart 0 16 0 0) = false ∧ wellFormed (.chunkComplete 128 0 0) = false ∧ wellFormed (.engineOpComplete (.chan 128 0)) = false ∧
    wellFormed (.engineOpFaulted (.red 8)) = false ∧ wellFormed (.engineOpComplete (.swreg 8)) = false := by decide
theorem test_illformed_laws_banks : wellFormed (.sweepVisit 2048) = false ∧ wellFormed (.alarmPost 4104) = false ∧ wellFormed (.roosterDue 4095 0) = false ∧
    wellFormed (.bmodeGrant 8 0) = false ∧ wellFormed (.bmodeGrant 0 128) = false ∧ wellFormed (.beadFault 0 128 0) = false ∧ wellFormed (.retryResend 8 0) = false ∧
    wellFormed (.sweepVisit 4103) = true := by decide
theorem test_illformed_package : wellFormed (.clockExchange 12 true 0) = false ∧ wellFormed (.walkFill 12 0) = false ∧ wellFormed (.linkDown 30) = false ∧
    wellFormed (.voltageRampEnd 128) = false ∧ wellFormed (.frequencySwitch 128) = false ∧ wellFormed (.linkLost 29) = true := by decide
theorem test_illformed_words : wellFormed (.wld 0 1 2) = false ∧ wellFormed (.illegalWord 0x00100293#32) = false ∧ wellFormed (.illegalWord 0x0002B00B#32) = false ∧
    wellFormed (.atPfx 5 (.one (.opImm .addi 1 2 3))) = false ∧ wellFormed (.atPfx 5 (.viaAt 5 (.load .ld 1 2 3))) = false ∧
    wellFormed (.atPfx 5 (.bad 0x9A55B503#32)) = false ∧ wellFormed (.atPfx 5 (.badExt 0 0x9A55B503#32)) = false ∧ wellFormed (.atPfx 5 (.badAt 1 0)) = false ∧
    wellFormed (.atPfx 5 (.viaExt 1 (.jalr 1 2 3))) = false ∧ wellFormed (.extPfx 0 (.viaAt 1 (.jalr 1 2 3))) = false ∧
    wellFormed (.extPfx 0 (.viaExt 1 (.load .ld 1 2 3))) = false ∧ wellFormed (.extPfx 0 (.bad 0x9A558513#32)) = false ∧
    wellFormed (.extPfx 0 (.badAt 1 0x9A55B503#32)) = false ∧ wellFormed (.extPfx 0 (.badExt 1 0)) = false := by decide

-- results that the spec states

/-- The example of R125. -/
def qslotState : State :=
  { core0 { (xs [(11, 2)] userUnit) with handles := [(0, some { out := false, rate := 3, cursor := 13 })] } with
    parts := [(0, { launches := [{ launch1 with record := { rec1 with queues := [{ core := 4, depth := 8, slot8 := 8, base := 0x10000, pstage := 1, cstage := 0, prate := 1, crate := 3 }] } }] })] }
def reg (o : Host.Outcome State Fault Refusal) (r : Reg) : Option Word := match o with | .next t => some (t.x r) | _ => none
theorem test_qslot_example : reg (exec (.qslot 10 0 11) qslotState) 10 = some 0x00A101C0 := by decide +kernel
/-- The example of R114. -/
def widfState : State :=
  { core0 { userUnit with firing := { lid := 1, wid := 0x0300001200000005 } } with parts := [(0, { launches := [{ launch1 with record := { rec1 with widths := [8, 24, 32] } }] })] }
theorem test_widf_example : [0, 1, 2, 3, 5].map (fun k => reg (exec (.widf 10 k) widfState) 10) = [some 3, some 18, some 5, some 0, some 0] := by decide +kernel
/-- The address example of chapter 01 and the call example of R135; stripe set 3 lists the stacks 5, 2, 7. -/
def stripe527 : State := { user with parts := [(0, { stripes := [(3, 0x1D503)], nodes := [(0xF3, 0xC0000003)] })] }
theorem test_address_example : classify false 0x0113000000042000 = .global 0x13 0x42000 ∧ stripe527.home 0 0x13 0x42000 = some (.cluster 3 3) ∧
    stripe527.home 0 0xF3 0x42000 = some (.stack 5) := by decide +kernel
/-- The leaf of chapter 24's example: KBLOCK16, pch5, F = 0x20_0000, readable and writable. -/
theorem test_leaf_example : lfPch 0xD800000502000C00 = 5 ∧ lfF 0xD800000502000C00 = 0x200000 ∧ lfLayout 0xD800000502000C00 = 1 ∧ lfW 0xD800000502000C00 = true ∧
    lfR 0xD800000502000C00 = true ∧ lfX 0xD800000502000C00 = false ∧ leafMalformed 0 16 0xD800000502000C00 = false := by decide +kernel
/-- The worked program of chapter 13: LEAK, RAMP and OSC words at steps 4 and 10, and the input to the RAMP word. -/
def leakE : LawEntry := { valid := true, step := true, ctr := 7, shift := 0, kind := 1, p0 := 0x0400000000000000, p1 := 0x3F800000, p2 := 0 }
def rampE : LawEntry := { valid := true, step := true, ctr := 7, shift := 0, kind := 2, p0 := 1, p1 := 0, p2 := 0x200000000 }
def oscE : LawEntry := { valid := true, step := true, ctr := 7, shift := 0, kind := 3, p0 := 0x4000000001000000, p1 := 0, p2 := 0 }
theorem test_laws_example : advance leakE 0x0300000000000000 4 = 0x7300000000000000 ∧ advance leakE 0x0300000000000000 10 = 0x5B00000000000000 ∧
    advance rampE 0x100000000 4 = 0x100000004 ∧ advance rampE 0x100000104 6 = 0x10000010A ∧ advance oscE 0x0200000000000000 4 = 0xFE00000000000000 ∧
    advance oscE 0xFE00000000000000 6 = 0xF800000080000000 ∧ advance oscE 0x0200000000000000 10 = 0xF800000080000000 := by decide +kernel
theorem test_observations_example : obs leakE 0x7300000000000000 = 0x3F800400 ∧ obs leakE 0x5B00000000000000 = 0x3F800000 ∧ obs rampE 0x100000004 = 0x3F800000 ∧
    obs rampE 0x100000104 = 0x3F800001 ∧ obs rampE 0x10000010A = 0x3F800001 ∧ obs oscE 0xFE00000000000000 = 0x3F000000 ∧ obs oscE 0xF800000080000000 = 0xBD800000 ∧
    (input rampE 0x100000004 0x337F8000).c = 0x100000104 := by decide +kernel
/-- The order of R41: a TRET word with rd not 0 on a stack core reports 0, a well-formed TRET there 4, CSRRW naming tvec in U mode on a core 5. -/
def stackTval (o : Host.Outcome State Fault Refusal) : List Word := match o with | .next t => (t.getPart 0).terminal.waiting.map (·.val) | _ => []
def coreTval (o : Host.Outcome State Fault Refusal) : Option (Word × Word) := match o with | .next t => some (t.cur.t.tcause, t.cur.t.tval) | _ => none
theorem test_illegal_order : stackTval (exec (decodeWords 0x1000008B#32 0 0) sc) = [0] ∧ stackTval (exec .tret sc) = [4] ∧
    coreTval (exec (.csrrw 10 11 0x5C1) user) = some (0, 5) := by decide +kernel

-- integer instructions, branches and loops

theorem witness_BaseIntegerResults : ∀ i ∈ [Instr.lui 1 0, .auipc 1 0x80000, .addi 0 10 0x800, .slti 1 10 0, .sltiu 1 10 0xFFF, .xori 1 2 3, .ori 1 2 3,
    .andi 1 2 3, .slli 1 10 63, .srli 1 10 0, .srai 1 10 63, .addiw 1 10 0x7FF, .slliw 1 10 31, .srliw 1 10 31, .sraiw 1 10 31, .add 1 10 11,
    .sub 1 10 11, .sll 1 10 11, .slt 1 10 11, .sltu 1 10 11, .xor 1 10 11, .srl 1 10 11, .sra 1 10 11, .or 1 10 11, .and 1 10 11, .addw 1 10 11,
    .subw 1 10 11, .sllw 1 10 11, .srlw 1 10 11, .sraw 1 10 11], (baseResult user i).isSome := by decide +kernel
theorem witness_MulDivResults : ∀ i ∈ [Instr.mul 1 10 11, .mulh 1 10 11, .mulhsu 1 10 11, .mulhu 1 10 11, .div 1 10 0, .divu 1 10 0, .rem 1 10 0,
    .remu 1 10 11, .mulw 1 10 11, .divw 1 10 11, .divuw 1 10 11, .remw 1 10 11, .remuw 0 10 11], (mulDivResult user i).isSome := by decide +kernel
theorem witness_ShiftAddResults : ∀ i ∈ [Instr.sh1add 1 10 11, .sh2add 1 10 11, .sh3add 1 10 11, .addUw 1 10 11, .sh1addUw 1 10 11, .sh2addUw 1 10 11,
    .sh3addUw 1 10 11, .slliUw 0 10 63], (shiftAddResult user i).isSome := by decide +kernel
/-- Not taken, taken to a word, taken to a target with bit 1 set. -/
theorem witness_BranchesGoOrTrap : branchOf user (.bne 0 0 4) = some (false, 4) ∧ branchOf user (.beq 0 0 0xFFE) = some (true, 0xFFE) ∧
    ¬ bit1 (int (user.cur.pc.toInt + 2 * (0xFFE#12).toInt)) ∧ branchOf user (.bgeu 0 0 1) = some (true, 1) ∧
    bit1 (int (user.cur.pc.toInt + 2 * (1#12).toInt)) ∧ (branchOf user (.blt 0 0 1)).isSome ∧ (branchOf user (.bge 0 0 1)).isSome ∧
    (branchOf user (.bltu 0 0 1)).isSome := by unfold bit1; decide +kernel
theorem witness_JumpsLinkAndGo : ¬ bit1 (int (user.cur.pc.toInt + 2 * (0x80000#20).toInt)) ∧ bit1 (int (user.cur.pc.toInt + 2 * (1#20).toInt)) ∧
    ¬ bit1 (BitVec.ofNat 64 ((((args 5 0 0 0).x 10 + int 0).toNat / 2) * 2)) ∧ bit1 (BitVec.ofNat 64 ((((args 3 0 0 0).x 10 + int 0).toNat / 2) * 2)) := by
  unfold bit1; decide +kernel
theorem witness_RetiringChangesOnlyThis : (1 ≠ 0) ∧ super.cur.priv ≠ .u ∧ user.cur.lp0.count = 0 ∧ user.cur.lp1.count = 0 := by decide +kernel
/-- A core at pc 0x1000 with both loops; l is the last word and count of lp0, m those of lp1. -/
def loops (l m : Word × Word) : Machine.Unit :=
  { userUnit with lp0 := { start := 0xFF0, last := l.1, count := l.2 }, lp1 := { start := 0xFF8, last := m.1, count := m.2 } }
theorem witness_HardwareLoopsRepeatAndEnd :
    (core0 (loops (0x1000, 2) (0x1000, 2))).cur.pc.toNat + 4 * 1 < 2 ^ 64 ∧
    (let u := loops (0x1000, 2) (0x1000, 2); u.priv = .u ∧ u.lp1.count.toNat > 1 ∧ u.lp1.last = u.pc + BitVec.ofNat 64 (4 * (1 - 1))) ∧
    (let u := loops (0x1000, 2) (0x1000, 1); u.lp1.count = 1 ∧ u.lp1.last = u.pc ∧ u.lp0.count.toNat > 1 ∧ u.lp0.last = u.pc) ∧
    (let u := loops (0x1000, 1) (0x1000, 0); u.lp1.count.toNat ≤ 1 ∧ u.lp1.last = u.pc ∧ u.lp0.count = 1 ∧ u.lp0.last = u.pc) ∧
    (let u := loops (0x1010, 1) (0x1000, 1); u.lp0.count ≠ 0 ∧ u.lp0.start.toNat ≤ 0x1010 ∧ 0x1010 ≤ u.lp0.last.toNat ∧ u.lp1.count ≠ 0 ∧
      ¬ (u.lp1.start.toNat ≤ 0x1010 ∧ 0x1010 ≤ u.lp1.last.toNat) ∧ ¬ (u.lp0.start.toNat ≤ 0x1014 ∧ 0x1014 ≤ u.lp0.last.toNat) ∧
      u.lp1.start.toNat ≤ 0x1000 ∧ 0x1000 ≤ u.lp1.last.toNat) ∧ super.cur.priv ≠ .u := by decide +kernel

-- traps

theorem witness_TrapEntryFromUser : isCore user.focus = true ∧ user.cur.priv = .u ∧ user.cur.t.tvec ≠ 0 ∧ (0 : Nat) ≠ 0x16 := by decide +kernel
theorem witness_UnhandledTrapFreezes : (isCore super.focus = true ∧ super.cur.priv = .s) ∧ (isCore State.reset.focus = true ∧
    State.reset.cur.priv = .u ∧ State.reset.cur.t.tvec = 0) := by decide +kernel
theorem witness_EcallEbreakIllegalTrap : handled user := by unfold handled; decide +kernel

-- loads, stores, prefixes

/-- No entry 0x20 of the place table: stack, host, cluster entries stand after reset, peers do not. -/
theorem witness_LocalLoadsReturnTheirBytes :
    (loadForm (args 0x7FFF8 0 0 0) (.ld 1 10 0)).isSome ∧ (args 0x7FFF8 0 0 0).cur.wait = .none ∧
    okB ((args 0x7FFF8 0 0 0).resolve 0x7FFF8 8 .r) (.scratch 0 0x7FFF8) ∧ okB ((args 0x880000 0 0 0).resolve 0x880000 1 .r) (.scratch 1 0) ∧
    clear user 0 0x7FFF8 8 false ∧ clear user 1 0 1 false ∧ dueNow user none ∧
    (loadForm user (.extPfx 1 (.one (.load .lbu 1 0 0)))).isSome ∧ (loadForm user (.atPfx 0 (.one (.load .lbu 1 0 0)))).isSome ∧
    (loadForm user (.atPfx 0 (.viaExt 1 (.load .lbu 1 0 0)))).isSome ∧ (loadForm user (.extPfx 1 (.viaAt 0 (.load .lbu 1 0 0)))).isSome := by
  refine ⟨by decide +kernel, by decide +kernel, by decide +kernel, by decide +kernel, ?_, ?_, ?_, by decide +kernel⟩
  · unfold clear; decide +kernel
  · unfold clear; decide +kernel
  · intro T h; cases h
/-- A core whose die is SETTLED at tick 1000, with an AT time of 1000. -/
def settled (u : Machine.Unit) : State := { core0 u with now := 1000, dies := [(0, { bell := true, clk := 1 })] }
theorem witness_LocalLoadsReturnTheirBytes_at : dueNow (settled userUnit) (some 1000) := by
  intro T h; cases h; decide +kernel
theorem witness_AddressesNameTheirTargets :
    isCore user.focus = true ∧ (0x7FFF9 % 2 ≠ 0) ∧ (0x7FFF8 % 8 = 0) ∧ user.myLog = some 0 ∧ user.physCore 0 0 ((0xFFFFF8 - 0x800000) / 0x80000) = some 15 ∧
    user.localOk 0xFFFFF8 8 .r = true ∧ user.localOk 0x800000 8 .r = true ∧
    ({ user with parts := [(0, { regions := [(0, 0)] })] } : State).localOk 0x800000 8 .r = false ∧
    (user.home 0 0 (2 ^ 48 - 8)).isSome ∧ (user.home 0 0x91 0).isSome ∧ user.home 0 255 0 = none := by decide +kernel
theorem witness_LoadsTrapOrAskTheirHome :
    (loadForm (args globalA 0 0 0) (.ld 1 10 0)).isSome ∧ (args globalA 0 0 0).cur.wait = .none ∧
    errB (user.resolve 0x80000 8 .r) (2, 0x80000) ∧ errB (user.resolve 1 2 .r) (1, 1) ∧
    (let s : State := { user with clusters := [(0, { locks := [{ part := 0, base := (user.addrGeq 0 0 0x100).toNat, len := 8, dst := true, owner := none, seq := 0 }] })] }
     s.spotLocked (.scratch 0 0x100) 8 false = true ∧ okB (s.resolve 0x100 8 .r) (.scratch 0 0x100)) ∧
    okB (user.resolve globalA 8 .r) (.global 0 0) ∧ user.spotLocked (.global 0 0) 8 false = false ∧ user.underWay globalA.toNat 8 = false ∧
    youngest user.cur globalA.toNat 8 = none ∧ cacheFind user.cur 0 globalA = none ∧
    ({ userUnit with wait := .value 7 } : Machine.Unit).wait = .value 7 ∧ ({ userUnit with wait := .refusal 2 0x11 7 } : Machine.Unit).wait = .refusal 2 0x11 7 := by
  decide +kernel
theorem witness_LocalStoresWriteTheirBytes :
    (storeForm (args 0x7FFF8 0 0 0) (.sd 11 10 0)).isSome ∧ okB ((args 0x7FFF8 0 0 0).resolve 0x7FFF8 8 .w) (.scratch 0 0x7FFF8) ∧
    clear user 0 0x7FFF8 8 true ∧ user.releasing 0 = false ∧ noWaiter user 0 0x7FFF8 8 ∧
    (∀ k, k < 8 → user.isState 0 ((0x7FFF8 + k) / 16 * 16) = false) := by
  refine ⟨by decide +kernel, by decide +kernel, ?_, by decide +kernel, ?_, by decide +kernel⟩
  · unfold clear; decide +kernel
  · intro w h; cases h
/-- All 64 journal entries taken. -/
def full : Machine.Unit := { userUnit with journal := (List.range 64).map fun j => (j, { st := .issued, fid := 3 }) }
/-- An entry of core 0 for the home of an address. -/
def sameHome (s : State) (a : Word) (e : JEntry) : Bool := s.entryKey s.focus e == s.addrKey s.focus s.cur.part a
/-- Core 0 with one entry of a store to stack node 0 in a state, at index 62. -/
def at62 (st : JState) : State := core0 { userUnit with journal := [(62, { st := st, addr := globalA })] }
theorem witness_GlobalStoresTakeJournalEntries :
    (storeForm (args globalA 0 0 0) (.sd 11 10 0)).isSome ∧ okB (user.resolve globalA 8 .w) (.global 0 0) ∧ user.spotLocked (.global 0 0) 8 true = false ∧
    user.underWay globalA.toNat 8 = false ∧ freeEntry user.cur (sameHome user globalA) = some 0 ∧ freeEntry full (sameHome (core0 full) globalA) = none ∧
    okB ((core0 full).resolve globalA 8 .w) (.global 0 0) ∧ (core0 full).underWay globalA.toNat 8 = false ∧
    freeEntry (at62 .issued).cur (sameHome (at62 .issued) globalA) = some 63 := by decide +kernel
/-- An entry goes above those in use for its home (log 69); only a REFUSED one there makes a lower one good. -/
theorem test_entries_rise :
    (let u : Machine.Unit := { userUnit with journal := [(63, { st := .issued, addr := globalA })] }; freeEntry u (sameHome (core0 u) globalA) = none ∧
      freeEntry u (sameHome (core0 u) (globalAddr 1 0)) = some 0) ∧
    (let u : Machine.Unit := { userUnit with journal := [(63, { st := .refused, addr := globalA })] }; freeEntry u (sameHome (core0 u) globalA) = some 0) := by decide +kernel
/-- Timed stores: every clause, with the lead at its limit. -/
theorem witness_TimedStoresAreCheckedAndQueued :
    (storeForm user (.atPfx 10 (.one (.store .sd 11 0 0)))).isSome ∧ okB ((opened userUnit).resolve 0x1FA0000 8 .w) (.mmio 0x1FA0000) ∧
    okB (user.resolve 0x0190000000000000 8 .w) (.global 0x90 0) ∧ user.clkState 0 = 0 ∧
    (let s := settled userUnit; let T := BitVec.ofNat 64 (1000 + s.lead (.scratch 0 0))
     s.clkState (dieOf s.focus) ≠ 0 ∧ okB (s.resolve 0 8 .w) (.scratch 0 0) ∧ ((0x1000003E9#64 : Word) - s.atime).toInt > 2 ^ 32 ∧
     (T - 1 - s.atime).toInt < s.lead (.scratch 0 0) ∧ s.lead (.scratch 0 0) ≤ (T - s.atime).toInt ∧ (T - s.atime).toInt ≤ 2 ^ 32 ∧
     s.spotLocked (.scratch 0 0) 8 true = false ∧ s.underWay (s.addrGeq s.focus s.cur.part 0).toNat 8 = false ∧ freeEntry s.cur (sameHome s 0) = some 0) := by decide +kernel
theorem witness_ExtWidensImmediates : ¬ bit1 (BitVec.ofNat 64 (((user.x 0 + ext 1 0).toNat / 2) * 2)) ∧ bit1 (BitVec.ofNat 64 (((user.x 0 + ext 1 2).toNat / 2) * 2)) := by
  unfold bit1; decide +kernel
theorem witness_RefusedPrefixSequencesTrap : legalAt 0x000AB00B ∧ legalExt 0x0000308B ∧
    ¬ loadOrStore 0x00000013 ∧ ¬ (legalAt 0x00000013 ∨ legalExt 0x00000013) ∧ ¬ extAccepts 0x00000033 ∧ ¬ (legalAt 0x00000033 ∨ legalExt 0x00000033) ∧
    isSc sc.focus = true ∧ (0x040540FB#32).toNat % 128 = 0x7B ∧ (0x040540FB#32).toNat / 2 ^ 12 % 8 = 4 ∧ (0x0415507B#32).toNat / 2 ^ 12 % 8 = 5 := by
  unfold legalAt legalExt extAccepts loadOrStore; decide +kernel

-- CSRs, firings and traps

theorem witness_CsrReadsReturnTheRegister : isCore user.focus = true ∧ ¬ (CsrOp.rs = .rw ∨ CsrOp.rs = .rwi ∨ (0 : Reg) ≠ 0) ∧
    (0xCC0, user.atime) ∈ userCsr user ∧ (0xCC6, user.mreply) ∈ userCsr user ∧ (0x807, user.cur.rctl) ∈ userCsr user ∧
    (0x5C7, super.cur.t.tscratch) ∈ supervisorCsr super.cur ∧ (0x5C0, super.cur.t.tstatus) ∈ supervisorCsr super.cur ∧ super.cur.priv ≠ .u ∧ (0x8FF#12).toNat = 0x880 + 127 := by decide +kernel
theorem witness_RefusedCsrAccessesTrap : (∀ n ∈ [0x5BF, 0x5C8, 0x7FF, 0x808, 0x87F, 0x900, 0xCBF, 0xCC7],
      ¬ (0xCC0 ≤ n ∧ n ≤ 0xCC6) ∧ ¬ (0x800 ≤ n ∧ n ≤ 0x807) ∧ ¬ (0x880 ≤ n ∧ n ≤ 0x8FF) ∧ ¬ (0x5C0 ≤ n ∧ n ≤ 0x5C7)) ∧ user.cur.priv = .u ∧
    (CsrOp.rw = .rw ∨ CsrOp.rw = .rwi ∨ (0 : Reg) ≠ 0) := by decide +kernel
theorem witness_CsrWritesReplaceTheRegister :
    (let v := csrValue .rw (look word0 user.cur.bfmt 127) (csrArg (args 24 0 0 0) .rw 10); v.toNat % 16 ≤ 8 ∧ v.toNat < 32) ∧
    (csrValue .rwi user.cur.rcto (csrArg user .rwi 31)).toNat < 2 ^ 40 ∧ (csrValue .rwi user.cur.rctl (csrArg user .rwi 1)).toNat < 2 ∧
    user.cur.lp1.count = 0 ∧ user.cur.lp0.count = 0 ∧ csrValue .rwi user.cur.lp1.count (csrArg user .rwi 31) ≠ 0 ∧
    csrValue .rwi user.cur.lp1.count (csrArg user .rwi 0) = 0 ∧ super.cur.priv ≠ .u ∧
    (let new := csrValue .rwi (super.cur.t.tstatus ||| super.pendBit) (csrArg super .rwi 1);
      new &&& 0xFFFFFFFFFFFFFCFA#64 = 0 ∧ new &&& 0x300#64 ≠ 0x300) ∧ (CsrOp.rw = .rw ∨ CsrOp.rw = .rwi ∨ (0 : Reg) ≠ 0) := by decide +kernel
/-- An owed call and windows advanced by their rate; an owed call whose sender is core 5. -/
def owing : Machine.Unit := { userUnit with firing := { lid := 1, fid := 3, owed := some { part := 0, node := 0x10, ounit := 5, slot := 15, gen := 255 } } }
theorem witness_FinEndsTheFiring :
    (let u := { owing with handles := [(15, some { out := false, rate := 2, cursor := 0, adv := 2 })] };
      u.priv = .u ∧ ∀ n, n < 16 → (look handle0 u.handles n).all (fun h => h.adv == h.rate) = true) ∧
    user.cur.firing.owed = none ∧ owing.firing.owed.isSome ∧ owing.firing.replied = false ∧
    owing.firing.owed.bind (core0 owing).replyDst = some 5 := by decide +kernel
theorem witness_FinChecksRates : (launched userUnit).cur.priv = .u ∧ (look handle0 (launched userUnit).cur.handles 0).isSome ∧
    (look handle0 (launched userUnit).cur.handles 0).all (fun h => decide (h.adv < h.rate)) := by decide +kernel
theorem witness_WidfAndGrowUseTheLaunch : isSc user.focus = false ∧ (launched userUnit).getLaunch 0 1 = some launch1 ∧
    rec1.widths[1]? = some 3 ∧ rec1.widths[2]? = none ∧ launch1.groups + 28 ≤ 2 ^ rec1.widths.sum ∧ 2 ^ rec1.widths.sum < launch1.groups + 29 := by
  decide +kernel
theorem witness_LaunchSubmitsItsRecord :
    user.cur.wait = .none ∧ ((0x1001#64 : Word).toNat % 64 ≠ 0) ∧ ((0x1FFFFC0#64 : Word).toNat % 64 = 0) ∧ user.recordAddr 0x7FFC0 = none ∧
    (core0 full).allDrained 0 (fun f _ => f == 3) = false ∧ user.allDrained 0 (fun f _ => f == 3) = true ∧ user.recordHeld 0x1000 8 = false ∧
    user.recordHeld 0x1000 64 = false ∧ (core0 { userUnit with journal := [(0, { st := .issued, addr := user.addrGeq 0 0 0x1000, size := 8 })] }).recordHeld 0x1000 8 = true ∧ ({ user with cur := { userUnit with wait := .value 0 } } : State).cur.wait = .value 0 ∧
    (match State.readAs 1 user 0x1000 with
      | .ok (h, t) => isOk (State.readAs ((max 64 (natOfBytes (h.drop 6)) + 7) / 8) t 0x1000)
      | .error _ => false) = true := by decide +kernel
theorem witness_WfeWaitsForLatchOrTime :
    ({ userUnit with latch := true } : Machine.Unit).latch = true ∧ ¬ (user.cur.latch = true ∨ user.slotExpired 0 = true ∨ (user.x 0 ≠ 0 ∧ (user.x 0).toNat ≤ user.atime.toNat)) ∧
    (let s := settled (xs [(10, 1000)] userUnit); s.x 10 ≠ 0 ∧ (s.x 10).toNat ≤ s.atime.toNat) ∧
    (let s := settled { userUnit with slots := [(15, { st := .waiting, deadline := 999 })] }; s.slotExpired 0 = true) ∧
    (let s := settled { userUnit with wait := .event 1000 }; (s.getUnit 0).wait = .event 1000 ∧ (1000#64).toNat ≤ (s.atimeOf (dieOf 0)).toNat) := by
  decide +kernel
theorem witness_LoopSetupAndClear :
    (let u := loops (0x1010, 2) (0, 0); u.lp1.count = 0 ∧ u.lp0.count ≠ 0 ∧ u.lp0.start.toNat ≤ (u.pc + 4).toNat ∧
      (u.pc + BitVec.ofNat 64 (4 * 4)).toNat ≤ u.lp0.last.toNat ∧ ¬ (u.pc + BitVec.ofNat 64 (4 * 5)).toNat ≤ u.lp0.last.toNat ∧
      u.lp0.last ≠ u.pc + BitVec.ofNat 64 (4 * 3) ∧ u.lp0.last.toNat % 4 = (u.pc + BitVec.ofNat 64 (4 * 3)).toNat % 4) ∧
    user.cur.lp1.count = 0 ∧ (0xFFF#12 ≠ 0) ∧ (user.x 0 = 0) ∧ (args 1 0 0 0).x 10 ≠ 0 := by decide +kernel
theorem witness_TretReturnsToTheFiring : user.cur.priv = .u ∧ super.cur.priv ≠ .u ∧ super.cur.t.tstatus.extractLsb' 8 2 = 0#2 ∧
    super.cur.firing.inWd = false := by decide +kernel
/-- A supervisor with ACT as given, entry 63 REFUSED by node 5 with MISSED-DEADLINE or another cause, entry 1 of node 6. -/
def refused (act : Word) (sub : Nat) : State :=
  core0 { userUnit with priv := .s, t := { tstatus := act <<< 8, tjidx := 63 },
                        journal := [(1, { st := .refused, node := 6 }), (63, { st := .refused, node := 5, sub := sub })] }
theorem witness_TretReplaysOrDropsRefusedEntries :
    (let s := refused 2 2; s.cur.priv ≠ .u ∧ (s.cur.t.tstatus.extractLsb' 8 2).toNat = 2 ∧ (look jentry0 s.cur.journal 63).st = .refused ∧
      (look jentry0 s.cur.journal (s.cur.t.tjidx.toNat % 64)).node = 5 ∧ (look jentry0 s.cur.journal 1).node ≠ 5 ∧ (look jentry0 s.cur.journal 0).st ≠ .refused) ∧
    (let s := refused 1 6; (s.cur.t.tstatus.extractLsb' 8 2).toNat = 1 ∧ (look jentry0 s.cur.journal 63).sub = 6) ∧
    (let s := refused 1 2; (s.cur.t.tstatus.extractLsb' 8 2).toNat = 1 ∧ (look jentry0 s.cur.journal 63).sub ≠ 6) := by decide +kernel
theorem witness_AsynchronousTrapEntry :
    (let s := user.setUnit 2047 { userUnit with asyncs := [{ code := 9, tval := 4, jidx := 63 }] };
      isCore 2047 = true ∧ (s.getUnit 2047).asyncs = [{ code := 9, tval := 4, jidx := 63 }] ∧ (s.getUnit 2047).run = .running ∧
      (s.getUnit 2047).priv = .u ∧ interruptible (s.getUnit 2047).wait = true ∧ (s.getUnit 2047).t.tvec ≠ 0) := by decide +kernel
theorem witness_KillAnswersAtKillDone : user.cur.priv = .u ∧ super.cur.priv ≠ .u ∧ super.cur.wait = .none ∧
    (let s := super.setUnit 0 { userUnit with priv := .s, wait := .killing true }; (s.getUnit 0).wait = .killing true ∧ s.bankBusy (s.killCtx 0 true) = false ∧ (s.killAll (s.killCtx 0 true)).isSome) ∧
    (let s := super.setUnit 0 { userUnit with priv := .s, wait := .killing false }; (s.getUnit 0).wait = .killing false ∧
      s.chanOps (s.killCtx 0 false) = [] ∧ s.stackOps (s.killCtx 0 false) = [] ∧ s.bankBusy (s.killCtx 0 false) = false) ∧
    (let s : State := { super with stks := [(0, { pch := [(0, { cmds := [{ src := 0, part := 0, lid := 1, fid := 3, kind := .bget 0 }] })] })] }; s.bankBusy (s.killCtx 0 false) = true) := by
  decide +kernel
/-- The management core with partition 0 suspended. -/
def suspended : State := { mgmt with parts := [(0, { suspended := true })] }
theorem witness_PlacewWritesTheTables : user.cur.priv ≠ .m ∧ mgmt.cur.priv = .m ∧ isSc mgmt.focus = false ∧ mgmt.suspended 15 = false ∧
    suspended.suspended 0 = true ∧ (0x3000 = 0 * 2 ^ 16 + 3 * 2 ^ 12 + 0) ∧ nodeEntryOk 0 0x90000000 = true ∧ nodeEntryOk 0 0x90000008 = false ∧
    mapClashes 0xFEDCBA9876543211 (suspended.presentMask 0 127) = true ∧ mapClashes 0xFEDCBA9876543210 (suspended.presentMask 0 127) = false ∧
    stripeOk 1 = true ∧ (0xF = 0xF % 256) := by decide +kernel

-- queues, messages, synchronisation

theorem witness_QueueInstructionsUseTheWindow :
    (let s := launched (xs [(10, 2), (11, 1)] userUnit);
      look handle0 s.cur.handles 0 = some { out := false, rate := 2, cursor := 0 } ∧ look handle0 s.cur.handles 1 = some { out := true, rate := 2, cursor := 0 } ∧
      (s.queueOf 0 0).isSome ∧ (s.queueOf 0 1).isSome ∧ (s.x 10).toNat ≤ 2 ∧ (s.x 11).toNat < 2 ∧
      (s.queueOf 0 0).all (fun c => c.st.pub == [0, 1]) ∧ (s.queueOf 0 1).all (fun c => c.st.pub == []) ∧
      s.homeDrained 0 0x10 (fun f _ => f == s.cur.firing.fid) = true ∧ (s.publish 0 1 0 2 5).isSome) := by decide +kernel
theorem witness_QueueMisuseTrapsRateViolation :
    (let s := launched (xs [(10, 3)] userUnit); look handle0 s.cur.handles 15 = none ∧ (s.queueOf 0 0).isSome ∧ (s.queueOf 0 1).isSome ∧ 2 - 0 < (s.x 10).toNat) := by
  decide +kernel
/-- Sixteen messages queued, or sixteen slots taken. -/
def queued : Machine.Unit :=
  { userUnit with sendq := List.replicate 16 { msg := { kind := 0, onode := 0x10, ounit := 0, lid := 1, part := 0, hpc := 0, pay := [] }, dest := .core 1,
                                               node := 0x10, ord := 0, fid := 3 },
                  slots := (List.range 16).map fun k => (k, { st := .waiting }) }
theorem witness_SendsQueueTheirMessage : okB ((args 2047 0x1000 0 0).sendTarget 2047) (.core 2047, 0x8F) ∧ okB ((args 0 0 0 0).sendTarget 0) (.core 0, 0x10) ∧
    (0x1000#64).toNat % 4 = 0 ∧ user.cur.sendq.length < 16 ∧ freeSlot user.cur = some 0 ∧ 16 ≤ queued.sendq.length ∧ freeSlot queued = none ∧
    freeSlot { queued with slots := queued.slots.dropLast } = some 15 ∧ okB ((core0 queued).sendTarget 1) (.core 1, 0x10) := by decide +kernel
theorem witness_RcallQueuesItsCall : okB (user.callTarget 0x0110000000000000) (.core 0, 0x10) ∧ okB (user.callTarget 0x0100000000000000) (.stackCore 0 0, 0) ∧
    (2#64).toNat % 4 ≠ 0 ∧ errB (user.sendTarget 4096) (5, 4096) ∧ 2 ^ 12 ≤ (4096#64).toNat := by decide +kernel
theorem witness_RepliesAndReplySlots :
    user.cur.firing.owed = none ∧ owing.firing.owed.bind (core0 owing).replyDst = some 5 ∧ owing.firing.replied = false ∧
    (core0 owing).homeDrained 0 (unitHome 0) (fun f _ => f == owing.firing.fid) = true ∧
    (user.slotNow 0 15).st = .free ∧ (let u := core0 { userUnit with slots := [(15, { st := .waiting, deadline := 1 }), (14, { st := .waiting, deadline := 0 })] }; (u.slotNow 0 15).st = .waiting ∧
      (u.slotNow 0 14).st = .ready ∧ (u.slotNow 0 14).status = 2) ∧
    (let u := { userUnit with rctl := 1, slots := [(15, { st := .ready, status := 1, pay := [7] }), (0, { st := .ready }), (1, { st := .ready, status := 2 })] };
      (look slot0 u.slots 15).st = .ready ∧ (look slot0 u.slots 15).status = 1 ∧ u.rctl.getLsbD 0 = true ∧ (look slot0 u.slots 0).st = .ready ∧
      (look slot0 u.slots 0).status = 0 ∧ 2 ≤ (look slot0 u.slots 1).status) ∧
    (let u := { userUnit with slots := [(15, { st := .ready, status := 1 })] }; (look slot0 u.slots 15).status = 1 ∧ u.rctl.getLsbD 0 = false) := by
  decide +kernel
/-- Core 0 with given synchronisation objects: semaphore 63, barrier 15, bitmap 7; a0 as given; two engine operations issued, one finished. -/
def synced (sem bar bits a0 : Word) : State :=
  { core0 (xs [(10, a0)] { userUnit with eng := { bars := [(15, bar)], cbms := [(7, bits)], issued := 2, finished := 1 } }) with clusters := [(0, { sems := [(63, sem)] })] }
theorem witness_SynchronisationInstructions : isSc user.focus = false ∧
    (let s := synced 0x8000000000000005 (BitVec.ofNat 64 (2 ^ 40 - 1)) 1 2;
      (look word0 (s.getCluster (s.focus / 16)).sems 63).msb = true ∧ (look word0 s.cur.eng.bars 15).toNat % 2 ^ 40 ≠ 0 ∧
      look word0 s.cur.eng.cbms 7 &&& s.x 10 ≠ s.x 10 ∧ s.cur.eng.finished < min ((s.x 10).toNat % 2 ^ 63) s.cur.eng.issued) ∧
    (let s := synced 1 0x8000030000000000 3 1;
      (look word0 (s.getCluster (s.focus / 16)).sems 63).msb = false ∧ (s.x 10).toNat % 2 ^ 32 ≤ (look word0 (s.getCluster (s.focus / 16)).sems 63).toNat % 2 ^ 32 ∧
      (look word0 s.cur.eng.bars 15).toNat % 2 ^ 40 = 0 ∧ (look word0 s.cur.eng.bars 15).toNat / 2 ^ 63 = 1 ∧ look word0 s.cur.eng.cbms 7 &&& s.x 10 = s.x 10 ∧
      min ((s.x 10).toNat % 2 ^ 63) s.cur.eng.issued ≤ s.cur.eng.finished) ∧
    (let s := synced 0 0 0 1;
      (look word0 (s.getCluster (s.focus / 16)).sems 63).toNat % 2 ^ 32 < (s.x 10).toNat % 2 ^ 32 ∧ (look word0 s.cur.eng.bars 15).toNat % 2 ^ 40 = 0 ∧
      (look word0 s.cur.eng.bars 15).toNat / 2 ^ 63 = 0) := by decide +kernel
/-- An SWREG command word at scratchpad address 0x7FFE0, for stack node 0. -/
def command (w3 : Word) : State :=
  { args 0x7FFE0 0 0 0 with mem := scratchMem [(0x7FFE0, 0x20), (0x7FFE8, 0x0100000000000000), (0x7FFF0, 4), (0x7FFF8, w3)] }
theorem witness_EcmdChecksAndQueues : 0x80000 - 32 < (0x7FFE1#64).toNat ∧ (0x7FFE0#64).toNat ≤ 0x80000 - 32 ∧ (0x7FFE0#64).toNat % 32 = 0 ∧ (0x7FFDF#64).toNat % 32 ≠ 0 ∧
    (let e := fun (s : State) => let bs := s.localBytes 0x7FFE0 32; ecwOf (dwAt bs 0) (dwAt bs 8) (dwAt bs 16) (dwAt bs 24)
     let s := command 0
     (command 2).ecwCheck (e (command 2)) = some 6 ∧ s.ecwCheck (e s) = none ∧
     (s.formKind 0 0 (e s)).all (fun k => s.ecmdDrained k && (s.queueOp (e s) k).isSome) = true ∧ (s.formKind 0 0 (e s)).isSome ∧
     (let t := { s with cur := { s.cur with journal := [(0, { st := .issued, fid := 3, size := 8, addr := 0x0100000000000000 })] } }
      (t.formKind 0 0 (e t)).all (fun k => t.ecmdDrained k) = false)) := by decide +kernel
theorem witness_FencesWaitAndRetire :
    (user.cur.journal = [] ∧ user.pendingAtomic user.focus (fun _ => true) = false ∧ user.opsPending user.focus 3 = false ∧ user.x 10 = 0) ∧
    ((0, { st := JState.issued, fid := 3 }) ∈ full.journal) ∧
    (let s : State := { user with clusters := [(0, { chans := [(0, [{ src := some 0, unit := 0, part := 0, lid := 1, fid := 3, seq := 1, kind := .swreg 0 1 true }])] })] }
     s.opsPending s.focus 3 = true) ∧ (∀ g, g < 8 → (user.getStack g).pch = []) ∧ (8 ≤ 0xEF ∧ 0xEF < 0xF0) := by decide +kernel
/-- Core 0 with an object word at scratchpad address 0x7FFF8, which a0 names; a1 as given. -/
def object (w a1 : Word) : State := { args 0x7FFF8 a1 0 0 with mem := scratchMem [(0x7FFF8, w)] }
theorem witness_AcquiresTakeTheObject :
    (acquireOf user (.acqX 1 10)).isSome ∧ (acquireOf user (.acqS 1 10)).isSome ∧ (acquireOf user (.acqw 1 11 10)).isSome ∧
    (let s := object (objWord false 32766 5) 5
     okB (s.engineCheck (s.x 10) 8) (.scratch 0 0x7FFF8) ∧ s.ownPending (.scratch 0 0x7FFF8) 8 = false ∧ s.recorded 0 1 = false ∧
     (s.getCluster 0).waiters = [] ∧ s.read (scratchKey 0 0x7FFF8) 8 = objWord false 32766 5 ∧ s.cur.wait = .none) ∧
    (xheld (objWord false 0 0) = false ∧ nshare (objWord false 0 0) = 0) ∧ (xheld (objWord false 32766 5) = false ∧ nshare (objWord false 32766 5) < 32767 ∧ 5 ≤ objVal (objWord false 32766 5)) ∧
    xheld (objWord true 0 0) = true ∧ ¬ nshare (objWord false 32767 0) < 32767 ∧
    okB ((args globalA 0 0 0).engineCheck globalA 8) (.global 0 0) ∧ user.underWay (globalAddr 0 0).toNat 8 = false ∧
    user.localSpot 0 0 0x7FFF8 = some (0, 0x7FFF8) ∧ (user.getCluster 0).aeReqs = [] ∧ user.suspended 0 = false ∧
    ({ userUnit with wait := .refusal 3 0 7 } : Machine.Unit).wait = .refusal 3 0 7 := by decide +kernel
theorem witness_ReleasesAndBindings :
    (let s := object (objWord true 0 5) 0x010000000000000C
     okB (s.engineCheck (s.x 10) 8) (.scratch 0 0x7FFF8) ∧ s.releaseDrained (s.spotGeq (.scratch 0 0x7FFF8)) = true ∧
     s.regionOf (s.x 11) = some (0x0100000000000000, 12) ∧ (s.getPart 0).bindings = []) ∧
    (let s : State := { object (objWord true 0 5) 0 with releases := [{ src := 0, part := 0, lid := 1, addr := 0x7FFF8, value := none }] }
     s.suspended 0 = false ∧ s.localSpot 0 0 0x7FFF8 = some (0, 0x7FFF8) ∧ s.releaseBehind 0 { src := 0, part := 0, lid := 1, addr := 0x7FFF8, value := none } = false ∧
     (s.getCluster 0).aeReqs = [] ∧ (s.getCluster 0).waiters = [] ∧ s.recorded 0 1 = false) ∧
    (let s := args globalA 0 0 0; okB (s.engineCheck (s.x 10) 8) (.global 0 0) ∧ s.releaseDrained (s.spotGeq (.global 0 0)) = true ∧ s.underWay (s.x 10).toNat 8 = false ∧
     freeEntry s.cur (sameHome s globalA) = some 0) ∧
    (let b : Binding := { obj := user.spotGeq (.scratch 0 0x7FFF8), base := 0x0100000000000000, log2 := 12, lid := 1 }
     [b].any (fun x => x.obj == b.obj && x.base == b.base && x.log2 == b.log2) = true ∧
     (let l := (List.range 16).map fun i => { b with base := BitVec.ofNat 64 (4096 * (i + 1)) }
      16 ≤ (l.filter (fun x => x.obj == b.obj)).length ∧ l.any (fun x => x.obj == b.obj && x.base == b.base && x.log2 == b.log2) = false)) ∧
    user.regionOf 0 = none := by decide +kernel
theorem witness_AtomicsUpdateAndAnswer :
    (∀ i ∈ [Instr.amoaddW 1 11 10, .amoaddDP 11 10, .amocasD 1 11 12 10, .amofmaxS 1 11 10], (amoOf i).isSome) ∧
    (let s := object 7 1
     okB (s.engineCheck (s.x 10) 8) (.scratch 0 0x7FFF8) ∧ okB (s.engineCheck (s.x 10) 4) (.scratch 0 0x7FFF8) ∧ isSc s.focus = false ∧
     s.localSpot 0 0 (s.x 10) = some (0, 0x7FFF8) ∧ s.ownPending (.scratch 0 0x7FFF8) 8 = false ∧ s.amoUnderWay 0x10 = false ∧ (s.getCluster 0).aeReqs = [] ∧
     s.recorded 0 1 = false ∧ s.suspended 0 = false ∧ s.waitersOf 0 = [] ∧ (∀ j, j < 8 → s.isState 0 ((0x7FFF8 + j) / 16 * 16) = false) ∧ s.cur.wait = .none) := by decide +kernel
theorem witness_GlobalAtomicsGoToTheirHome :
    (amoOf (.amoaddWP 11 10)).all (fun m => m.rd == none) = true ∧ (amoOf (.amoaddW 1 11 10)).all (fun m => m.rd == some 1) = true ∧
    (let s := paged leafRwx (xs [(10, globalA), (11, 1)] userUnit)
     okB (s.engineCheck globalA 4) (.global 0 0) ∧ s.underWay globalA.toNat 4 = false ∧ freeEntry s.cur (sameHome s globalA) = some 0 ∧ s.writePending globalA.toNat 4 = false ∧
     s.amoUnderWay (s.addrKey 0 0 globalA) = false ∧ (match s.translate 0 0 0 4 .rw with | .ok x => engineOf x.home == some 4096 | .error _ => false) = true) ∧
    (match (args globalA 1 0 0).translate 0 0 0 4 .rw with | .ok _ => false | .error _ => true) = true ∧
    (core0 { userUnit with journal := [(62, { st := .issued, addr := globalA, size := 8 })] }).writePending globalA.toNat 4 = true ∧
    (core0 { userUnit with journal := [(0, { st := .issued, kind := .amo 0, addr := globalA + 64, size := 8 })], jord := 1 }).amoUnderWay (user.addrKey 0 0 globalA) = true := by decide +kernel

-- the law unit

theorem witness_CoordinatesAdvanceByTheirLaw : 0 ≤ lamOf 0 ∧ 0 ≤ lamOf 0x3FFFFFFFFFFFFFFF ∧ (0x8000000000000000#64).toInt ≤ (0x7FFFFFFFFFFFFFFF#64).toInt ∧
    0 ≤ oscKappa ((lawState 3 0x7FFFFFFF 0 0 0 0 0 0 0).lawEntry 0 1) ∧ ((lawState 3 0 0 0 0 0 0 0 0).lawEntry 0 1).kind = 3 ∧
    ((lawState 2 0 0 0 0 0 0 0 0).lawEntry 0 1).kind = 2 ∧ ((lawState 1 0 0 0 0 0 0 0 0).lawEntry 0 1).kind = 1 ∧
    ((lawState 0 0 0 0 0 0 0 0 0).lawEntry 0 1).kind = 0 := by decide +kernel
theorem witness_AdvancingComposes : (∀ k, k ≤ 3 → (let e := (lawState k 5 3 3 0 0 0 0 0).lawEntry 0 1; (e.kind = 1 → 0 ≤ lamOf e.p0) ∧
    (e.kind = 2 → e.p1.toInt ≤ e.p2.toInt) ∧ (e.kind = 3 → 0 ≤ oscKappa e) ∧ e.kind ≤ 3)) := by decide +kernel
/-- The word of a law state is at hand: not swapped out. -/
def word1 (s : State) : WordAt := s.scratchWord 0 0 0
/-- What `atHand` asks of a word in a scratchpad, as a Bool. -/
def atHandB (s : State) (a : Word) (w : WordAt) : Bool :=
  !s.addrHeld (isSc s.focus) s.cur.part a &&
  (match s.lawPlace a with | .ok (v, none) => decide (v = w) | _ => false) && decide (youngest s.cur w.addr.toNat 16 = none) &&
    decide (youngest s.cur a.toNat 16 = none)
theorem atHandB_iff (s : State) (a : Word) (w : WordAt) (h : atHandB s a w = true) : atHand s a w s := by
  simp only [atHandB, Bool.and_eq_true, decide_eq_true_eq, Bool.not_eq_true'] at h
  obtain ⟨⟨⟨h0, h1⟩, h2⟩, h3⟩ := h
  refine ⟨h0, h2, h3, .inl ⟨?_, rfl⟩⟩
  split at h1
  next v hv => rw [hv]; simp_all
  next => cases h1
theorem witness_LawFaultsInOrder :
    (match user.lawPlace 0x8 with | .error _ => true | .ok _ => false) = true ∧ (match user.lawPlace 0 with | .error _ => true | .ok _ => false) = true ∧
    (let s := lawState 1 0 0 0 0 0 0 0 0
     atHandB s 0 (word1 s) ∧ s.swapped (word1 s) = false ∧ (s.wordOf (word1 s)).top = false ∧ (s.lawEntry 0 1).valid = true ∧
     ({ s with laws := [(0, { swaps := [{ part := 0, base := (word1 s).addr, len := 16 }] })] } : State).swapped (word1 s) = true ∧
     ({ s with parts := [] } : State).getPart 0 = {}) ∧
    (let s := lawState 1 0 0 0 0 0x8000000000000000 0 0 2; (s.wordOf (word1 s)).top = true ∧ 1 < (s.x 11).toNat) ∧
    (let s := lawState 0 0 0 0 0 0 0 0 0; (s.lawEntry 0 1).kind = 0 ∧ (s.x 11).toNat % 256 = 0) ∧
    (let s := lawState 3 0 0 0 0 0 0 0 0x7F80000000000000; (s.lawEntry 0 1).kind = 3 ∧ (s.x 11).toNat / 2 ^ 55 % 256 = 255) ∧
    (let s := lawState 1 0 0 0 0 0 0 0 0x7F800000; (s.lawEntry 0 1).kind ≠ 0 ∧ (s.x 11).toNat / 2 ^ 23 % 256 = 255) ∧
    (let s := lawState 1 0 0 0 0 0 0 0 1; (s.thrEntry 0 0 1).valid = false) ∧
    (let s := lawState 1 0 0 0 0 0 0 0x8000000000000004 1; (s.thrEntry 0 0 1).valid = true ∧ (s.thrEntry 0 0 1).sel = true ∧ (s.lawEntry 0 1).kind ≠ 3) ∧
    (let s := lawState 1 0 0 0 0 0 0 0x8000000000000000 257; (s.thrEntry 0 0 1).valid = true ∧ (s.thrEntry 0 0 1).sel = false ∧ (s.x 11).toNat < 512) := by
  decide +kernel
theorem witness_LawInstructionsActOnTheWord :
    (let s := lawState 1 1 0 0 5 0 3 0x8000000000000000 1; atHandB s (s.x 10) (word1 s) ∧ s.swapped (word1 s) = false ∧ (s.wordOf (word1 s)).top = false ∧
      (s.wordOf (word1 s)).armed = false ∧ (s.x 11).toNat ≤ 1 ∧ (s.lawEntry 0 1).valid = true ∧ (s.lawEntry 0 1).kind = 1 ∧ s.x 11 ≠ 0xC000000000000000 ∧
      (s.x 11).toNat / 2 ^ 23 % 256 ≠ 255 ∧ (s.thrEntry 0 0 1).valid = true ∧ (s.thrEntry 0 0 1).sel = false ∧
      thrMet (s.lawEntry 0 1) (s.thrEntry 0 0 1) 5 = false ∧ crossing (s.lawEntry 0 1) (s.thrEntry 0 0 1) 5 = some (2, 1) ∧ s.roosterRoom (word1 s) = true ∧
      thrMet (s.lawEntry 0 1) (s.thrEntry 0 0 1) 3 = true ∧ s.postRoom 0 = true) ∧
    (let s := lawState 1 0 0 0 5 0 3 0x8000000000000000 1; thrMet (s.lawEntry 0 1) (s.thrEntry 0 0 1) 5 = false ∧
      crossing (s.lawEntry 0 1) (s.thrEntry 0 0 1) 5 = none) ∧
    (let s := lawState 1 1 0 0 5 0 3 0x8000000000000000 1
     let r : Rooster := { part := 0, addr := 0, idx := 1, gen := 0, due := 0 }
     ({ s with laws := [(0, { rooster := List.replicate 2048 r })] } : State).roosterRoom (word1 s) = false) ∧
    (lawState 1 0 0 0 0 0 0 0 0xC000000000000000).x 11 = 0xC000000000000000 ∧
    (let s := lawState 2 0 3 3 0 0 0 0 0; (s.lawEntry 0 1).kind = 2 ∧ (s.lawEntry 0 1).p1.toInt ≤ (s.lawEntry 0 1).p2.toInt) ∧
    (let s := lawState 3 0 0 0 0 0 0 0 1; (s.lawEntry 0 1).kind = 3 ∧ (s.x 11).toNat / 2 ^ 55 % 256 ≠ 255) ∧ ((lawState 0 0 0 0 0 0 0 0 0).lawEntry 0 1).kind = 0 := by
  decide +kernel

-- the banks

/-- Pseudo-channel 0 held by core 0 of partition 0, with commands as given. -/
def heldPch (cmds : List BankCmd) : SMap Pch := [(0, { allbank := true, holder := some ((core0 userUnit).holderName 0), cmds := cmds })]
/-- A command of core 0. -/
def bankCmd : BankCmd := { src := 0, part := 0, lid := 1, fid := 3, kind := .bget 0 }
/-- The place of the bank state's address is pseudo-channel 0 of stack 0. -/
def atPch0 (s : State) (a : Word) (need : Need) : Bool := match s.bankPlace a need with | .ok (g, c, _) => g == 0 && c == 0 | .error _ => false
theorem witness_AllbankModeIsEnteredAndLeft :
    (let s := bankState 1 1 []; s.bankNode globalA = none ∧ atPch0 s globalA .any ∧ s.cur.wait = .none ∧ s.x 11 = 1 ∧ (s.getPch 0 0).allbank = false ∧
      (s.getStack 0).entering = [] ∧ ((s.getStack 0).pch.filter (fun kv => kv.2.allbank || kv.2.burst.isSome)).length < (s.getStack 0).cap ∧ (s.getPch 0 0).burst = none) ∧
    (let s := bankState 1 1 (heldPch []); (s.getPch 0 0).allbank = true ∧ (s.getPch 0 0).holder = some ((s.getUnit s.focus).part, s.unitField (s.getUnit s.focus).part s.focus) ∧
      (s.getPch 0 0).cmds.any (·.held) = false ∧ (s.getStack 0).cap ≤ ((s.getStack 0).pch.filter (fun kv => kv.2.allbank || kv.2.burst.isSome)).length) ∧
    ((bankState 0 1 (heldPch [bankCmd])).getPch 0 0).cmds.any (·.held) = true ∧ (bankState 0 0 []).x 11 = 0 ∧ 2 ≤ ((bankState 2 0 []).x 11).toNat ∧
    (let s := bankState 1 1 [(0, { allbank := true, holder := some (1, 5) })]; (s.getPch 0 0).holder ≠ some ((s.getUnit s.focus).part, s.unitField (s.getUnit s.focus).part s.focus)) ∧
    (let s := bankState 1 1 [(0, { burst := some (0, 0) })]; (s.getPch 0 0).burst ≠ none ∧ (s.getPch 0 0).allbank = false) := by decide +kernel
/-- A BMV descriptor at scratchpad address 0: format WFMT, one row, D plane. -/
def bmvState (d0 d1 d2 : Word) (pch : SMap Pch) : State := { bankState 0 1 pch with mem := scratchMem [(0, d0), (8, d1), (16, d2)] }
theorem witness_BankInstructionsRefuse :
    user.bankNode 0 = some (5, 0) ∧ (user.bankNode 0x0190000000000000).isSome ∧
    (let s := bankState 0x0000000000000000 1 []; s.bankNode globalA = none ∧ ¬ castOk (s.x 11) ∧ atPch0 s globalA .any ∧ s.holds s.focus 0 0 = false ∧
      s.localOperand (s.x 11) 32 32 = none ∧ bmvWord 0 0 0 0 false = false ∧ s.getDest (s.x 11) = none ∧ (s.x 11).toNat % 2 ^ 32 = 0) ∧
    (let s := bankState 0x0000010000000000 1 []; castOk (s.x 11) ∧
      s.localOperand (BitVec.ofNat 64 ((s.x 11).toNat % 2 ^ 19)) 32 (32 * ((s.x 11).toNat / 2 ^ 36 % 2 ^ 10)) = none) := by
  unfold castOk; decide +kernel
/-- What a BMV asks of its D plane. -/
def dplaneOk (s : State) (d1 : Word) (n : Nat) : Bool :=
  match s.translate 0 (d1.toNat / 2 ^ 48 % 256) (d1.toNat % 2 ^ 48) 1 .r with
  | .ok t => rowsFit t 512 n && s.pchOf 0 t == some (0, 0)
  | .error _ => false
/-- Handler entry 0: INST, format FP32, mode 0 or 2 (replies), one operation. -/
def handlerState (mode : Word) : State :=
  { bankState 1 1 [] with parts := [(0, { handlers := [(0, 0x0000000000001021 ||| (mode <<< 10))] })] }
theorem witness_BankCommandsAreTaken :
    (let s := bankState 0x0000010000000000 1 (heldPch []); s.holds s.focus 0 0 = true ∧ s.getDest 0x100 = none ∧ castOk (s.x 11) ∧ atPch0 s globalA .r) ∧
    (let d0 := 0x0000000200010000#64
     let s := bmvState d0 0 0x80 (heldPch [])
     bmvWord d0 0 0x80 0 false = true ∧ s.svDrained = true ∧ s.localOperand 0 32 32 = none ∧ dwAt (s.localBytes 0 32) 0 = d0 ∧ 2 ≤ d0.toNat / 2 ^ 32 % 4 ∧
     (match s.bankPlace globalA .r with | .ok (_, _, t, _) => bmvFits t 2 0 1 0 false | .error _ => false) = true ∧ (bmvState d0 0 0x80 []).holds 0 0 0 = false) ∧
    (let d0 := 0x0000000000010000#64
     bmvWord d0 0x0100000000008000 0 0 false = true ∧ dplaneOk (bmvState d0 0x0100000000008000 0 []) 0x0100000000008000 1 = true ∧
     (bmvState d0 0x0100000000008000 0 []).bankNode 0x0100000000008000 = none ∧
     (match (bmvState d0 0 0 []).bankPlace globalA .r with | .ok (_, _, t, _) => bmvFits t 0 0 1 0 false | .error _ => false) = true) ∧
    (let s := handlerState 0; let h := handlerNat (s.handler 0 0); bexprOk s (s.x 10) 1 h ∧ hInst h = true ∧ hReplies h = false ∧ atPch0 s globalA .rw) ∧
    (let s := handlerState 2; let h := handlerNat (s.handler 0 0); bexprOk s (s.x 10) 1 h ∧ hInst h = true ∧ hReplies h = true ∧ atPch0 s globalA .r ∧
      freeSlot s.cur = some 0) ∧
    (List.replicate 32 (0 : Byte)).length % 16 = 0 ∧ 32 * 0 + (List.replicate 32 (0 : Byte)).length / 16 ≤ 1024 ∧ 32 * 31 + (List.replicate 32 (0 : Byte)).length ≤ 1024 := by
  unfold castOk bexprOk; decide +kernel

-- vectors and the tensor engine

theorem witness_VectorLaneResults : isSc user.focus = false ∧ (∀ i ∈ [Instr.vfadd 1 2 3, .vfabs 1 2, .vfcmp .le 1 2 3, .viadd 31 0 31, .vsra 1 2 3, .vicmp .leu 1 2 3, .vexp2 1 2,
    .vrcp 1 2, .vrsq 1 2, .vlog2 1 2, .vcvt .toi32 1 2, .vfsum 1 2, .vfmaxr 1 2, .visum 1 2, .vperm 1 2 3, .vbcast 1 10, .vmvv 1 2, .vslide 1 2 0x1F, .vfma 1 2 3 4, .vfms 1 2 3 4,
    .vsel 1 2 3 4, .vrec 1 2 3 4, .vimin 1 2 3, .vimax 1 2 3, .vand 1 2 3, .vor 1 2 3, .vxor 1 2 3, .vsll 1 2 3, .vsrl 1 2 3, .visub 1 2 3, .vimul 1 2 3, .vfsub 1 2 3, .vfmul 1 2 3,
    .vfmax 1 2 3, .vfmin 1 2 3, .vfneg 1 2], (laneResult user i).isSome) := by decide +kernel
/-- A NaN, an infinity, a zero and an ordinary number. -/
theorem witness_FloatLanesFollowTheSpecialRules :
    ((0x7F800001#32).toNat / 2 ^ 23 % 256 = 255 ∧ (0x7F800001#32).toNat % 2 ^ 23 ≠ 0) ∧ (0xFF800000#32).toNat % 2 ^ 31 = 0x7F800000 ∧ (0x80000000#32).toNat % 2 ^ 31 = 0 ∧
    ¬ ((0x7F800000#32).toNat / 2 ^ 23 % 256 = 255 ∧ (0x7F800000#32).toNat % 2 ^ 23 ≠ 0) ∧ (0x7F800000#32 ≠ 0xFF800000#32) ∧ (0x80000000#32 ≠ 0#32) ∧
    (0x7F7FFFFF#32).toNat % 2 ^ 31 ≠ 0x7F800000 ∧ ¬ ((1#32).toNat % 2 ^ 31 = 0) := by decide +kernel
theorem witness_SpecialFunctionsFollowTheirTable : ((0xFFFFFFFF#32).toNat / 2 ^ 23 % 256 = 255 ∧ (0xFFFFFFFF#32).toNat % 2 ^ 23 ≠ 0) ∧ (0x80000000#32).toNat % 2 ^ 31 = 0 ∧
    (¬ ((0x80000001#32).toNat / 2 ^ 23 % 256 = 255 ∧ (0x80000001#32).toNat % 2 ^ 23 ≠ 0) ∧ (0x80000001#32).msb = true ∧ (0x80000001#32).toNat % 2 ^ 31 ≠ 0) := by
  decide +kernel
/-- Core 0 with the formats of banks 0 and 1. -/
def banks (f g : Word) : State := core0 { userUnit with bfmt := [(0, f), (1, g)] }
/-- A range lock of core 0's bytes from a on. -/
def lockedAt (a n : Nat) : State :=
  { user with clusters := [(0, { locks := [{ part := 0, base := (user.addrGeq 0 0 (BitVec.ofNat 64 a)).toNat, len := n, dst := true, owner := none, seq := 0 }] })] }
theorem witness_VectorAccessesAreChecked :
    [0#64, 2].head? = some 0 ∧ user.bankFmt 0 = 0 ∧ (2#64).toNat % 4 ≠ 0 ∧ (0#64).toNat % 4 = 0 ∧ 0x80000 ≤ (0x80000#64).toNat ∧ ¬ 0x80000 ≤ (0x7FFFC#64).toNat ∧
    (let s := lockedAt 0x102 2; s.locked (s.geq 0 0 0x100).toNat 4 false = true ∧ s.locked (s.geq 0 0 0xFC).toNat 4 false = false) ∧
    (banks 2 3).bankFmt 0x1000 ≠ (banks 2 3).bankFmt 0xFFE ∧ (banks 2 2).bankFmt 0x1000 = (banks 2 2).bankFmt 0xFFE ∧ (banks 2 2).bankFmt 0 = 2 ∧ 7 ≤ (banks 7 7).bankFmt 0 := by
  decide +kernel
theorem witness_VectorLoadsFillTheirLanes : (∀ i ∈ [Instr.vld 1 10 0x800, .extPfx 1 (.one (.vld 1 10 0)), .vlds 1 10 11, .vldx 1 10 2], (vecLoadForm user i).isSome) ∧
    errB ((banks 2 2).elemCheck (inRow 1 32) false) (1, 1) ∧ okB ((banks 2 2).elemCheck (inRow 0xFC0 32) false) 2 ∧ okB (user.elemCheck (inRow 0x7FF80 32) false) 0 ∧
    (∀ f ∈ [0, 2, 3, 4, 5, 7], okB ((banks (BitVec.ofNat 64 f) 0).elemCheck (inRow 0x100 32) false) f) := by decide +kernel
theorem witness_VectorLoadsFillTheirLanes_settled : settledSpan (banks 2 2) (inRow 0xFC0 32) 2 32 := by unfold settledSpan; decide +kernel
theorem witness_VectorStoresWriteTheirElements : (∀ i ∈ [Instr.vst 1 10 0x800, .extPfx 1 (.one (.vst 1 10 0)), .vsts 1 10 11, .accst 3 10], (vecStoreForm user i).isSome) ∧
    errB ((banks 2 2).elemCheck (inRow 1 32) true) (1, 1) ∧ okB ((banks 7 0).elemCheck (inRow 0x100 32) true) 7 ∧ okB ((banks 0 0).elemCheck (inRow 0 1024) true) 0 := by decide +kernel
theorem witness_VectorStoresWriteTheirElements_settled : settledSpan (banks 7 0) (inRow 0x100 32) 7 32 := by unfold settledSpan; decide +kernel
/-- A block of 3-bit values that keeps 4 of 12 in every group, all values 0 (R80, R81). -/
def block0 : Nat := 15 * ((2 ^ (24 * 128) - 1) / (2 ^ 24 - 1)) * 2 ^ 192 + (1 + 4 * 2 ^ 8 + 416 * 2 ^ 32)
/-- An MMA of K = 16 over an A tile in BF16 and that block. -/
def mmaState : State := { banks 2 2 with mem := writeNat [] (weightKey 0 0) block0 416 }
theorem block0_recs : ∀ g, g < 128 → blockRec block0 1 4 g = 15 := by decide +kernel
theorem block0_ok : blockOk (1 + 4 * 2 ^ 8 + 416 * 2 ^ 32) block0 1 4 = true := by
  have h : (List.range 128).all (fun g => bitCount (blockRec block0 1 4 g) 12 == 4) = true := by
    simp only [List.all_eq_true, List.mem_range]
    intro g hg
    rw [block0_recs g hg]
    rfl
  unfold blockOk
  rw [h]
  decide +kernel
theorem mmaState_blocks : mmaState.blocks 1 4 1 (0 : Word).toNat = .ok [0] := by
  have h : mmaState.block 0 416 = block0 ∧ mmaState.blockHeader 0 = 1 + 4 * 2 ^ 8 + 416 * 2 ^ 32 ∧ blockLen 1 4 = 416 ∧ (0 : Word).toNat = 0 := by
    decide +kernel
  simp only [State.blocks, h, block0_ok]
  rfl
theorem witness_MatrixInstructionsUpdateAccumulators :
    isOk (mmaState.mmaCheck 0 0 (mmaCtl 0x10010) 0) = true ∧
    ((mmaCtl 0x10010).k ≠ 0 ∧ (mmaCtl 0x10010).zf = false ∧ (∀ i, i < 32 → mmaState.spanPending (0 + i * 32) 32 = false)) ∧
    errB ((banks 2 2).mmaCheck 1 0 (mmaCtl 16) 0) (1, 1) ∧ (mmaCtl 0x0001000000000000).zf = true ∧ isSc user.focus = false := by
  have h : (mmaCtl 0x10010).bfmt = 1 ∧ keepOf (mmaCtl 0x10010).ncode = 4 ∧ ((mmaCtl 0x10010).k + 47) / 48 = 1 := by decide
  refine ⟨?_, by decide +kernel⟩
  unfold State.mmaCheck
  rw [h.1, h.2.1, h.2.2, mmaState_blocks]
  decide +kernel
theorem witness_WldCopiesItsBlocks :
    (32 % 32 = 0 ∧ 33 % 32 ≠ 0) ∧ errB (user.headerWalk 1 0x80000) (some 0x80000) ∧
    errB ((core0 { userUnit with journal := [(0, { st := .issued, kind := .amo 0, addr := user.addrGeq 0 0 0x7FD20, size := 8 })] }).headerWalk 1 0x7FD20) none ∧
    (let s : State := { user with mem := writeNat [] (scratchKey 0 0x7FD20) (2 + 4 * 2 ^ 8 + 736 * 2 ^ 32) 8 }
     okB (s.headerWalk 1 0x7FD20) [736] ∧ 0x7FD20 + [736].sum ≤ 0x80000 ∧ s.lockedElem 0x7FD20 736 1 false = none ∧ crossing_ 0x3FD40 [736] = some 0x3FD40 ∧
     0x3FD20 + 736 ≤ 0x40000 ∧ s.spanPending 0x7FD20 736 = false) := by decide +kernel
theorem witness_RefusedByUnitOrPrivilege : isSc sc.focus = true ∧ (∀ i ∈ [Instr.qwaitF 0 0, .mma 0 1 2 3, .vfadd 1 2 3, .vrec 1 2 3 4, .sendR 1 2 3, .chktest 1 0 2, .wfe 0, .launch 1 2, .placew 1 2 3, .vst 1 2 3],
    outsideRemote i = true) ∧ isSc user.focus = false ∧ user.cur.priv = .u ∧ super.cur.priv ≠ .m := by decide +kernel

-- events: messages, homes, objects, atomics

/-- A message of launch 1 from core 0. -/
def msg0 : Msg := { kind := 0, onode := 0x10, ounit := 0, lid := 1, part := 0, hpc := 0x1000, pay := [1, 2, 3, 4, 5, 6] }
/-- Core 0 has a message to core 1 to send, behind the journal entries given. -/
def sending (j : SMap JEntry) : State :=
  core0 { userUnit with sendq := [{ msg := msg0, dest := .core 1, node := 0x10, ord := 1, fid := 3 }], journal := j }
/-- A message to core 1 in flight, n messages in its inbox; a reply to its slot 15. -/
def flying (n : Nat) : State :=
  { user.setUnit 1 { inbox := List.replicate n msg0, slots := [(15, { st := .waiting, gen := 9, deadline := 0 })] } with
    flights := [{ src := 0, dst := 1, dest := .core 1, msg := msg0 }, { src := 0, dst := 1, dest := .core 1, msg := msg0 }]
    replies := [{ dst := 1, part := 0, node := 0x10, ounit := 0, slot := 15, gen := 9, status := 0, pay := [] },
                { dst := 1, part := 0, node := 0x10, ounit := 0, slot := 15, gen := 8, status := 0, pay := [] }] }
theorem witness_MessagesAndRepliesArrive :
    (let s := sending []; (s.getUnit 0).sendq.length = 1 ∧ s.suspended 0 = false ∧ s.destUnit 0 (.core 1) = some 1 ∧
      s.homeDrained 0 (s.nodeHome 0 0x10) (fun _ n => decide (n < 1)) = true) ∧
    (let s := sending [(0, { st := .issued, ord := 0, node := 0x10, addr := 0x0110000000000000 })];
      s.homeDrained 0 (s.nodeHome 0 0x10) (fun _ n => decide (n < 1)) = false) ∧
    (let s := flying 63; s.flights[0]?.isSome ∧ s.flights[1]?.isSome ∧ s.flights.map (·.src) = [0, 0] ∧ (s.getUnit 1).inbox.length < 64 ∧ (s.getUnit 1).part = 0 ∧
      (s.getLaunch 0 1).isNone ∧ s.logCluster 0 (1 / 16) = some 0 ∧ (s.logCore 0 0 (1 % 16)).isSome = true ∧
      (look slot0 (s.getUnit 1).slots 15).st = .waiting ∧ (look slot0 (s.getUnit 1).slots 15).gen.toNat = 9 ∧ (8 ≠ 9) ∧
      (s.atimeOf (dieOf 1)).toNat = (look slot0 (s.getUnit 1).slots 15).deadline ∧ (look slot0 (s.getUnit 1).slots 0).st = .free) ∧
    (let s : State := { flying 0 with replies := [] }; s.suspended 0 = false ∧ (look slot0 (s.getUnit 1).slots 15).deadline = (s.atimeOf (dieOf 1)).toNat) ∧
    64 ≤ ((flying 64).getUnit 1).inbox.length ∧ (user.destUnit 0 (.core 4095)) = none ∧ suspended.suspended 0 = true := by decide +kernel
/-- Core 0 waits for a global load. -/
def loading (leaf : Word) (T : Option Word) : State := paged leaf { userUnit with wait := .load globalA 8 T }
def translates (s : State) (a : Word) (n : Nat) (need : Need) : Bool :=
  match s.translate 0 (nodeOf a) (offOf a) n need with
  | .ok t => t.home == .stack 0 && s.homeUp 0 t && (List.range n).all (fun i => s.siteKey 0 t i == stackKey 0 (offOf a + i))
  | .error _ => false
def forbidden (s : State) (a : Word) (n : Nat) (need : Need) : Bool :=
  match s.translate 0 (nodeOf a) (offOf a) n need with
  | .ok _ => false
  | .error f => f.cause != 3
def served (s : State) (a : Word) (n : Nat) (need : Need) (r : ReqId) (posted : Bool) : Bool :=
  match s.translate 0 (nodeOf a) (offOf a) n need with
  | .ok t => s.servesSite 0 t 0 r posted
  | .error _ => false
theorem witness_HomesAnswerLoads :
    (let s := loading leafRwx none; (s.getUnit 0).wait = .load globalA 8 none ∧ youngest (s.getUnit 0) globalA.toNat 8 = none ∧ translates s globalA 8 .r ∧
      served s globalA 8 .r (.load 0) false) ∧ forbidden (loading leafX none) globalA 8 .r ∧
    (let s : State := { loading leafX (some 1000) with now := 1000 }; (s.getUnit 0).wait = .load globalA 8 (some 1000) ∧ (1000#64).toNat ≤ (s.atimeOf (dieOf 0)).toNat ∧
      forbidden s globalA 8 .r) ∧ ((loading leafX (some 1000)).atimeOf (dieOf 0)).toNat < (1000#64).toNat ∧ (user.getUnit 0).wait = .none ∧
    (let s := paged 0x6000000000000C00 userUnit; match s.translate 0 0 0 8 .r with | .ok t => t.noFill | .error _ => false) = true := by decide +kernel
/-- Core 0 with journal entry 63 as given, and others. -/
def journalled (leaf : Word) (e : JEntry) (l : SMap JEntry) : State := paged leaf { userUnit with journal := put jentry0 l 63 e }
/-- An ISSUED store of 8 bytes to stack node 0. -/
def entry63 : JEntry := { st := .issued, addr := globalA, data := 0x1122334455667788, size := 8, sent := 5 }
theorem witness_JournalEntriesMoveAsTheirTableSays :
    (let s := journalled leafRwx entry63 []; (s.entry 0 63).st = .issued ∧ (s.entry 0 63).stage = .toHome ∧ (s.entry 0 63).timed = false ∧ s.suspended 0 = false ∧
      s.behind 0 (s.entry 0 63) = false ∧ s.behindEngine 0 (s.entry 0 63) none = false ∧ (s.entry 0 63).mark = false ∧ s.blocked = [] ∧ isAperture (nodeOf globalA) (offOf globalA) 8 = false ∧
      (s.entry 0 63).kind = .store ∧ translates s globalA 8 .w ∧ served s globalA 8 .w (.store 0 63) true ∧ (s.getStack 0).regs = [] ∧ (s.getStack 0).waiters = []) ∧
    (∀ i, i < 8 → ∀ i', i' < 8 → stackKey 0 i = stackKey 0 i' → i = i') ∧
    (let s := journalled leafRwx entry63 [(0, { entry63 with sent := 4 })]; s.behind 0 (s.entry 0 63) = true) ∧
    (let s := journalled leafRwx entry63 [(0, { entry63 with kind := .amo 0, stage := .atHome, sent := 4 })]; s.behindEngine 0 (s.entry 0 63) none = true) ∧
    (match (journalled leafX entry63 []).translate 0 0 0 8 .w with | .ok _ => false | .error _ => true) = true ∧
    (let s := journalled leafRwx entry63 []; let b : State := { s with blocked := [{ part := 0, key := s.entryKey 0 entry63, src := 0, ord := 5 }] }; b.blocked.any (fun x => x.key == b.entryKey 0 entry63 && x.ord ≤ entry63.sent) = true) ∧
    ((journalled leafRwx { entry63 with stage := .ack } []).entry 0 63).stage = .ack ∧ ((journalled leafRwx { entry63 with stage := .refusal 6 } []).entry 0 63).stage = .refusal 6 ∧
    ((journalled leafRwx { entry63 with stage := .refusal 2 } [(0, { st := .refused })]).getUnit 0).journal.any (fun p => decide (p.2.st = .refused)) = true ∧
    (let s := journalled leafRwx { entry63 with sent := 4 } []; let k := s.entryKey 0 entry63
     s.sentBefore 0 k 5 (fun o => o.part == 0) = true ∧ s.sentBefore 0 k 4 (fun o => o.part == 0) = false ∧
     ({ s with tokens := [{ src := 0, key := k, part := 0, sent := 4 }] } : State).tokens[0]?.isSome) := by decide +kernel
/-- A timed store of core 0 to its own scratchpad under way, its die as given. -/
def timedStore (now clk : Nat) (vis : List Vis) : State :=
  { core0 { userUnit with journal := [(0, { st := .issued, addr := 0x100, data := 7, size := 8, timed := true, time := 1000, node := 0x10 })] } with
    now := now, dies := [(0, { bell := true, clk := clk })], vis := vis }
/-- A visible store of core 0 at its port. -/
def vis0 (t : Word) : Vis := { port := 0, src := 0, j := 1, part := 0, lid := 1, addr := 0x100, data := 7, size := 8, time := t, arrived := 0 }
theorem witness_TimedStoresEnterTheVisibilityQueue :
    (let s := timedStore 1000 1 []; let e := s.entry 0 0; e.st = .issued ∧ e.stage = .toHome ∧ e.timed = true ∧ e.mark = false ∧ s.suspended 0 = false ∧ s.timedBehind 0 e = false ∧
      s.timedHome 0 e = some (0, 0) ∧ s.clkState 0 ≠ 0 ∧ (s.atimeOf 0).toNat ≤ e.time.toNat + epsOf e.node ∧ s.blocked = [] ∧
      okB (s.timedSite 0 e) none ∧ (s.vis.filter (fun v => v.port == 0)).length < 64) ∧
    (timedStore 0 0 []).clkState 0 = 0 ∧
    (let s := timedStore 1000 1 []; let e := s.entry 0 0; ({ s with tokens := [{ src := 0, key := s.entryKey 0 e, part := 0, sent := 0 }] } : State).timedBehind 0 { e with sent := 1 } = true) ∧
    (let s := timedStore 2000 1 []; let e := s.entry 0 0; e.time.toNat + epsOf e.node < (s.atimeOf 0).toNat) ∧
    64 ≤ ((timedStore 0 1 (List.replicate 64 (vis0 5))).vis.filter (fun v => v.port == 0)).length ∧
    (let s := journalled leafX { entry63 with timed := true } []; match s.timedSite 0 (s.entry 0 63) with | .ok _ => false | .error _ => true) = true ∧
    (let s := journalled leafRwx { entry63 with timed := true } []; match s.timedSite 0 (s.entry 0 63) with | .ok (some t) => s.homeUp 0 t | _ => false) = true ∧
    (let s := journalled leafRwx { entry63 with accepting := true, timed := true } []; (s.entry 0 63).accepting = true) ∧
    (let s := timedStore 1000 1 [vis0 1000, vis0 2000]; s.vis[0]? = some (vis0 1000) ∧ (vis0 1000).time.toNat ≤ (s.atimeOf (0 / 512)).toNat ∧ (vis0 1000).site = none ∧
      s.localSpot 0 0 0x100 = some (0, 0x100) ∧ (vis0 1000).time.toNat < (vis0 2000).time.toNat ∧ (s.atimeOf (0 / 512)).toNat < (vis0 2000).time.toNat ∧
      s.visKey (vis0 1000) = s.visKey (vis0 2000)) := by
  decide +kernel
theorem witness_TimedStoresEnterTheVisibilityQueue_plain : (∀ b, (timedStore 1000 1 []).isState 0 b = false) ∧ noWaiter (timedStore 1000 1 []) 0 0x100 8 :=
  ⟨fun _ => rfl, by intro w h; cases h⟩
/-- Core 0 asks stack node 0's object for an acquire; the object's word. -/
def acquiring (form : AcqForm) (w : Word) : State :=
  { paged leafRwx { userUnit with wait := .acquire form globalA 5 } with mem := writeNat [] (stackKey 0 0) w.toNat 8 }
/-- Core 5 waits at a cluster's object. -/
def parkedAt (w : Word) : State :=
  { user.setUnit 5 { wait := .parked 0x7FFF8 } with
    mem := scratchMem [(0x7FFF8, w)], clusters := [(0, { waiters := [{ src := 5, form := .s, loc := scratchKey 0 0x7FFF8, addr := 0x7FFF8, part := 0, thr := 0 }] })] }
theorem witness_AcquiresAreGrantedInOrder :
    (let s := acquiring .w (objWord false 0 5); (s.getUnit 0).wait = .acquire .w globalA 5 ∧ youngest (s.getUnit 0) globalA.toNat 8 = none ∧ translates s globalA 8 .rw ∧
      translates (s.fill 0 0 0) globalA 8 .rw ∧
      served s globalA 8 .rw (.atomic 0) false ∧ (s.getStack 0).waiters = [] ∧ (s.getStack 0).aeReqs = [] ∧ (s.getLaunch 0 1).isNone ∧ s.read (stackKey 0 0) 8 = objWord false 0 5 ∧
      xheld (objWord false 0 5) = false ∧ nshare (objWord false 0 5) < 32767 ∧ 5 ≤ objVal (objWord false 0 5)) ∧
    ((acquiring .x (objWord true 0 5)).read (stackKey 0 0) 8 = objWord true 0 5 ∧ xheld (objWord true 0 5) = true) ∧
    (let s := parkedAt (objWord false 3 0); (s.getCluster 0).waiters.length = 1 ∧ (s.getLaunch 0 (s.getUnit 5).firing.lid).isNone ∧
      s.read (scratchKey 0 0x7FFF8) 8 = objWord false 3 0 ∧ xheld (objWord false 3 0) = false ∧ nshare (objWord false 3 0) < 32767 ∧ (s.getUnit 5).wait = .parked 0x7FFF8) ∧
    xheld ((parkedAt (objWord true 0 0)).read (scratchKey 0 0x7FFF8) 8) = true ∧
    (parkedAt 0).breaks 5 = false ∧ (let s := (parkedAt 0).setUnit 5 { wait := .parked 0x7FFF8, asyncs := [{ code := 9, tval := 0 }] }; s.breaks 5 = true ∧
      (s.getUnit 5).wait = .parked 0x7FFF8) ∧ (core0 { userUnit with wait := .bmode 7 127, asyncs := [{ code := 9, tval := 0 }] }).breaks 0 = true := by decide +kernel
/-- One returning atomic of core 0 at an engine: of its cluster on its own scratchpad, or of stack 0 on node 0. -/
def atEngine (leaf a : Word) : State :=
  let r : AReq := { src := 0, part := 0, lid := 1, addr := a, wide := true, op := .add, b := 1, returning := true }
  { paged leaf userUnit with clusters := [(0, { aeReqs := [r] })], stks := [(0, { aeReqs := [r] })], mem := scratchMem [(0x7FFF8, 7)] }
theorem witness_AtomicEnginesApplyARequest : (user.getCluster 127).aeReqs = [] ∧ (user.getStack 7).aeReqs = [] ∧
    (let s := atEngine leafRwx 0x7FFF8; (s.getCluster 0).aeReqs.length = 1 ∧ (s.getLaunch 0 1).isNone ∧ isCore 0 = true ∧ (0x7FFF8#64).toNat < 0x80000 ∧
      s.isState 0 0x7FFF8 = false ∧ s.suspended 0 = false ∧ (s.getCluster 0).waiters = []) ∧
    (let s := atEngine leafRwx globalA; (s.getStack 0).aeReqs.length = 1 ∧ 2 ^ 56 ≤ globalA.toNat ∧ globalA.toNat < 2 ^ 57 ∧ translates s globalA 8 .rw ∧
      served s globalA 8 .rw (.atomic 0) false ∧ (s.getStack 0).regs = [] ∧ (s.getStack 0).waiters = []) ∧
    (let s := atEngine leafRwx globalA; (({ s with stks := [(1, { aeReqs := (s.getStack 0).aeReqs })] } : State).getStack 1).aeReqs.length = 1) ∧ forbidden (atEngine leafX globalA) globalA 8 .rw := by decide +kernel

-- events: engines, law units, tables, banks

/-- Engine operation o at the head of channel 7 of cluster 0. -/
def engineState (o : EOp) (m : List (Nat × Word)) : State := { user with mem := scratchMem m, clusters := [(0, { chans := [(7, [o])], sems := [(63, 0xFFFFFFFF)] })] }
def op0 (k : EKind) : EOp := { src := some 0, unit := 7, part := 0, lid := 1, fid := 3, seq := 1, kind := k }
/-- 5 elements from core 0's scratchpad address 0x100 to core 1's address 0x7FFE0, all banks of a side under one format register. -/
def copy0 (f g : Word) : CopyOp := { src := 0x800100, dst := 0x8FFFE0, count := 5, sbanks := List.replicate 128 f, dbanks := List.replicate 128 g }
/-- Row 0 of a CSR matrix in core 0's scratchpad, into core 1's. -/
def walk0 (maxe : Nat) (rows : Option (Nat × Nat)) : WalkOp :=
  { rowptr := 0x800000, colidx := 0x800100, vals := 0x800200, didx := 0x880000, dval := 0x880100, dptr := 0x880200, row0 := 0, nrows := 1, maxe := maxe, rows := rows }
/-- A copy in FP32 of the whole or in two parts; from BF16 to RAW; a walk whose rows are 1 to 3. -/
theorem witness_TransfersMoveTheirBytes :
    (let o := op0 (.copy (copy0 1 1)); let s := engineState o [(0x100, 0x1122334455667788)]
     chanOf (s.getCluster 0) 7 = [o] ∧ o.fail = none ∧ s.suspended 0 = false ∧ s.windowCore 0 0 0x800100 = some (0, 0x100) ∧
     s.windowCore 0 0 0x8FFFE0 = some (1, 0x7FFE0) ∧ toDo o 0 5 = true ∧ toDo o 4 1 = true ∧ toDo o 4 2 = false ∧
     toDo { o with done := [(0, 4)] } 4 1 = true ∧ toDo { o with done := [(0, 4)] } 3 1 = false ∧
     s.chosen o = (0, 1) ∧ ({ s with choice := [0, 5] } : State).chosen o = (0, 5) ∧
     copyRuns (copy0 1 1) = [{ first := 0, n := 5, sb := 0x800, db := 0x3FFF00, f := 1, g := 1, sat := false }]) ∧
    (copyRuns (copy0 2 1) = [{ first := 0, n := 5, sb := 0x800, db := 0x3FFF00, f := 2, g := 1, sat := false }] ∧ elemBits 2 1 % 8 = 0 ∧ elemBits 1 2 % 8 = 0) ∧
    (let o := op0 (.csrwalk (walk0 2 none)); let s := engineState o [(0, 0x0000000300000001)]
     s.windowCore 0 0 0x800000 = some (0, 0) ∧ readNat s.mem (scratchKey 0 0) 4 = 1 ∧ readNat s.mem (scratchKey 0 4) 4 = 3 ∧ (3 - 1 ≤ 2) ∧ (1 < 3 - 1)) ∧
    (let o := op0 (.csrwalk (walk0 2 (some (1, 3)))); let s := engineState o [(0, 0x0000000300000001), (0x100, 9), (0x200, 7)]
     toDo o 0 2 = true ∧ toDo o 2 2 = true ∧ toDo o 4 2 = true ∧ ({ s with choice := [4, 2] } : State).chosen o = (4, 2) ∧ s.windowCore 0 0 0x800100 = some (0, 0x100) ∧ s.windowCore 0 0 0x880000 = some (1, 0) ∧
     s.windowCore 0 0 0x880100 = some (1, 0x100) ∧ s.windowCore 0 0 0x880200 = some (1, 0x200) ∧ (walk0 2 (some (1, 3))).cwin = false ∧
     copyRunsGo (walkValues (walk0 2 (some (1, 3)))).1 258 0 2 (8 * 0x200 + (walkValues (walk0 2 (some (1, 3)))).2) (8 * 0x100)
       = [{ first := 0, n := 2, sb := 8 * 0x204, db := 8 * 0x100, f := 0, g := 0, sat := false }]) := by decide +kernel
theorem witness_TransfersMoveTheirBytes_runs :
    runFits (engineState (op0 (.copy (copy0 1 1))) []) { first := 0, n := 5, sb := 0x800, db := 0x3FFF00, f := 1, g := 1, sat := false } 0 1 0 5 ∧
    runFits (engineState (op0 (.copy (copy0 2 1))) []) { first := 0, n := 5, sb := 0x800, db := 0x3FFF00, f := 2, g := 1, sat := false } 0 1 4 1 ∧
    runFits (engineState (op0 (.csrwalk (walk0 2 (some (1, 3))))) []) { first := 0, n := 2, sb := 8 * 0x104, db := 0, f := 6, g := 6, sat := false } 0 1 0 2 :=
  ⟨⟨by decide, by decide, fun _ => rfl, fun _ => rfl, by decide, by decide, by decide, by decide, by decide, (by intro w h; cases h), by decide +kernel, by decide⟩,
   ⟨by decide, by decide, fun _ => rfl, fun _ => rfl, by decide, by decide, by decide, by decide, by decide, (by intro w h; cases h), by decide +kernel, by decide⟩,
   ⟨by decide, by decide, fun _ => rfl, fun _ => rfl, by decide, by decide, by decide, by decide, by decide, (by intro w h; cases h), by decide +kernel, by decide⟩⟩
theorem witness_EngineOperationsSignalAndEnd :
    (let o := { op0 (.copy (copy0 1 1)) with done := [(0, 5)], cmpl := 3, cidx := 15 }
     let s := engineState o []
     chanOf (s.getCluster 0) 7 = [o] ∧ o.fail = none ∧ s.coreOf 0 0 0 = some 0 ∧ chunksOf o.kind = 1 ∧ chunkDone o 0 = true ∧ chunkDone { o with done := [(0, 4)] } 0 = false ∧
     (look word0 (s.getUnit 0).eng.bars 15).toNat % 2 ^ 40 < min 512 (dstSpan (copy0 1 1))) ∧ min 512 (dstSpan (copy0 1 1)) ≤ (20 : Nat) % 2 ^ 40 ∧
    (let o := { op0 (.csrwalk (walk0 2 (some (1, 1)))) with done := [(0, 2)], cmpl := 1, cidx := 63 }
     started o = true ∧ allDone o = true ∧ o.seq = ((engineState o []).getUnit 0).eng.finished + 1 ∧ ((engineState o []).getUnit 0).eng.early = []) ∧
    allDone (op0 (.copy (copy0 1 1))) = false ∧
    (let o := { op0 (.copy (copy0 1 1)) with done := [(0, 5)], fail := some { cause := 4, sub := 2, addr := 5, progress := 4 }, cmpl := 1, cidx := 63 }
     allDone o = true ∧ nextElem o = none ∧ (4 < 256) ∧ (4 ≠ 3)) := by decide +kernel
/-- Cluster 0 with template 63: a copy of n elements. -/
def templated (n : Word) : State :=
  { opened userUnit with clusters := [(0, { templ := [(504, 1), (505, 0x800100), (506, 0x880000), (507, n)] })],
                         parts := [(0, { regions := [(0, 0x8000000301004000), (1, 0x1004040), (2, 0x8000000300800000), (3, 0x1000000)] })] }
theorem witness_AperturesStartTemplates : user.logCluster 0 0 = some 0 ∧ (templated 4).grantedRange 0 0 (0x1004000 + 8 * 7) 8 false true = true ∧
    ((templated 4).formTempl 0 0 none 1 63 0 0 0).isSome ∧ (templated 0).formTempl 0 0 none 0 63 0 0 0 = none ∧ (chanOf ((templated 4).getCluster 0) 7).length < 16 ∧
    ((templated 4).getCluster 0).locks.length ≤ 62 ∧ (64#64).toNat % 128 ≤ 64 := by decide +kernel
theorem witness_ErrorsOfStorageAreContained :
    (user.getUnit 0).run = .running ∧ isCore 0 = true ∧ (sc.getUnit 2048).run = .running ∧
    (let o := op0 (.copy (copy0 1 1)); let s := engineState o []
     chanOf (s.getCluster 0) 7 = [o] ∧ o.fail = none ∧ s.suspended 0 = false ∧ s.windowCore 0 0 (copy0 1 1).dst = some (1, 0x7FFE0)) ∧
    (let s := paged leafX userUnit; 0 < (s.getDie 4).tc.length ∧ s.home 0 0 0 = some (.stack 0) ∧ (s.getDie 4).tc = [page0 leafX]) := by decide +kernel
/-- Stack 0 with an operation at the head of a queue, node 0's page cached. -/
def stackState (leaf : Word) (sw red : List EOp) (regs : List SwReg) : State := { paged leaf userUnit with stks := [(0, { swq := sw, redq := red, regs := regs })] }
def red0 : EOp := op0 (.reduce 2 1 [globalA + 64, globalA + 128] globalA 0 0)
def swreg0 (enter : Bool) : EOp := { op0 (.swreg globalA 4 true) with entered := enter }
theorem witness_StackEnginesRun :
    (let s := stackState leafRwx [swreg0 false] [] []; s.suspended 0 = false ∧ (s.getStack 0).swq = [swreg0 false] ∧ (swreg0 false).fail = none ∧
      regFits [] 0 globalA 4 = true) ∧ regFits [{ part := 0, base := globalA + 16, nwords := 1 }] 0 globalA 4 = false ∧
    (let s := stackState 0x6000000000000C00 [swreg0 true] [] [{ part := 0, base := globalA, nwords := 4 }]; nextElem (swreg0 true) = some 0 ∧
      s.rangesServe (.swreg 0) 0 [(globalA, 16)] = true ∧ isOk (s.translate 0 0 0 16 .rw) = true) ∧
    (let s := stackState leafX [{ swreg0 true with done := [(0, 3)] }] [] []; nextElem { swreg0 true with done := [(0, 3)] } = some 3 ∧
      s.rangesServe (.swreg 0) 0 [(globalA + 48, 16)] = true ∧ isOk (s.translate 0 0 48 16 .rw) = false) ∧
    ({ part := 0, base := globalA, nwords := 4 } : SwReg) ∉ (user.getStack 0).regs ∧ allDone (op0 (.swreg globalA 4 false)) = false ∧
    ({ part := 0, base := globalA, nwords := 4 } : SwReg) ∈ ((stackState leafRwx [] [] [{ part := 0, base := globalA, nwords := 4 }]).getStack 0).regs ∧
    (let s := stackState leafRwx [] [red0] []; (s.getStack 0).redq = [red0] ∧ toDo red0 1 1 = true ∧ toDo red0 2 1 = false ∧
      ({ s with choice := [1] } : State).chosen red0 = (1, 1) ∧ s.decided 0 1 = 1 ∧
      s.rangesServe (.red 0) 0 [(globalA + 4, 4), (globalA + 68, 4), (globalA + 132, 4)] = true ∧ s.fill 0 0 4 = s ∧ s.fill 0 0 68 = s ∧ s.fill 0 0 132 = s ∧
      translates s (globalA + 4) 4 .w ∧ translates s (globalA + 68) 4 .r ∧ translates s (globalA + 132) 4 .r ∧ (s.getStack 0).regs = [] ∧ (s.getStack 0).waiters = []) := by
  decide +kernel
/-- Law state with a Rooster entry of the word at scratchpad address 0. -/
def rooster0 (gen : BitVec 2) (due : Nat) : Rooster := { part := 0, addr := (word1 user).addr, idx := 1, gen := gen, due := due }
def roosted (r : Rooster) (posts : List Post) : State :=
  let s := lawState 1 1 0 0 5 0x0101000000000000 3 0x8000000000000000 0
  { s with laws := [(0, { thr := [(4, 3), (7, 0x8000000000000000)], rooster := [r], posts := posts })] }
def post0 : Post := { dest := 1, msg := msg0 }
theorem witness_LawUnitsPostAndSweep :
    (let s := roosted (rooster0 0 0) []; s.roosterIsDue 0 (rooster0 0 0) = true ∧ (s.getLaw 0).posts.length < 16 ∧
      (let w : WordAt := { l := 0, part := 0, addr := (word1 user).addr, key := scratchKey 0 (offOf (word1 user).addr % 0x80000) }
       let v := s.wordOf w
       v.armed = true ∧ v.fired = false ∧ v.gen = 0 ∧ (s.lawEntry 0 v.law).valid = true ∧ v.top = false ∧ (s.thrEntry 0 0 v.alarm).valid = true ∧ v.rearm = false)) ∧
    (roosted (rooster0 1 0) []).roosterIsDue 0 (rooster0 1 0) = true ∧ (roosted (rooster0 0 9) []).roosterIsDue 0 (rooster0 0 9) = false ∧
    16 ≤ ((roosted (rooster0 0 0) (List.replicate 16 post0)).getLaw 0).posts.length ∧
    (let s := lawState 1 1 0 0 5 0 3 0x8000000000000000 0; (s.sweepWord 0).isSome ∧ (s.wordOf (word1 s)).armed = false ∧ s.swapped (word1 s) = false) ∧
    (roosted (rooster0 0 0) [post0]).destUnit 0 (.core 1) = some 1 ∧ (user.getPart 0).suspended = false ∧ (suspended.getPart 0).suspended = true := by decide +kernel
theorem witness_TableStoresCommitOrTrap : isCore user.focus = true ∧ user.cur.priv = .u ∧ super.cur.priv ≠ .u ∧ lawCheck 0x8000000000000000 0 0 0 = 0 ∧
    lawCheck 0x8000000000000000 1 0 0 ≠ 0 ∧ (0x8000000000000006#64 &&& 0x7F00F000FFFFFFF9#64 = 0) ∧ super.physStack 0 7 = some 7 ∧
    (1#64 &&& 0x7F00F000FFFFFFF9#64 ≠ 0) ∧ (4#64 : Word).getLsbD 2 = true ∧ (4#64 : Word).getLsbD 1 = false ∧ (4#64 &&& 0x7F00F000FFFFFFF9#64 = 0) ∧
    handlerOk [0x0000000000011021, 0, 0, 0] = true ∧ handlerOk [0, 0, 0, 0] = false := by decide +kernel
/-- A BMV over one row in BF16 at the head of pseudo-channel 0. -/
def bmvCmd : BankCmd :=
  { src := 0, part := 0, lid := 1, fid := 3, kind := .bmv globalA 0 0 false false 0 3 1 0 (some 63), ord := 5
    frames := [{ home := .stack 0, node := 0, off := 0, leaf := 0x5800000000000C00, z := 16 }] }
def entering (cap : Nat) (h : Pch) : State :=
  { bankState 0 cap [(0, h)] with stks := [(0, { cap := cap, pch := [(0, h)], entering := [(0, 0, 0)] })] }
theorem witness_BanksGrantAndRunBmv :
    (let s := entering 1 {}; (s.getStack 0).entering = [(0, 0, 0)] ∧ (s.getPch 0 0).allbank = false ∧ s.belowCap 0 = true ∧ (s.getPch 0 0).burst = none) ∧
    ((entering 1 { allbank := true, holder := some (1, 1) }).getPch 0 0).allbank = true ∧ (entering 0 {}).belowCap 0 = false ∧
    ((entering 1 { burst := some (0, 0) }).getPch 0 0).burst ≠ none ∧
    (let s := bankState 0 1 (heldPch [bmvCmd]); (s.getPch 0 0).cmds = [bmvCmd] ∧ (s.getPch 0 0).burst = none ∧ s.windowOpen 0 0 = false ∧
      (s.getPch 0 0).allbank = true ∧ bmvCmd.frames.length = 1 ∧ s.coreOf 0 0 (s.coreIndex 0 0) = some 0) ∧
    (let s : State := { bankState 0 1 [] with stks := [(0, { tickets := [{ num := 0, turn := 0, pch := 0, src := 1, req := .load 1, sent := 0 }], pch := [(0, { window := true })] })] }
     s.windowOpen 0 0 = true) ∧
    (bankState 0 1 [(0, { burst := some (7, 5), cmds := [bmvCmd] })]).getPch 0 0 = { burst := some (7, 5), cmds := [bmvCmd] } := by decide +kernel
/-- A BEXPR over two elements at the head of pseudo-channel 0, held. -/
def bexprCmd : BankCmd :=
  { src := 0, part := 0, lid := 1, fid := 3, kind := .bexpr globalA 2 [0x11021, 0, 0, 0] none none 0 0, ord := 5
    frames := [{ home := .stack 0, node := 0, off := 0, leaf := 0x5800000000000C00, z := 16 }] }
def loadTicket (b : Bool) : Ticket := { num := 0, turn := 0, pch := 0, src := 1, req := .load 0, sent := 0, back := b }
def ticketed (l : List Ticket) (h : Pch) : State :=
  { bankState 0 1 [] with cur := { userUnit with wait := .load globalA 8 none }, stks := [(0, { tickets := l, pch := [(0, h)] })] }
theorem witness_BurstsTicketsAndBexpr :
    (let s := bankState 0 1 (heldPch [bexprCmd]); s.pieceFor 0 0 = some (0, 0, bexprCmd) ∧
      (pieceOf bexprCmd).map (·.2) = some 2 ∧ s.windowOpen 0 0 = false ∧ (s.getPch 0 0).allbank = true) ∧
    (let s := bankState 0 1 [(0, { allbank := true, holder := some (0, 0), cmds := [bexprCmd], burst := some (0, 5) })]; s.pieceFor 0 0 = some (0, 0, bexprCmd) ∧
      (s.getPch 0 0).burst ≠ none ∧ (s.getPch 0 0).cmds = [bexprCmd] ∧ (s.getStack 0).regs = [] ∧ bexprSize (hFmt (handlerNat [0x11021, 0, 0, 0])) = 4 ∧
      hMode (handlerNat [0x11021, 0, 0, 0]) = 0 ∧ (s.getStack 0).waiters = []) ∧
    (let s := bankState 0 1 [(0, { cmds := [bexprCmd] })]; s.belowCap 0 = true ∧ s.earlierPiece 0 bexprCmd = false) ∧ (bankState 0 0 []).belowCap 0 = false ∧ fcmp .lt 0 0x3F800000 = true ∧ fcmp .lt 0 0 = false ∧ fcmp .le 0 0 = true ∧ fcmp .eq 0 0x80000000 = true := by decide +kernel
theorem witness_BurstsTicketsAndBexpr_tickets :
    (let s := ticketed [] { burst := some (0, 5) }; s.request (.load 0) = some ([(0, 0)], 0, false) ∧
      s.retries 0 0 0 (.load 0) false = true ∧ s.ticketOf 0 (.load 0) = none ∧ s.overtakes 0 (.load 0) = false ∧ (0 : Nat) < 8) ∧
    (ticketed [] {}).retries 0 0 0 (.load 0) false = false ∧
    (let s : State := { ticketed [loadTicket false] {} with now := 256 }; (s.getStack 0).tickets[0]? = some (loadTicket false) ∧ s.request (.load 0) = some ([(0, 0)], 0, false) ∧ 0 + 256 ≤ s.now) ∧
    ({ ticketed [loadTicket false] {} with now := 255 } : State).now < 0 + 256 ∧ (user.request (.load 0)).isNone = true ∧
    (let s : State := { ticketed [loadTicket true] { window := true } with now := 4096 }; (s.getPch 0 0).window = true ∧ (s.getPch 0 0).lastBurst + 4096 ≤ s.now) ∧
    (let s := bankState 0 1 [(0, { burst := some (7, 5), cmds := [bmvCmd] })]; s.headCmds.find? (fun x => runsBurst (s.getPch 0 0) x.2.2) = some (0, 0, bmvCmd) ∧
      (s.getPch 0 0).cmds = [bmvCmd]) := by decide +kernel

-- events: dispatch

/-- Bytes of a record of one source stage for cluster 0 with n groups, one field of width 8, BATCH 4. -/
def recBytes (n : Nat) : List Byte :=
  [0x0200000000010100, n, 8, 0, 0, 0, 0x80000, 0x100004, 1, 0, 0, 0, 0, 0, 0, 0, 0x1000, 1].flatMap (bytesOfNat 8) ++ List.replicate 368 0
/-- Core 0 has handed a record to the dispatcher. -/
def handed (n : Nat) : State := core0 { userUnit with wait := .record globalA (recBytes n) }
/-- Host 0's launch queue of partition 0 has one entry, which names the record at stack node 0's first byte. -/
def hosted (entry : Word) (n tail : Nat) : State :=
  { paged leafRwx {} with mem := writeNat (writeNat [] (stackKey 0 0) (natOfBytes (recBytes n)) 512) (hostKey 0 0) entry.toNat 8
                          parts := [(0, { hostq0 := { qtail := BitVec.ofNat 64 tail } })] }
def errIs {α : Type} (r : Except Nat α) (e : Nat) : Bool := match r with | .error x => x == e | .ok _ => false
def firstIs (s : State) : Bool := match s.readRecord 0 globalA with
  | (some bs, r) => bs == recBytes 256 && isOk (r.checkRecord 0 bs)
  | _ => false
def firstErr (s : State) (e : Nat) : Bool := match s.readRecord 0 globalA with
  | (some bs, r) => errIs (r.checkRecord 0 bs) e
  | _ => false
theorem witness_TheDispatcherAnswersRecords :
    ((handed 256).getUnit 0).wait = .record globalA (recBytes 256) ∧ isOk ((handed 256).checkRecord 0 (recBytes 256)) = true ∧
    errIs ((handed 257).checkRecord 0 (recBytes 257)) 4 = true ∧ errIs ((handed 0).checkRecord 0 (recBytes 0)) 4 = true ∧
    (let s : State := { handed 256 with parts := [(0, { launches := (List.range 64).map (fun i => { launch1 with lid := i + 1 }) })] }
     64 ≤ (s.getPart 0).launches.length) ∧
    (hostq ((hosted globalA 256 0).getPart 0) 0).qtail = 0 ∧
    (let s := hosted globalA 256 1; (hostq (s.getPart 0) 0).qtail ≠ (hostq (s.getPart 0) 0).qhead ∧ (hostq (s.getPart 0) 1).qtail = (hostq (s.getPart 0) 1).qhead ∧
      s.suspended 0 = false ∧ look link0 s.dev.links 0 = none ∧ s.hostRecordHeld 0 globalA = false ∧ s.read (hostKey 0 0) 8 = globalA ∧ firstIs s = true) ∧
    firstErr (hosted globalA 257 1) 4 = true ∧ ((hosted 0x0100000000000020 256 1).read (hostKey 0 0) 8).toNat % 64 ≠ 0 := by decide +kernel
/-- Launch 1 with the given range, page leaf and state, on core 0. -/
def ranged (leaf : Word) (w : Bool) (l : Launch) (absent : List (Nat × Nat × Nat)) : State :=
  { paged leaf {} with dies := [(4, { tc := [page0 leaf], absent := absent })]
                       parts := [(0, { launches := [{ l with record := { rec1 with ranges := [{ addr := globalA, w := w, len := 8 }] } }] })] }
def failCause (s : State) : Nat := match (s.getLaunch 0 1).bind (fun l => s.residencyFail 0 l.record) with | some (e, 0, 0) => e.cause | _ => 0
def failNone (s : State) : Bool := ((s.getLaunch 0 1).map (fun l => (s.residencyFail 0 l.record).isNone)) == some true
theorem witness_ResidencyIsChecked :
    (let s := ranged leafRwx true { launch1 with st := .residency } []; (s.getLaunch 0 1).isSome ∧ s.suspended 0 = false ∧ failNone s = true) ∧
    (failCause (ranged leafX true { launch1 with st := .residency } []) ≠ 3 ∧ failCause (ranged leafX true { launch1 with st := .residency } []) ≠ 0) ∧
    launch1.started = false ∧ launch1.st = .running ∧ globalA ∈ { launch1 with started := true, asked := [globalA] }.asked ∧ globalA ∉ launch1.asked ∧
    (let s : State := { ranged leafRwx false launch1 [] with dies := [] }; failCause s = 3 ∧ (0, 0, 0) ∉ (s.getDie (s.nodeDie 0 0 0)).absent) ∧
    (let s : State := { ranged leafRwx false launch1 [] with dies := [(4, { absent := [(0, 0, 0)] })] }; failCause s = 3 ∧ (0, 0, 0) ∈ (s.getDie (s.nodeDie 0 0 0)).absent) := by
  decide +kernel
/-- Launches 1 (PRIO 0) and 2 (PRIO 1) of one stage on clusters 0 and 127, with indices left. -/
def recB (prio batch groups : Nat) : Record :=
  { rec1 with prio := prio, batch := batch, groups := groups, widths := [4, 2], flock := [0, 127], weight := 1, stages := [{ entry := 0x1000, src := true }], queues := [] }
def launchB (lid prio batch next : Nat) : Launch := { lid := lid, record := recB prio batch 64, groups := 64, next := next, st := .running }
def batching (ls : List Launch) : State := { user with parts := [(0, { launches := ls })] }
theorem witness_BatchesAreGrantedInTurn :
    (let s := batching [launchB 1 0 256 62, launchB 2 1 3 5]; s.physCluster 0 0 = some 0 ∧ s.suspended 0 = false ∧
      pickLaunch (s.getCluster 0) (s.getPart 0).turnOf 0 s.now (s.batchCands 0 0) = some (launchB 1 0 256 62, 0) ∧ s.goesTo 0 (launchB 1 0 256 62) 0 = true ∧ s.getLaunch 0 1 = some (launchB 1 0 256 62) ∧
      (launchB 1 0 256 62).detctl.getLsbD 1 = false ∧ (launchB 1 0 256 62).detctl.getLsbD 2 = false ∧
      (∀ m ∈ s.batchCands 0 0, aged (s.getCluster 0) 0 s.now m = false) ∧ s.goesTo 0 (launchB 1 0 256 62) 127 = false) ∧
    (let s := batching [launchB 1 0 256 64]; s.physCluster 0 127 = some 127 ∧ s.batchCands 0 127 = []) := by decide +kernel
/-- Ready stages: k, whether it is a source, since when. -/
def cand (lid prio k : Nat) (src : Bool) (since : Nat) : Cand := { l := launchB lid prio 1 0, k := k, src := src, since := since }
theorem witness_TheSchedulerFollowsItsOrders :
    pickFor {} 0 {} 0 [] = none ∧ pickFor {} 0 { inbox := [msg0], turn := 3 } 9 [cand 1 0 0 true 0] = some (.inbox 2) ∧
    pickFor {} 0 { inbox := [msg0], turn := 4 } 9 [cand 1 0 0 true 0, cand 1 0 7 false 0, cand 1 0 2 false 0] = some (.stage 3 (launchB 1 0 1 0) 7) ∧
    pickFor {} 0 {} 9 [cand 1 1 0 true 0, cand 2 0 1 true 0] = some (.stage 4 (launchB 2 0 1 0) 1) ∧
    pickFor { lastSource := [(0, 2)] } 0 {} 9 [cand 2 0 0 true 0, cand 7 0 0 true 0, cand 1 0 0 true 0] = some (.stage 4 (launchB 7 0 1 0) 0) ∧
    pickFor {} 0 { inbox := [msg0] } 65540 [cand 1 0 7 false 5, cand 2 0 0 true 4] = some (.stage 1 (launchB 2 0 1 0) 0) ∧
    pickFor {} 0 { inbox := [msg0] } 65539 [cand 1 0 7 false 5, cand 2 0 0 true 4] = some (.inbox 2) := by decide +kernel
/-- Core 0 (or stack core 2048) is free on a settled die; one launch; its cluster's backlog and its inbox as given. -/
def freeCore (l : Launch) (backlog : List Pending) (inbox : List Msg) : State :=
  { core0 { inbox := inbox } with parts := [(0, { launches := [l] })], clusters := [(0, { backlog := backlog })], dies := [(0, { locked := true }), (4, { locked := true })] }
def msgB (kind lid : Nat) : Msg := { msg0 with kind := kind, lid := lid }
def freeSc (inbox : List Msg) (locked : Bool) : State :=
  { State.reset with focus := 2048, cur := { inbox := inbox, part := 16 }, parts := [(0, { launches := [launchB 1 0 1 0] })], dies := [(4, { locked := locked })] }
theorem witness_FiringsStart :
    (let s := freeCore (launchB 1 0 1 5) [{ part := 0, lid := 1, wid := 4 }] []; s.coreFree 0 = true ∧ (s.getUnit 0).powered = true ∧ s.mapsCore 0 0 = some 0 ∧
      (s.refreshReady 0 0).pick 0 0 0 = some (.stage 4 (launchB 1 0 1 5) 0) ∧ (launchB 1 0 1 5).record.stages[0]?.isSome ∧
      (s.refreshReady 0 0).getLaunch 0 1 = some (launchB 1 0 1 5) ∧ waitingWids ((s.refreshReady 0 0).getCluster 0) 0 1 0 = [{ part := 0, lid := 1, wid := 4 }]) ∧
    (let s := freeCore (launchB 1 0 1 5) [] [msgB 2 1]; (s.refreshReady 0 0).pick 0 0 0 = some (.inbox 2) ∧ (s.refreshReady 0 0).headMsg 0 0 = some (msgB 2 1) ∧ (s.refreshReady 0 0).activeLaunch (msgB 2 1) = some (launchB 1 0 1 5) ∧
      0 ∈ (launchB 1 0 1 5).record.flock ∧ ((s.refreshReady 0 0).residencyFail 0 (launchB 1 0 1 5).record).isNone = true) ∧
    (let s := freeCore (launchB 1 0 1 5) [] [msgB 1 9]; (s.refreshReady 0 0).pick 0 0 0 = some (.inbox 2) ∧ (s.refreshReady 0 0).headMsg 0 0 = some (msgB 1 9) ∧ ((s.refreshReady 0 0).activeLaunch (msgB 1 9)).isNone = true) ∧
    user.coreFree 0 = false ∧ isSc 2048 = true ∧ isSc 2047 = false ∧
    (let s := freeSc [msgB 1 1] true; (s.getUnit 2048).run = .idle ∧ s.dieLocked 2048 = true ∧ s.heldBy 2048 = false ∧ s.activeLaunch (msgB 1 1) = some (launchB 1 0 1 0) ∧
      s.suspended 0 = false ∧ (s.residencyFail 0 (launchB 1 0 1 0).record).isNone = true) ∧ (freeSc [] false).dieLocked 2048 = false := by decide +kernel
/-- A launch of one stage with no queue, all 64 indices issued; another of two phases. -/
def ending (st : LaunchSt) (cmpl : Word) (qs : SMap QState) : State :=
  { paged leafRwx {} with parts := [(0, { launches := [{ launchB 1 0 1 64 with st := st, qs := qs, record := { recB 0 1 64 with cmpl := cmpl } }] })] }
def phases (next phase : Nat) : Launch := { launchB 1 0 1 next with phase := phase, record := { recB 0 1 64 with phased := true } }
theorem witness_LaunchesAdvanceAndComplete :
    (let s := core0 { userUnit with firing := { lid := 1, wdog := 10, since := 5, begun := true } }
     ({ s with now := 15 } : State).cur.firing.since + 10 ≤ 15 ∧ s.suspended 0 = false ∧ s.cur.firing.begun = true ∧ s.cur.run = .running ∧ s.cur.firing.wdog ≠ 0) ∧
    (5 + 10 ≤ 14 → False) ∧
    (let l := phases 4 0; let s : State := { State.reset with parts := [(0, { launches := [l] })] }
     s.getLaunch 0 1 = some l ∧ phaseOfIndex l.record (l.next - 1) = l.phase ∧ l.phase < phaseOfIndex l.record l.next ∧ s.launchDrained 0 l = true ∧ s.launchQuiet 0 1 = true ∧ s.phaseArmed 0 l = false) ∧
    (let l := phases 64 15; phaseOfIndex l.record (l.next - 1) = l.phase ∧ l.groups ≤ l.next) ∧
    (launched userUnit).launchQuiet 0 1 = false ∧ (launchB 1 0 1 64).record.phased = false ∧
    (∀ x ∈ [ending .running 0 [], ending .killed 0 [], ending (.ended 4) globalA [], ending .running 0 [(0, { granted := 2, pub := [0] })]],
      (x.getLaunch 0 1).isSome ∧ x.launchQuiet 0 1 = true ∧ ∀ l ∈ (x.getPart 0).launches, x.launchDrained 0 l = true) ∧
    ([((0 : Nat), ({ granted := 2, pub := [0] } : QState))].any (fun q => decide (0 < filledOf q.2)) = true) ∧
    (let s := ending (.completing 4) globalA []; translates s globalA 8 .rw = true ∧ (s.getStack 0).aeReqs = [] ∧ (s.getStack 0).waiters = [] ∧
      s.cmplQueued 0 1 = false ∧ (match s.translate 0 0 0 8 .rw with | .ok w => s.servesSite 0 w (cmplSrc 0 1) (.atomic (cmplSrc 0 1)) false | .error _ => false) = true) := by decide +kernel
/-- A launch with the given DETCTL and LOG_HEAD, LOG_TAIL of its partition; the log ring is stack node 0's first page; a message of it to core 1. -/
def logging (det head tail : Word) (unforced : List Nat) (m : List Host.Cell) : State :=
  { paged leafRwx {} with mem := m, parts := [(0, { logHead := head, logTail := tail, launches := [{ launchB 1 0 1 0 with detctl := det, unforced := unforced }] })]
                          flights := [{ src := 0, dst := 1, dest := .core 1, msg := msg0 }] }
theorem witness_OrderLogRecordsAreWritten :
    (let s := logging 0x0100000000000002 0xFF0 0x1FE0 [] []; (s.getLaunch 0 1).isSome ∧ (0x0100000000000002#64).getLsbD 1 = true ∧ (0x1FE0 - 0xFF0 < 2 ^ 12) ∧
      s.suspended 0 = false ∧ s.flights.length = 1 ∧ (s.getUnit 1).inbox = [] ∧ s.logCluster 0 (1 / 16) = some 0 ∧ (s.logCore 0 0 (1 % 16)).isSome = true ∧
      s.logCore_ 0 1 = 1 ∧ s.rangeBursting 0 (globalA + 0xFE0) 16 = false) ∧
    (∀ i, i < 16 → ∀ i', i' < 16 → stackKey 0 (0xFE0 + i) = stackKey 0 (0xFE0 + i') → i = i') ∧
    (2 ^ 12 ≤ 0x1FE0 - 0xFE0) ∧ (launchB 1 0 1 0).detctl.getLsbD 1 = false ∧
    (let m := writeNat [] (stackKey 0 0) (3 * 2 ^ 60 + 5 * 2 ^ 48 + 2 ^ 40 + 77 * 2 ^ 64) 16
     let s := logging 0x0100000000000004 0 0 [] m
     (0x0100000000000004#64).getLsbD 2 = true ∧ (s.getLaunch 0 1).bind (fun l => s.nextRecord 0 l 3 5) = some (3, 77) ∧
       (s.getLaunch 0 1).bind (fun l => s.nextRecord 0 l 3 6) = none) := by decide +kernel
/-- The translation of the log's tail finds its page in the cache and does not look at memory. -/
theorem witness_OrderLogRecordsAreWritten_page : ∃ w : Site, w.home = .stack 0 ∧ ∀ m need, need = .w ∨ need = .any →
    State.translate { logging 0x0100000000000002 0xFF0 0x1FE0 [] [] with mem := m } 0 0 0xFE0 16 need = .ok w := by
  refine ⟨{ home := .stack 0, node := 0, off := 0xFE0, leaf := leafRwx, z := 16 }, rfl, fun m need h => ?_⟩
  have hf : (page0 leafRwx).size.log2 = 16 := by decide +kernel
  have hl : State.leafFor { logging 0x0100000000000002 0xFF0 0x1FE0 [] [] with mem := m } 4 0 0 0xFE0 = (.leaf 0 leafRwx, 16) := by rw [← hf]; rfl
  have hh : State.home { logging 0x0100000000000002 0xFF0 0x1FE0 [] [] with mem := m } 0 0 0xFE0 = some (.stack 0) :=
    (by decide +kernel : (logging 0x0100000000000002 0xFF0 0x1FE0 [] []).home 0 0 0xFE0 = some (.stack 0))
  have hd : homeDie (.stack 0) = 4 := rfl
  rcases h with rfl | rfl <;> simp only [State.translate, State.translate1, hh, hd, hl] <;> rfl

-- events: clocks, walks, power, package, links

/-- Die 11 as given. -/
def dieState (x : Die) (now : Nat) : State := { user with dies := [(11, x)], now := now }
/-- A first lock, a lock again, a HOLDOVER that ends with a good exchange, one past its time, and each bound at its limit. -/
theorem witness_ClocksSettleHoldAndExpire :
    (let x := (dieState {} 0).getDie 11; x.bell = false ∧ x.clk = 0 ∧ x.goodRun = 0 ∧ x.missed = 0 ∧ x.lastTry = 0) ∧ (State.reset.getDie 0).bell = true ∧
    ((6 : Int).natAbs ≤ 6 ∧ 6 < (-7 : Int).natAbs ∧ (-92 : Int).natAbs ≤ 92) ∧ (dieState {} 65535).now < 0 + 65536 ∧
    (let s := dieState { goodRun := 1, skew := 7, goal := 7 } 65536; let x := s.getDie 11; 0 + 65536 ≤ s.now ∧ s.clkState 11 = 0 ∧ 6 < (skewAt x s.now - skewAt (s.getDie 3) s.now).natAbs) ∧
    (let s := dieState { goodRun := 1, skew := 6, goal := 6 } 65536; let x := s.getDie 11; (skewAt x s.now - skewAt (s.getDie 3) s.now).natAbs ≤ 6 ∧ 1 ≤ x.goodRun ∧ x.locked = false ∧ x.bell = false ∧
      s.inBand 11 { slewTo x s.now 0 with skew := 6 } = true) ∧
    (let s := dieState { goodRun := 1, locked := true } 65536; 1 ≤ (s.getDie 11).goodRun ∧ (s.getDie 11).locked = true) ∧
    (let s := dieState { clk := 1, missed := 1 } 65536; (s.getDie 11).clk = 1 ∧ 1 ≤ (s.getDie 11).missed ∧ s.clkState 11 ≠ 0) ∧ ((dieState { clk := 1 } 0).getDie 11).missed = 0 ∧
    (let s := dieState { clk := 2, lastGood := 7 } (2 ^ 22 + 7); (s.getDie 11).clk = 2 ∧ (s.getDie 11).lastGood + 2 ^ 22 ≤ s.now) ∧
    (let s := dieState { clk := 2, lastGood := 7 } (2 ^ 22 + 6); s.now < (s.getDie 11).lastGood + 2 ^ 22) ∧ user.dev.discipline = none ∧
    (let s : State := { user with dev := { user.dev with discipline := some 11 }, now := 65536 }; s.dev.grandmaster = false ∧ s.dev.discipline = some 11 ∧
      (s.getDie s.bellDie).peerTry + 65536 ≤ s.now ∧ (s.getDie s.bellDie).peerMissed = 0) := by decide +kernel
/-- Die 4 with one walk. -/
def walking (w : Walk) : State := { user with dies := [(4, { walks := [w], gens := [(0, 3)], tc := List.replicate 4096 (page0 leafRwx), absent := [(0, 0, 0)] })] }
def walk4 (gen : Option Nat) (found : Option (Nat × Nat × Word)) : Walk := { part := 0, node := 0, offset := 0xFFFF, gen := gen, found := found }
theorem witness_WalksFillUnderTheirGeneration :
    (let w := walk4 (some 3) (some (0, 0x10000, leafX)); let s := walking w; (s.getDie 4).walks[0]? = some w ∧ look nat0 (s.getDie 4).gens 0 = 3) ∧
    (let s := walking (walk4 (some 2) none); (s.getDie 4).walks[0]? = some (walk4 (some 2) none) ∧ 2 ≠ look nat0 (s.getDie 4).gens 0) ∧
    (let s := walking (walk4 (some 3) none); (s.getDie 4).walks[1]?.isNone = true ∧ (walk4 (some 3) none).found = none) ∧
    ((walking (walk4 none none)).getDie 4).walks[0]? = some (walk4 none none) := by decide +kernel
/-- Cluster 127 with the given power state. -/
def powered (w : Power) (now : Nat) : State := { user with clusters := [(127, { pwr := w })], now := now }
theorem witness_ClustersChangePointAndCoresPowerDown :
    (let s := powered { ramp := some (7, 8000), volt := 6, opcur := 6, goal := some 7 } 8000; ((s.getCluster 127).pwr.ramp = some (7, 8000)) ∧ 8000 ≤ s.now ∧
      (s.getCluster 127).pwr.pend = none ∧ (s.getCluster 127).pwr.goal ≠ none) ∧
    (powered { ramp := some (7, 8000) } 7999).now < 8000 ∧ (user.getCluster 127).pwr.ramp = none ∧ dueSwitch (user.getCluster 127).pwr = none ∧
    (let s := powered { goal := some 2 } 8000; dueSwitch (s.getCluster 127).pwr = some 2 ∧ s.quiesce 127 = true ∧ (s.getCluster 127).pwr.ramp = none ∧ (2#3).toNat < (s.getCluster 127).pwr.volt.toNat) ∧
    (let s := (powered { goal := some 2, defer := 0xFFFFFFFF } 8000).setUnit 2047 { wait := .load globalA 8 none }; dueSwitch (s.getCluster 127).pwr = some 2 ∧ s.quiesce 127 = false) ∧
    (let s : State := { core0 { journal := [(3, { st := .free })] } with now := 4000 }; (s.getUnit 0).run = .idle ∧ (s.getUnit 0).powered = true ∧ (s.getUnit 0).inbox = [] ∧
      (s.getUnit 0).idleSince + 4000 ≤ s.now ∧ ∀ p ∈ (s.getUnit 0).journal, p.2.st = .free) ∧
    ({ core0 {} with now := 3999 } : State).now < 0 + 4000 ∧
    (let s := freeCore (launchB 1 0 1 5) [{ part := 0, lid := 1, wid := 4 }] []; let r : State := { s with cur := { s.cur with powered := false } }
     (r.getUnit 0).powered = false ∧ r.coreFree 0 = true ∧ 0 ∈ r.partsOf 0 ∧
      (r.refreshReady 0 0).mapsCore 0 0 = some 0 ∧ ((r.refreshReady 0 0).pick 0 0 0).isSome = true) := by decide +kernel
theorem witness_ClustersChangePointAndCoresPowerDown_plain : ∀ a, (core0 {}).isState 0 a = false := fun _ => rfl
theorem witness_PowerRegistersAndBudget :
    isCore user.focus = true ∧ user.cur.priv = .u ∧ super.cur.priv ≠ .u ∧ (16 ≤ (16#64).toNat) ∧ ((7#64).toNat < 8 ∧ (super.getCluster 0).pwr.ramp = none ∧
      (7#64).toNat = (super.getCluster 0).pwr.opcur.toNat) ∧ ((15#64).toNat < 16) ∧ ((8#64).toNat % 256 / 8 ≠ 0) ∧ ((6#64).toNat % 8 / 2 = 3) ∧
    ((0x0100000000000005#64).toNat % 256 / 8 = 0 ∧ (0x0100000000000005#64).toNat % 8 / 2 ≠ 3) ∧ (8 < (9#64).toNat) ∧ super.coreOf 0 0 15 = some 15 ∧
    (({ super with now := 40000 } : State).dev.lastTree + 40000 ≤ 40000) ∧ (39999 < super.dev.lastTree + 40000) ∧
    (({ super with clusters := [(127, { pwr := { auto := false, opreq := 3 } })] } : State).getCluster 127).pwr.auto = false := by decide +kernel
/-- The device owned through host link 0, with other fields of the device as given. -/
def owned (d : Device) : State := { user with dev := { d with own := some 0 } }
theorem witness_ResetLifeCycleAndLifetime :
    (user.now < user.dev.lastCommit + 2 ^ 32) ∧ (let s : State := { user with now := 2 ^ 32 }; s.dev.lastCommit + 2 ^ 32 ≤ s.now) ∧
    ({ user with dev := { user.dev with recovery := true } } : State).dev.recovery = true ∧ user.dev.recovery = false ∧ user.dev.own = none ∧
    (owned { lcs := 3 }).dev.lcs = 3 ∧ (let s := owned { lcs := 1 }; s.dev.lcs ≠ 3 ∧ s.dev.own = some 0) := by decide +kernel
/-- Peer link 11 (link 13) is down since tick 9; core 0 waits for a load of a byte behind it and has a store and an atomic on their way there. -/
def linked (down : Option Nat) (now : Nat) : State :=
  let e : JEntry := { st := .issued, addr := 0x01A0000000000000, node := 0xA0 }
  { core0 { userUnit with wait := .load 0x01A0000000000008 8 none, journal := [(0, { e with addr := globalA }), (62, { e with kind := .amo 1 }), (63, e)] } with
    dev := { links := [(13, down)] }, parts := [(0, { nodes := [(0xA0, 0xC0000000)], peers := [(0, 0x80000000000B0000)] })], now := now }
theorem witness_LinksGoDownAndAreLost :
    (look link0 user.dev.links 29 = none ∧ look link0 (linked (some 9) 0).dev.links 13 = some 9) ∧
    (let s := linked (some 9) (10 + 2 ^ 20); 9 + 2 ^ 20 < s.now ∧ s.crosses 13 0 0 0x01A0000000000008 = true ∧ waitAddr (s.getUnit 0) = some 0x01A0000000000008 ∧
      (∃ e ∈ (s.getUnit 0).journal, e.1 = 63 ∧ e.2.st = .issued ∧ e.2.stage = .toHome ∧ s.crosses 13 0 e.2.part e.2.addr = true)) ∧
    (linked (some 9) (9 + 2 ^ 20)).now ≤ 9 + 2 ^ 20 := by decide +kernel

-- switching, services, the host

/-- Host 0 owns the device and asks through partition 0's mailbox for service n with arguments a0-a5. -/
def asking (n : Nat) (a : List Word) (d : Device) (p : Part) : State :=
  { user with dev := { d with own := some 0 }
              parts := [(0, { p with mail0 := { dw := ((0, BitVec.ofNat 64 n) :: (List.range 6).map (fun i => (i + 1, a.getD i 0))).filter (fun e => e.2 != 0), asked := true } })] }
def allBut (s : State) : Bool := s.dev.own == some 0 && !s.dev.recovery && s.dev.lcs != 3
/-- A switch record at host address 0x40 with doublewords w; every die has settled; partition 0's table for it is stack node 0's first bytes. -/
def recorded (w : List Word) (clk : Nat) (sw : List Switch) (names : List (Nat × Nat)) (p : Part := {}) : State :=
  let s := asking 1 [0x40] {} p
  { s with dies := ((List.range 12).map (fun d => (d, ({ clk := if d = 11 then clk else 1 } : Die)))).map (fun e => if e.1 = 4 then (4, { e.2 with tc := [page0 leafRwx] }) else e),
           switches := sw, mem := writeNat (names.foldl (fun m e => writeNat m (stackKey 0 e.1) e.2 2) []) (hostKey 0 0x40) (natOfBytes (w.flatMap (fun v => bytesOfNat 8 v.toNat))) 64 }
def goodW : List Word := [80000, 80000, globalA, 0, 0, 0x1F, 0, 0]
def sw0 (t : Nat) (stopped : Option Nat) (evict : List Nat) : Switch :=
  { t := t, tin := 100, evict := evict, ctxOut := 0, ctxIn := 0, noin := false, inP := 0, outP := 0, place := 0, stopped := stopped }
def switchArgs (s : State) : Bool := s.askedArgs (.mailbox 0 0) 1 == some [0x40, 0, 0, 0, 0, 0]
def unsettledAt (s : State) : Bool := (List.range 12).any (fun d => (s.getDie d).clk == 0)
def missing (s : State) (out : Nat) : Bool := match (s.readGlobal 0 globalA 256).1 with
  | .ok bs => (evictNames bs).any (fun n => (s.physCore out (n / 16) (n % 16)).isNone)
  | .error _ => false
theorem witness_SwitchRecordsAreChecked :
    (let s := recorded goodW 1 [] [(254, 0x8000)]
     allBut s ∧ switchArgs s ∧ (s.read (hostKey 0 0x40) 8).toNat = (s.atimeOf 0).toNat + 80000 ∧ unsettledAt s = false ∧ isOk (s.readGlobal 0 globalA 256).1 ∧ missing s 15 = false ∧
      s.rangeHeld 0 globalA 256 = false) ∧ (recorded goodW 1 [] [(254, 0x8000)] { suspended := true }).rangeHeld 0 0x0110000000000000 256 = true ∧
    (recorded [79999, 80000, globalA] 1 [] []).read (hostKey 0 0x40) 8 = 79999 ∧ unsettledAt (recorded goodW 0 [] []) = true ∧
    (let s := recorded goodW 1 [{ sw0 0 none [] with outP := 15, inP := 9 }] []; switchArgs s ∧ s.switches.any (fun o => o.outP == 15) = true) ∧
    (recorded [80000, 80000, globalA, 0, 0, 0x1F, 0, 1] 1 [] []).read (hostKey 0 0x40 + 56) 8 ≠ 0 ∧
    missing (recorded [80000, 80000, globalA, 0, 0, 0x100, 0, 0] 1 [] [(254, 0x8000)] { present := [(127, 0x7FFF)] }) 0 = true ∧
    (asking 1 [0x4000000000000] {} {}).askedArgs (.mailbox 0 0) 1 = some [0x4000000000000, 0, 0, 0, 0, 0] ∧
    (asking 1 [0x40, 0, 0, 0, 0, 7] {} {}).askedArgs (.mailbox 0 0) 1 = some [0x40, 0, 0, 0, 0, 7] := by decide +kernel
/-- A partition-0 unit that runs (or has stopped) with one pending switch. -/
def switching (sw : List Switch) (u : Machine.Unit) (saved : List Saved) (now : Nat) : State :=
  { core0 u with switches := sw, saved := saved, now := now, flights := [{ src := 0, dst := 1, dest := .core 1, msg := msg0 }] }
theorem witness_GangsStopAreEvictedAndResume :
    (let s := switching [sw0 50 none []] { userUnit with wait := .event 70 } [] 50; s.switches = [sw0 50 none []] ∧ (sw0 50 none []).t ≤ (s.atimeOf 0).toNat ∧ s.suspended 0 = true ∧ s.units.drop 1 = [] ∧
      s.cur.part = 0 ∧ s.cur.run = .running ∧ s.cur.wait = .event 70 ∧ (sw0 50 none []).t ≤ s.atime.toNat) ∧
    (let s := switching [sw0 50 none []] {} [] 49; ∀ sw ∈ s.switches, (s.atimeOf 0).toNat < sw.t) ∧
    (let s := switching [sw0 50 none []] {} [] 50; s.cur.run ≠ .running) ∧
    (let s := switching [sw0 50 none []] userUnit [] 50; ∀ sw ∈ s.switches, sw.stopped = none) ∧
    (let s : State := { switching [sw0 50 (some 60) []] { userUnit with run := .stopped true, firing := {}, slots := [(3, { st := .waiting, deadline := 7 })] } [{ part := 0, since := 50 }] 100 with flights := [] }
     (sw0 50 (some 60) []).tin = (s.atimeOf 0).toNat ∧ s.saved.find? (fun v => v.part == 0) = some { part := 0, since := 50 } ∧ s.pens = {} ∧ s.replies = [] ∧ s.laws = [] ∧ (∀ kv ∈ s.units, kv.2.firing.lid = 0) ∧
      s.cur.run = .stopped true ∧ (look slot0 s.cur.slots 3).st = .waiting ∧ (sw0 50 (some 60) []).ctxIn = 0) ∧
    ((switching [sw0 50 (some 60) []] {} [] 99).atimeOf 0).toNat < (sw0 50 (some 60) []).tin ∧ ({ sw0 50 (some 60) [] with noin := true } : Switch).noin = true := by decide +kernel
theorem bytesOfNat_length (n v : Nat) : (bytesOfNat n v).length = n := by
  induction n generalizing v with
  | zero => rfl
  | succ n ih => simp [bytesOfNat, ih]
theorem flatMap_length {α β : Type} (f : α → List β) (n : Nat) (l : List α) (h : ∀ a ∈ l, (f a).length = n) : (l.flatMap f).length = n * l.length := by
  induction l with
  | nil => rfl
  | cons a l ih =>
    rw [List.flatMap_cons, List.length_append, ih (fun b hb => h b (List.mem_cons_of_mem _ hb)), h a List.mem_cons_self, List.length_cons, Nat.mul_succ, Nat.add_comm]
theorem dwBytes_length (l : List Word) : (dwBytes l).length = 8 * l.length := flatMap_length _ _ _ (fun _ _ => bytesOfNat_length _ _)
theorem bytes4_length (l : List (BitVec 32)) : (bytes4 l).length = 4 * l.length := flatMap_length _ _ _ (fun _ _ => bytesOfNat_length _ _)
theorem context_length (s : State) (u : Nat) : (s.context u).1.length = 0xE0000 := by
  have h : ∀ x : Machine.Unit, (inboxArea x).length = 0x1000 := by
    intro x; rw [inboxArea, dwBytes_length, flatMap_length _ 8]
    · simp
    · intro i _; split <;> simp [msgWords]
  have h2 : ∀ (x : Machine.Unit) (b : List Byte), b.length = 0x400 → (sendArea x b).length = 0x800 := by
    intro x b hb; rw [sendArea, flatMap_length _ 128]
    · simp
    · intro i hi
      have : i < 16 := List.mem_range.mp hi
      rw [List.length_append, dwBytes_length, List.length_take, List.length_drop, hb, Nat.min_eq_left (by omega)]
      split <;> simp [msgWords]
  have h3 : ∀ x : Machine.Unit, (sendArea x ((List.range 0x400).map (fun i => Config.freeByte (s.free + 0x400 + i)))).length = 0x800 := fun x => h2 x _ (by simp)
  simp only [State.context, List.length_append, h, h3, regArea, tensorArea, csrArea, State.freeBytes, State.readBytes, dwBytes_length, bytes4_length, List.length_cons,
    List.length_map, List.length_range, List.length_replicate, List.length_drop, Vector.length_toList, List.length_nil]
/-- Core 15 of cluster 127 is to be evicted into host memory, whose first 2^40 bytes are one cached page. -/
def evicting : State :=
  { user with switches := [{ sw0 50 (some 60) [2047] with ctxOut := 0x0190000000000000 }]
              dies := [(0, { tc := [{ part := 0, node := 0x90, base := 0, size := 2 ^ 40, leaf := leafRw }] })] }
/-- The state with other memory and another free value. -/
def evictingAs (m : List Host.Cell) (f : Nat) : State := { evicting with mem := m, free := f }
theorem evicting_leaf (m : List Host.Cell) (f off : Nat) (h : off < 2 ^ 40) : (evictingAs m f).leafFor 0 0 0x90 off = (.leaf 0 leafRw, 40) := by
  have ht : ((evictingAs m f).getDie 0).tc = [{ part := 0, node := 0x90, base := 0, size := 2 ^ 40, leaf := leafRw }] := rfl
  have hz : Nat.log2 1099511627776 = 40 := by decide +kernel
  have h1 : off < 1099511627776 := h
  simp [State.leafFor, ht, tcHit, h1, hz]
theorem evicting_home (m : List Host.Cell) (f off : Nat) : (evictingAs m f).home 0 0x90 off = some (.host 0) := by
  have : (evictingAs m f).home 0 0x90 off = (evictingAs [] 0).home 0 0x90 0 := rfl
  rw [this]; decide +kernel
theorem evicting_translate1 (m : List Host.Cell) (f off k : Nat) (need : Need) (hn : need ≠ .x) (h : off < 2 ^ 40) :
    (evictingAs m f).translate1 0 0x90 off k need false = .ok ({ home := .host 0, node := 0x90, off := off, leaf := leafRw, z := 40 }, none) := by
  have hd : homeDie (.host 0) = 0 := rfl
  have e1 : leafAllows leafRw .r = true := by decide +kernel
  have e2 : leafAllows leafRw .w = true := by decide +kernel
  have e3 : leafAllows leafRw .rw = true := by decide +kernel
  have e4 : leafAllows leafRw .any = true := by decide +kernel
  have e5 : lfRmap leafRw = false := by decide +kernel
  have e6 : lfLayout leafRw = 0 := by decide +kernel
  cases need <;> simp_all [State.translate1, evicting_home, evicting_leaf]
theorem evicting_fill (m : List Host.Cell) (f off : Nat) (h : off < 2 ^ 40) : (evictingAs m f).fill 0 0x90 off = evictingAs m f := by
  have ht : ((evictingAs m f).getDie 0).tc = [{ part := 0, node := 0x90, base := 0, size := 2 ^ 40, leaf := leafRw }] := rfl
  have hd : homeDie (.host 0) = 0 := rfl
  have h0 : off < 1099511627776 := h
  have h1 : (evictingAs m f).fillOne 0 0x90 off = evictingAs m f := by simp [State.fillOne, evicting_home, hd, ht, tcHit, h0]
  simp only [State.fill, h1, evicting_translate1 m f off 1 .r (by decide) h]
theorem writeGlobalGo_host : ∀ (fuel addr : Nat) (bs : List Byte) (cnt f : Nat) (m : List Host.Cell), addr / 2 ^ 48 % 256 = 0x90 →
    addr % 2 ^ 48 + bs.length < 2 ^ 40 → ∃ m', State.writeGlobalGo 0 0 fuel (evictingAs m f) addr bs cnt = some (evictingAs m' f, none) := by
  intro fuel
  induction fuel with
  | zero => intro _ _ _ _ m _ _; exact ⟨m, rfl⟩
  | succ fuel ih =>
    intro addr bs cnt f m hn hl
    unfold State.writeGlobalGo
    by_cases he : bs.isEmpty = true
    · exact ⟨m, by simp [he]⟩
    · have ho : addr % 2 ^ 48 < 2 ^ 40 := by omega
      have hk : pieceLen addr bs.length ≤ bs.length := Nat.min_le_left _ _
      simp only [he, hn, State.translate, evicting_translate1 m f _ _ .w (by decide) ho, evicting_fill m f _ ho, State.writeSite, Bool.false_eq_true, if_false]
      exact ih _ _ _ f _ (by omega) (by simp only [List.length_drop]; omega)
theorem witness_GangsStopAreEvictedAndResume_evicted :
    (∃ r : State, (evicting.context 2047).2.writeGlobal 0 0 (contextAt 0x0190000000000000 2047) (evicting.context 2047).1 = some (r, none) ∧
      (∃ k, k < 16 ∧ (r.presentMask 0 (2047 / 16)).getLsbD k = true ∧ k ≠ 2047 % 16 ∧ ∀ v ∈ r.saved, ∀ x ∈ v.units, x.name ≠ 16 * (2047 / 16) + k) ∧ r.switches = evicting.switches) ∧
    evicting.switches = [{ sw0 50 (some 60) [2047] with ctxOut := 0x0190000000000000 }] ∧ evicting.physCore 0 (2047 / 16) (2047 % 16) = some 2047 ∧
    evicting.evictBusy 2047 0 = false ∧ evicting.rangeHeld 0 (contextAt 0x0190000000000000 2047) 0xE0000 = false ∧
    evicting.rangeHeld 0 (clusterAt 0x0190000000000000 (2047 / 16)) 0x2000 = false := by
  obtain ⟨m, hm⟩ := writeGlobalGo_host ((evicting.context 2047).1.length / 64 + 2) (contextAt 0x0190000000000000 2047).toNat (evicting.context 2047).1 0
    (evicting.context 2047).2.free [] (by decide) (by rw [context_length]; decide)
  refine ⟨⟨evictingAs m (evicting.context 2047).2.free, hm, ⟨0, by decide, ?_, by decide, ?_⟩, rfl⟩, rfl, by decide +kernel, by decide +kernel, by decide +kernel,
    by decide +kernel⟩
  · have : (evictingAs m (evicting.context 2047).2.free).presentMask 0 (2047 / 16) = evicting.presentMask 0 (2047 / 16) := rfl
    rw [this]; decide +kernel
  · intro v h; cases h
def asked (s : State) (n : Nat) (a : List Word) : Bool := s.askedArgs (.mailbox 0 0) n == some a && allBut s
theorem witness_ServicesAnswerAndWriteTables :
    (∀ n ∈ [3, 4, 5, 6, 7, 9], asked (asking n [1, 2] {} {}) n [1, 2, 0, 0, 0, 0] = true) ∧ (user.askedArgs (.mailbox 0 0) 3).isNone = true ∧
    isService (.mailbox 0 0) (.servicePlace (.mailbox 0 0)) 3 ∧ (asking 3 [] { recovery := true } {}).dev.recovery = true ∧
    ((asking 8 [] { lcs := 3 } {}).askedArgs (.mailbox 0 0) 8).isSome = true ∧ (asking 3 [] {} {}).pfOwner (.mailbox 1 0) = false ∧ (asking 3 [] {} {}).pfOwner (.unit 5) = false ∧
    unusedZero [1, 2, 0, 0, 0, 0] 2 ∧ ¬ unusedZero [1, 2, 0, 0, 0, 7] 5 ∧
    (n0 [15, 0xFF, 0x8007000000008000] 2 / 2 ^ 51 % 2 ^ 12 = 0 ∧ n0 [15, 0xFF, 0x8007000000008000] 2 % 2 ^ 15 = 0 ∧ user.physStack 15 7 = some 7) ∧ user.physCluster 15 127 = some 127 ∧ user.physCluster 15 128 = none ∧ (16 : Nat) ≥ 16 ∧ (n0 [1, 0x92, 0] 1 ≠ 0x90) ∧
    (n0 [3, 15] 1 ≤ 15 ∧ 15 < n0 [3, 16] 1) ∧ indexForm 0x1F0F ∧ ¬ indexForm 0x1F1F ∧ regionForm 0x8000000000800000 0x2000000 ∧ ¬ regionForm 0x8000000000800000 0x800000 ∧ regionForm 0x100000000 0 := by
  simp only [unusedZero, indexForm, regionForm]
  exact ⟨by decide +kernel, by decide +kernel, .inr (.inl ⟨rfl, rfl⟩), by decide +kernel, by decide +kernel, rfl, rfl, by simp, by simp, by decide +kernel, by decide +kernel, by decide +kernel, by decide, by decide, by decide,
    by decide, by decide, by decide, by decide, by decide⟩
theorem witness_PeersAndClockRoles :
    asked (asking 6 [0xFFFFFFFFFFFFFFFF, 7] {} {}) 6 [0xFFFFFFFFFFFFFFFF, 7, 0, 0, 0, 0] = true ∧ asked (asking 6 [0xFFFFFFFFFFFFFFF0] {} {}) 6 [0xFFFFFFFFFFFFFFF0, 0, 0, 0, 0, 0] = true ∧
    ((asking 5 [] {} {}).askedArgs (.mailbox 0 0) 6).isNone = true ∧ n0 [0xFFFFFFFFFFFFFFFF] 0 = 2 ^ 64 - 1 ∧ n0 [0xFFFFFFFFFFFFFFF0] 0 = 2 ^ 64 - 16 ∧
    (let s := asking 6 [0xFFFFFFFFFFFFFFF0] { links := (List.range 11).map (fun j => (2 + j, some 5)) } {}
     look link0 s.dev.links (2 + 11) = none ∧ ∀ j, j < 11 → look link0 s.dev.links (2 + j) ≠ none) ∧
    (let s := asking 6 [0xFFFFFFFFFFFFFFF0] { links := (List.range 12).map (fun j => (2 + j, some 5)) } {}; ∀ i, i < 12 → look link0 s.dev.links (2 + i) ≠ none) ∧
    (let v := n0 [0x1F0F, 0x80000000000B00FF] 1; v / 2 ^ 20 % 2 ^ 43 = 0 ∧ v / 2 ^ 8 % 16 = 0 ∧ v / 2 ^ 16 % 16 ≤ 11 ∧ 0xF0 ≤ v % 256) ∧ indexForm 0x1F0F ∧
    (let v := n0 [0x1F0F, 0x80000000000B0090] 1; ¬ (v % 256 ≤ 0x8F ∨ 0xF0 ≤ v % 256)) ∧ unusedZero [1, 2, 0] 2 ∧ ¬ unusedZero [1, 2, 3] 2 := by
  simp only [unusedZero, indexForm]
  exact ⟨by decide +kernel, by decide +kernel, by decide +kernel, by decide, by decide, by decide +kernel, by decide +kernel, by decide, by decide, by decide, by simp, by simp⟩
theorem witness_OwnershipIsClaimedAndHandedOver :
    user.dev.own = none ∧ user.dev.recovery = false ∧ user.dev.lcs ≠ 3 ∧ (2 : Fin 3).val = 2 ∧ (1 : Fin 3).val ≠ (0 : Fin 2).val ∧
    (let s := owned { handover := some 2 }; s.dev.own ≠ none ∧ s.dev.handover = some 2) ∧ (owned {}).dev.handover ≠ some 1 ∧ (owned { lcs := 3 }).dev.lcs = 3 ∧
    asked (asking 7 [0] {} {}) 7 [0, 0, 0, 0, 0, 0] = true ∧ masterOf (.mailbox 0 0) = some 0 ∧ masterOf (.mailbox 1 0) = none ∧ masterOf (.unit 2304) = some 2 ∧ masterOf (.unit 5) = none ∧
    (let s : State := { asking 7 [0] {} {} with dev := {} }; s.dev.own ≠ some 0 ∧ s.dev.own = none) ∧ (let s : State := { asking 7 [0] {} {} with dev := { own := some 1 } }; s.dev.own ≠ some 0) ∧
    (let s := core0 (xs [(17, 7)] { userUnit with wait := .service }); (s.askedArgs (.unit 0) 7).isSome = true) ∧ ¬ (n0 [3, 0] 0 ≤ 2) ∧ unusedZero [0, 0, 0] 1 := by
  simp only [unusedZero]
  exact ⟨rfl, rfl, by decide, rfl, by decide, by decide, by decide, rfl, by decide +kernel, rfl, rfl, rfl, rfl, by decide, by decide, by decide +kernel, by decide, by simp⟩
/-- A shoot-down descriptor at host address 0x80, asked for by host 0; a cached page and a cached line of core 0 that it may cover. -/
def shooting (w : List Word) (vis : List Vis) : State :=
  let s := asking 2 [0x80] {} {}
  { s with dies := [(4, { tc := [page0 leafRwx], gens := [(0, 2 ^ 64 - 1)] })], vis := vis, mem := writeNat [] (hostKey 0 0x80) (natOfBytes (w.flatMap (fun v => bytesOfNat 8 v.toNat))) 32,
           cur := { s.cur with cache := [{ part := 0, addr := globalA, bytes := [] }, { part := 0, addr := globalA + 0x10000, bytes := [] }] } }
def visG : Vis := { src := 0, j := 0, port := 0, part := 0, lid := 1, addr := globalA + 0xFFF8, data := 0, size := 8, time := 9, arrived := 0, site := some { home := .stack 0, node := 0, off := 0xFFF8, leaf := leafRwx, z := 16 } }
theorem witness_ShootDownsAndAttestation :
    (let s := shooting [0, 0, 1] []; asked s 2 [0x80, 0, 0, 0, 0, 0] ∧ s.shoots = [] ∧ s.shootWaits 0 0 0 65536 = false ∧ (s.nodeDies 0 0).count 4 = 1 ∧ (s.read (hostKey 0 0x80 + 16) 8).toNat ≠ 0) ∧
    (let h : Shoot := { src := .mailbox 0 0, desc := 0x80, part := 0, node := 0, base := 0, bytes := 65536 }
     ({ shooting [0, 0, 1] [visG] with shoots := [h] } : State).shoots.find? (fun h => h.src == .mailbox 0 0) = some h ∧ h.desc.toNat < 2 ^ 48) ∧
    (shooting [0, 0, 1] [visG]).shootWaits 0 0 0 65536 = true ∧ ((shooting [0x1000, 0, 1] []).read (hostKey 0 0x80) 8).toNat / 2 ^ 12 % 2 ^ 51 ≠ 0 ∧
    ((shooting [0x8000000000000000] []).read (hostKey 0 0x80) 8).toNat / 2 ^ 63 = 1 ∧ (user.askedArgs (.mailbox 0 0) 2).isNone = true ∧
    (let s : State := { core0 (xs [(17, 2), (10, globalA)] { userUnit with wait := .service }) with dies := [(4, { tc := [page0 leafRwx] })], mem := writeNat [] (stackKey 0 0) 0x8000000000000100 8 }
     s.askedArgs (.unit 0) 2 = some [globalA, 0, 0, 0, 0, 0] ∧ (match s.readPtr 0 (.glob globalA) 32 with
       | some b => natOfBytes (b.take 8) / 2 ^ 12 % 2 ^ 51 == 0 && natOfBytes (b.take 8) / 2 ^ 63 == 1 && natOfBytes (b.take 8) / 2 ^ 8 % 16 == 1
       | none => false) = true ∧ n0 [globalA] 0 / 2 ^ 56 = 1 ∧ s.rangeHeld 0 globalA 32 = false ∧ s.shoots = []) ∧
    asked (asking 8 [0x40, 0x80] {} {}) 8 [0x40, 0x80, 0, 0, 0, 0] = true := by decide +kernel
/-- A record, and partition 0 with records waiting. -/
def rec0 : FaultRec := { cause := 0x22, sub := 3, kind := 4, lid := 1, unit := 0xC000, addr := globalA, val := 5, time := 9 }
def ringing (terminal retry : List FaultRec) (size : Nat) (fstat : Word) : State :=
  { user with parts := [(0, { terminal := { base := 0x1000, size := BitVec.ofNat 64 size, tail := 7, waiting := terminal }
                              retry := { base := 0x8000, size := BitVec.ofNat 64 size, tail := 2, waiting := retry }, fstat := fstat })] }
theorem witness_HostRingsAndRegisters :
    (let s := owned {}; s.dev.own = some 0 ∧ s.dev.recovery = false ∧ s.dev.lcs ≠ 3 ∧ ((1 : Word) - (hostq (s.getPart 15) 0).qhead).toNat ≤ 2 ^ ((hostq (s.getPart 15) 0).qsize.toNat % 64) ∧
      2 ^ ((hostq (s.getPart 15) 1).qsize.toNat % 64) < ((2 : Word) - (hostq (s.getPart 15) 1).qhead).toNat) ∧ user.dev.own ≠ some 1 ∧
    (0x1070 ≠ 0 ∧ ¬ (0x40 ≤ 0x3F ∧ 0x3F < 0x80)) ∧ (0x1080000 ≤ 0x1080000) ∧ (user.getPart 0).terminal.waiting = [] ∧ (user.getPart 0).retry.waiting = [] ∧
    (let x := (ringing [rec0] [rec0] 4 8).getPart 0; x.weight = 1 ∧ x.terminal.waiting = [rec0] ∧ (x.terminal.tail - x.terminal.head).toNat ≠ 2 ^ (x.terminal.size.toNat % 64) ∧ x.fstat.getLsbD 3 = true) ∧
    (let x := (ringing [] [rec0] 4 8).getPart 0; x.terminal.waiting = [] ∧ x.retry.waiting = [rec0] ∧ (x.retry.tail - x.retry.head).toNat ≠ 2 ^ (x.retry.size.toNat % 64)) ∧
    (let x := (ringing [] [rec0] 1 0xFFFF00000000).getPart 0; (x.retry.tail - x.retry.head).toNat = 2 ^ (x.retry.size.toNat % 64) ∧ rec0.held = false) := by decide +kernel
theorem witness_DecodeOfEncode : wellFormed (.vld 31 31 0xFF8#12) = true ∧ encode (.vld 31 31 0xFF8#12) ≠ [] := by decide
/-- A running unit with words at its pc, an agenda, or a pending asynchronous cause. -/
def stepping (ws : List Code) : State := State.place user (ws.flatMap bytesOfWord)
def fetches (s : State) (pc : Word) (w : Code) : Bool := match s.fetchWord pc with | .ok (v, _) => v == w | .error _ => false
theorem witness_AStepRunsTheDecodedInstruction :
    (let s := stepping [0x00100293]; s.vis = [] ∧ s.agenda = [] ∧ s.cur.run = .running ∧ s.standsStill = false ∧ s.mustStop = false ∧ s.cur.asyncs = [] ∧
      s.fetchHeld = false ∧ fetches s s.cur.pc 0x00100293 ∧ needs2 0x00100293 = false ∧ s.cur.pc = globalAddr 0 0x10000 ∧
      (match s.translate 0 0 0x10000 4 .x with | .ok x => x.home == .stack 0 | .error _ => false) = true) ∧
    (let s := stepping [0x0000308B, 0x00100293]; fetches s s.cur.pc 0x0000308B ∧ needs2 0x0000308B = true ∧ fetches s (s.cur.pc + 4) 0x00100293 ∧ needs3 0x0000308B 0x00100293 = false) ∧
    (let s := stepping [0x0002B00B, 0x0000308B, 0x00053503]; needs2 0x0002B00B = true ∧ fetches s (s.cur.pc + 4) 0x0000308B ∧ needs3 0x0002B00B 0x0000308B = true ∧ fetches s (s.cur.pc + 8) 0x00053503) ∧
    (let s : State := { user with agenda := [.event .orderlyPowerDown [2], .event .fin [], .pass 9, .evict 5 globalA, .abandon 5 3] }; (s.getUnit 5).run ≠ .running ∧ encode .orderlyPowerDown = [] ∧ encode .fin ≠ [] ∧ s.agenda ≠ []) ∧
    (let s := core0 { userUnit with asyncs := [{ code := 0x16, tval := 1 }] }; s.cur.priv = .u ∧ s.cur.asyncs ≠ [] ∧ interruptible s.cur.wait = true) ∧
    (State.reset.cur.run ≠ .running) ∧ (super.cur.pc.toNat % 4 = 0 ∧ super.cur.pc.toNat / 2 ^ 56 ≠ 1) ∧ ((core0 { userUnit with pc := 0x1002 }).cur.pc.toNat % 4 ≠ 0) ∧
    (let s := core0 { userUnit with pc := 0x0170000000000000 }; s.cur.pc = globalAddr 0x70 0 ∧ (match s.translate 0 0x70 0 4 .x with | .ok _ => false | .error f => f.cause != 3) = true) := by decide +kernel
theorem witness_StepsKeepTheMemoryForm : Memory.wf State.reset.mem = true ∧ ∃ t, step State.reset = .next t := ⟨rfl, _, rfl⟩
theorem witness_EveryInstructionRuns : (∃ c, exec .ecall mgmt = .fault (.firmwareTrap c)) ∧ exec (.coreEvict 2048) user = .fault (.noSuchPlace 2048) ∧
    mgmt.cur.priv = .m ∧ isSc mgmt.focus = false ∧ wellFormed (.coreEvict 2048) = false := ⟨⟨_, rfl⟩, rfl, rfl, rfl, rfl⟩
-- more of the hypotheses above, clause by clause

/-- An S-mode core of launch 1 that owes a call and writes queue 1, whose slots lie in bank 127 of core 1; that bank as given, and law 1 and its
threshold such that a slot's tag is met at once; the posts of core 1's law unit. -/
def abandoning (fmt : Word) (posts : List Post) : State :=
  let s := launched { owing with priv := .s, t := { tcause := 4, tval := 7 } }
  let s1 : State := { s with parts := [(0, { launches := [launch1], laws := [(4, 0x8000000000000002), (5, 1), (6, 0x8000000000000000), (7, 0x7FFFFFFFFFFFFFFF)] })] }
  { (s1.setUnit 1 { bfmt := [(127, fmt)] }) with
    laws := [(1, { thr := [(4, 0x8000000000000000), (7, 0x8000000000000002)], posts := posts })]
    mem := writeNat [] (scratchKey 1 0x7FFF8) 0x0101010000000000 8 }
theorem witness_FinAboveUserAbandonsTheFiring : super.cur.priv ≠ .u ∧ (abandoned super super.focus).isSome = true ∧
    (let s := abandoning 0 []; s.cur.priv ≠ .u ∧ (abandoned s s.focus).any (fun t => (t.getUnit 0).firing.owed.isSome && !(t.getUnit 0).firing.replied &&
      (t.getUnit 0).firing.owed.any (fun r => (t.replyDst r).isSome))) ∧
    (let s := abandoning 8 (List.replicate 16 post0); s.cur.priv ≠ .u ∧ (abandoned s s.focus).isNone = true) := by decide +kernel
theorem witness_RefusedCsrAccessesTrap_writes :
    (let s := args 0 0x20 9 0; csrStores .rw 11 ∧ 32 ≤ (csrValue .rw (look word0 s.cur.bfmt 127) (csrArg s .rw 11)).toNat ∧
      8 < (csrValue .rw (look word0 s.cur.bfmt 0) (csrArg s .rw 12)).toNat % 16) ∧
    (let s := args 0 0x10000000000 0 0; 2 ^ 40 ≤ (csrValue .rw s.cur.rcto (csrArg s .rw 11)).toNat ∧ 2 ≤ (csrValue .rw s.cur.rctl (csrArg s .rw 11)).toNat) ∧
    (let s := super; let st := fun n => csrValue .rwi (tstatusNow s.cur) (csrArg s .rwi n); (st 8).toNat / 8 % 32 ≠ 0 ∧ 2 ≤ (st 2).toNat % 4) ∧
    (let s := core0 (xs [(10, 0x300), (11, 0x400)] { userUnit with priv := .s }); let st := fun n => csrValue .rs (tstatusNow s.cur) (csrArg s .rs n)
     csrStores .rs 10 ∧ (st 10).toNat / 2 ^ 8 % 4 = 3 ∧ (st 11).toNat / 2 ^ 10 ≠ 0) := by unfold csrStores; decide +kernel
/-- Cluster 0's core 0 has no core of number 15 beside it. -/
def narrow : State := { user with parts := [(0, { present := [(0, 0x7FFF)] })] }
theorem witness_RcallNamesItsTarget : user.focus < 2304 ∧ isCore user.focus = true ∧ isSc sc.focus = true ∧ sc.logStack 0 (stackOf sc.focus) = some 0 ∧
    user.myLog = some 0 ∧ (user.physCore 0 0 ((0xFFFFFF - 0x800000) / 0x80000)).isSome ∧ narrow.physCore 0 0 15 = none ∧ narrow.myLog = some 0 ∧
    globalAddr 0x8F 0x7FFFFF = 0x018F0000007FFFFF ∧ nodeValid (user.node 0 0x8F) = true ∧ nodeValid (user.node 0 0xA0) = false ∧
    (user.physCore 0 127 (0x7FFFFF / 0x80000)).isSome ∧ narrow.physCore 0 0 (0x780000 / 0x80000) = none ∧ nodeValid (user.node 0 7) = true ∧
    nodeValid (user.node 0 0x90) = true ∧ nodeValid (stripe527.node 0 0xF3) = true ∧
    (let l := stripe527.stripe 0 (nodeTarget (stripe527.node 0 0xF3) % 16); l[0x42000 / 4096 % l.length]? = some 5 ∧ (stripe527.physStack 0 5).isSome) := by
  decide +kernel
/-- A chunk's arrivals are due at barrier 15 of core 0, which was declared with some bytes. -/
def arriving (bar : Word) (declared : List Nat) : State :=
  let s := synced 0 bar 0 0
  { s with cur := { s.cur with eng := { s.cur.eng with declared := declared } }, clusters := [(0, { chans := [(7, [{ op0 (.copy { src := 0x800100, dst := 0x8FFFE0, count := 5, sbanks := [], dbanks := [] }) with cmpl := 3, cidx := 15 }])] })] }
theorem witness_SynchronisationInstructions_due : (let s := arriving 0 [15]; 15 ∈ s.cur.eng.declared ∧ s.arrivalsDue 15 = true) ∧
    (let s := arriving 0x8000030000000000 []; 15 ∉ s.cur.eng.declared ∧ (look word0 s.cur.eng.bars 15).toNat / 2 ^ 63 = 1) ∧
    (let s := synced 0 0 0 0; ¬ (15 ∈ s.cur.eng.declared)) := by decide +kernel
/-- Core 0 names stack node 0's first byte in a0, with a journal as given. -/
def fencing (journal : SMap JEntry) (cmds : List BankCmd) : State :=
  let s := bankState 0 1 [(0, { cmds := cmds })]
  { s with cur := { s.cur with journal := journal } }
def toPch0 (s : State) (e : Bool) (out : Bool) : Bool := match s.bankPlace (s.x 10) .any with
  | .ok (g, c, _, t) => g == 0 && c == 0 && (t.cur.journal.all (fun je => decide (je.2.st = .free) || decide (je.2.fid ≠ t.cur.firing.fid) || !t.stackEntry je.2 (some g)) == e) && t.bankOut t.focus g c == out
  | .error _ => false
theorem witness_FencesWaitAndRetire_banks :
    (let s := fencing [] []; s.x 10 ≠ 0 ∧ s.addrHeld (isSc s.focus) s.cur.part (s.x 10) = false ∧ toPch0 s true false) ∧
    toPch0 (fencing [(0, { st := .issued, fid := 3, timed := true, accepted := true, addr := globalA, size := 8 })] []) false false ∧
    toPch0 (fencing [] [bankCmd]) true true ∧
    (let s : State := { user with cur := { user.cur with journal := [(0, { st := .issued, fid := 3, timed := true, accepted := true })] } }
     (∀ j e, (j, e) ∈ s.cur.journal → e.timed = true ∧ e.accepted = true)) ∧
    (let s : State := { args globalA 0 0 0 with dies := [(4, { walks := [{ part := 0, node := 0, offset := 0, gen := none, found := none }] })] }
     s.addrHeld (isSc s.focus) s.cur.part (s.x 10) = true) ∧ (8 ≤ 0x90 ∧ (args 0x0190000000000000 0 0 0).addrHeld false 0 0x0190000000000000 = false) := by
  refine ⟨by decide +kernel, by decide +kernel, by decide +kernel, ?_, by decide +kernel, by decide +kernel⟩
  intro s j e h
  simp only [s, List.mem_singleton, Prod.mk.injEq] at h
  rw [h.2]; exact ⟨rfl, rfl⟩
/-- As `lawState`, with an armed LEAK word at 5 under threshold entry 1, its time, its law unit's posts, and x11. -/
def armedState (now : Nat) (d3 arg : Word) (posts : List Post) : State :=
  let s := lawState 1 1 0 0 5 0x0101000000000000 3 d3 arg
  { s with now := now, laws := [(0, { s.getLaw 0 with posts := posts })] }
theorem witness_LawInstructionsActOnTheWord_armed :
    (let s := armedState 0 0x8000000000000000 3 []; let v := s.wordOf (word1 s); let e := s.lawEntry 0 v.law; let th := s.thrEntry 0 0 v.alarm
     atHandB s (s.x 10) (word1 s) ∧ s.swapped (word1 s) = false ∧ v.top = false ∧ v.armed = true ∧ v.fired = false ∧ th.valid = true ∧ e.valid = true ∧
     s.nextCrossing (word1 s) e th (s.nowu 0 0 e) v = some 2 ∧ s.nowu 0 0 e = 0 ∧ thrMet e th 3 = true ∧ thrMet e th 5 = false ∧ crossing e th 5 = some (2, 1) ∧
     s.postRoom 0 = true ∧ s.roosterRoom (word1 s) = true) ∧
    (armedState 0 0x8000000000000000 3 (List.replicate 16 post0)).postRoom 0 = false ∧
    ((armedState 0 0 3 []).thrEntry 0 0 1).valid = false ∧
    (let s := lawState 1 0 0 0 5 0x0101000000000000 3 0x8000000000000000 5; crossing (s.lawEntry 0 1) (s.thrEntry 0 0 1) 5 = none ∧ thrMet (s.lawEntry 0 1) (s.thrEntry 0 0 1) 5 = false) ∧
    (let s := armedState 0 0x8000000000000000 3 []; let r : Rooster := { part := 0, addr := 0, idx := 1, gen := 0, due := 0 }
     ({ s with laws := [(0, { s.getLaw 0 with rooster := List.replicate 2048 r })] } : State).roosterRoom (word1 s) = false) := by decide +kernel
theorem witness_LawAccessesDeliverACrossing :
    (let s := armedState 10 0x8000000000000000 0 []; let v := s.wordOf (word1 s); let e := s.lawEntry 0 v.law; let th := s.thrEntry 0 0 v.alarm
     atHandB s (s.x 10) (word1 s) ∧ s.swapped (word1 s) = false ∧ v.top = false ∧ e.valid = true ∧ th.valid = true ∧ v.armed = true ∧ v.fired = false ∧
     v.rearm = false ∧ s.nextCrossing (word1 s) e th (s.nowu 0 0 e) v = some 2 ∧ 2 ≤ s.nowu 0 0 e ∧ s.postRoom 0 = true) ∧
    (armedState 10 0x8000000000000000 0 (List.replicate 16 post0)).postRoom 0 = false := by decide +kernel
/-- A word of law 1 at stack node 0's first byte, in a registered region, as the core reaches it and as its law unit does. -/
def stackLaw (rooster : List Rooster) (now : Nat) : State :=
  let s := lawState 1 1 0 0 5 0 3 0x8000000000000000 0
  { s with cur := { s.cur with x := s.cur.x.set 10 globalA }, now := now
           mem := writeNat (writeNat [] (stackKey 0 0) 5 8) (stackKey 0 8) 0x0101010000000000 8
           dies := [(4, { tc := [page0 leafRwx] })], stks := [(0, { regs := [{ part := 0, base := globalA, nwords := 4 }] })]
           laws := [(4096, { thr := [(4, 3), (7, 0x8000000000000000)], rooster := rooster })] }
def stackWord : WordAt := { l := 4096, part := 0, addr := globalA, key := stackKey 0 0 }
def stackDue : Rooster := { part := 0, addr := globalA, idx := 1, gen := 0, due := 2 }
theorem witness_LawInstructionsActOnTheWord_stack :
    (let s := stackLaw [] 0; s.addrHeld (isSc s.focus) s.cur.part (s.x 10) = false ∧ youngest s.cur globalA.toNat 16 = none ∧
      (match s.lawPlace (s.x 10) with | .ok (w, some t) => decide (w = stackWord) && s.servesSite 0 t 0 (.atomic 0) false | _ => false) = true) ∧
    (let s := stackLaw [stackDue] 2; s.roosterIsDue 4096 stackDue = true ∧ s.wordBusy 4096 0 globalA = false ∧ s.wordAt 4096 0 globalA = some stackWord ∧
      (let v := s.wordOf stackWord; v.armed = true ∧ v.fired = false ∧ v.gen = 0 ∧ (s.lawEntry 0 v.law).valid = true ∧ v.top = false ∧ (s.thrEntry 4096 0 v.alarm).valid = true)) ∧
    (let s : State := { stackLaw [stackDue] 2 with dies := [] }; s.wordBusy 4096 0 globalA = false ∧ s.wordAt 4096 0 globalA = none) := by decide +kernel
/-- A phase threshold with REARM over an OSC word, whose entry is due. -/
theorem witness_LawUnitsPostAndSweep_rearm :
    (let s0 := lawState 3 0x0000000100000000 0 0 0 0x1101000000000000 0 0x8000000000000006 0
     let r : Rooster := { rooster0 0 0 with dist := 4, rate := 1 }
     let s : State := { s0 with laws := [(0, { thr := [(4, 0), (7, 0x8000000000000006)], rooster := [r] })] }
     let v := s.wordOf (word1 s)
     s.roosterIsDue 0 r = true ∧ v.armed = true ∧ v.fired = false ∧ v.gen = r.gen ∧ v.rearm = true ∧ (s.thrEntry 0 0 v.alarm).sel = true ∧ (s.thrEntry 0 0 v.alarm).valid = true ∧
       (s.lawEntry 0 v.law).valid = true ∧ v.top = false ∧ s.roosterOf (word1 s) = some r) ∧
    (let s := lawState 3 0x0000000100000000 0 0 0 0x0001000000000000 0 0x8000000000000006 257; let e := s.lawEntry 0 1; let th := s.thrEntry 0 0 1
     (s.x 11).toNat < 512 ∧ 256 ≤ (s.x 11).toNat ∧ th.valid = true ∧ th.sel = true ∧ e.kind = 3 ∧ th.thr.toNat / 2 ^ 32 = 0 ∧ thrMet e th 0 = false ∧
       (crossing e th 0).isSome = true ∧ s.roosterRoom (word1 s) = true) := by decide +kernel
theorem witness_LawFunctionsFollowTheirTables :
    lamOf 0x4000000000000000 = -2 ^ 62 ∧ lamOf 0x4100000000000000 = -63 * 2 ^ 56 ∧ lamOf 0x3F00000000000000 = 63 * 2 ^ 56 ∧ signOf 0xBF00000000000000 = 1 ∧
    oscLamOf 0x8000000000000000 = -2 ^ 31 ∧ oscLamOf 0x8200000080000000 = -63 * 2 ^ 25 ∧ oscPhiOf 0x82000000C0000000 = 1 * 2 ^ 31 + 2 ^ 30 ∧
    (0x8000000000000000#64).toInt = (-1) * 2 ^ 63 ∧ (0x4000000000000000#64).toInt = 2 ^ 62 ∧
    ((lawState 1 0 0 0 0 0 0 0 0).lawEntry 0 1).p1.toNat % 2 ^ 32 = 0 ∧ ((lawState 2 0 0 3 0 0 0 0 0).lawEntry 0 1).p1.toInt ≤ ((lawState 2 0 0 3 0 0 0 0 0).lawEntry 0 1).p2.toInt ∧
    (0x8000000080000000#64).toNat % 2 ^ 31 = 0 ∧ (0x8000000080000000#64).toNat / 2 ^ 32 % 2 ^ 31 = 0 ∧
    ((63 : Int) + 127).toNat * 2 ^ 23 = (0x5F000000#64).toNat ∧ (((-63) : Int) + 127).toNat * 2 ^ 23 = (0x20000000#64).toNat := by decide +kernel
/-- A due entry stays while its queue is full or its word's page waits; a suspended partition's post. -/
theorem witness_LawUnitsPostAndSweep_waits :
    (let s : State := { stackLaw [stackDue] 2 with dies := [(4, { walks := [{ part := 0, node := 0, offset := 0, gen := none, found := none }] })] }; s.wordBusy 4096 0 globalA = true) ∧
    (stackLaw [stackDue] 1).roosterIsDue 4096 stackDue = false ∧ (suspended.getPart post0.msg.part).suspended = true ∧ suspended.suspended 0 = true ∧
    (user.destUnit 0 (.core 2048)).isNone = true ∧ (msgB 3 1).kind = 3 := by decide +kernel
/-- Die 4 walks stack node 0's first page for another access. -/
def walkingPage (s : State) : State := { s with dies := [(4, { walks := [{ part := 0, node := 0, offset := 0, gen := none, found := none }] })] }
def placeErr (s : State) (a : Word) (need : Need) : Bool := match s.bankPlace a need with | .ok _ => false | .error _ => true
def fitsNot (s : State) (wf n xoff : Nat) : Bool := match s.bankPlace globalA .r with | .ok (_, _, t, _) => !bmvFits t wf 0 n xoff false | .error _ => false
theorem witness_BankInstructionsRefuse_homes :
    (let s := walkingPage (args globalA 1 0 0); s.bankNode globalA = none ∧ s.bankHeld globalA = true ∧ s.cur.wait = .none ∧ (s.x 11).toNat ≤ 1) ∧
    (bankState 0x0000010000000000 1 []).bankHeld globalA = false ∧
    (let d0 := 0x0000000000010000#64; let s := bmvState d0 (globalAddr 0xFF 0) 0 []
     s.localOperand 0 32 32 = none ∧ s.localPending 0 32 = false ∧ dwAt (s.localBytes 0 32) 8 = globalAddr 0xFF 0 ∧ bmvWord d0 (globalAddr 0xFF 0) 0 0 false = true ∧
       d0.toNat / 2 ^ 32 % 4 < 2 ∧ s.home 0 0xFF 0 = none) ∧
    (let d0 := 0x0000000200010000#64; let s : State := { bmvState d0 0 0 [] with dies := [] }
     bmvWord d0 0 0 0 false = true ∧ 2 ≤ d0.toNat / 2 ^ 32 % 4 ∧ s.bankHeld globalA = false ∧ placeErr s globalA .r = true) ∧
    (let d0 := 0x00000002000103E0#64; bmvWord d0 0 0 0 false = true ∧ (bmvState d0 0 0 []).bankHeld globalA = false ∧ fitsNot (bmvState d0 0 0 []) 2 1 31 = true) := by decide +kernel
theorem witness_BankCommandsAreTaken_delta :
    (let d0 := 0x0000000000010000#64; let d1 := 0x0100000000008000#64; let s := bmvState d0 d1 0 (heldPch [])
     s.bankNode d1 = none ∧ s.bankHeld d1 = false ∧ (match s.bankPlace globalA .r with
       | .ok (g, c, _, s1) => (match s1.translate 0 0 0x8000 1 .r with
         | .ok td => rowsFit td 512 1 && (s1.fill 0 0 0x8000).pchOf 0 td == some (g, c) && (s1.fill 0 0 0x8000).holds 0 g c
         | .error _ => false)
       | .error _ => false) = true) ∧
    (let s := handlerState 0; let h := handlerNat (s.handler 0 0); s.rangeWalks 0 (s.x 10) (max 1 (bexprSize (hFmt h))) = false ∧ s.bankHeld (s.x 10) = false ∧
      (bexprFrames s (s.x 10) 1 h).isSome = true) ∧
    (let s := handlerState 2; let h := handlerNat (s.handler 0 0); (bexprFrames s (s.x 10) 1 h).isSome = true) := by decide +kernel
theorem witness_VectorStoresWriteTheirElements_due : (∀ j, j < 32 → noWaiter (banks 7 0) 0 (elemAt (inRow 0x100 32) 7 j) (wholeBytes 7)) ∧
    (∀ j, j < 32 → (banks 7 0).dueOver (scratchKey 0 (elemAt (inRow 0x100 32) 7 j)) (wholeBytes 7) = false) ∧ user.cur.tile.put = [] :=
  ⟨fun j _ w h => (by cases h), by decide +kernel, rfl⟩
/-- An element is read ahead, is locked, or has an own write under way to it. -/
theorem witness_ElementsAreReadOneByOne : (let s := banks 2 2; s.spanPending 0x7E 2 = false ∧ s.lockedElem 0x7E 2 2 false = none ∧ wholeBytes (s.bankFmt 0x7F) = 2 ∧
      (byteRead (s.seeElem 0x7F) 0x7E) = byteRead s 0x7E) ∧
    (lockedAt 0x100 4).lockedElem 0x100 4 4 false ≠ none ∧
    ({ user with cur := { user.cur with journal := [(0, { st := .issued, addr := user.addrGeq 0 0 0x100, size := 8 })] } } : State).spanPending 0x100 4 = true := by decide +kernel
/-- The hypotheses `arrives` and `meets` of unit 0's access, as Bools. -/
def arrivesB (s : State) (a : Word) (n : Nat) : Bool := decide (youngest (s.getUnit 0) a.toNat n = none) && !s.walkHeld (s.getUnit 0).part (nodeOf a) (offOf a)
def meetsB (s : State) (a : Word) (n : Nat) (need : Need) (r : ReqId) (posted : Bool) : Bool :=
  match s.translate 0 (nodeOf a) (offOf a) n need with
  | .ok t => s.homeUp 0 t && s.servesSite 0 t 0 r posted && !s.dueOver (s.siteBase 0 t) n
  | .error _ => false
/-- The 128-byte line of an access translates beside it. -/
def lineB (s : State) (a : Word) (n : Nat) : Bool :=
  match s.translate 0 (nodeOf a) (offOf a / 128 * 128) 128 .r, s.translate 0 (nodeOf a) (offOf a) n .r with
  | .ok lt, .ok t => lt.home == t.home && (List.range n).all (fun i => s.siteKey 0 lt (a.toNat % 128 + i) == s.siteKey 0 t i)
  | _, _ => false
theorem witness_HomesAnswerLoads_answers :
    (let s := loading leafRwx none; arrivesB s globalA 8 ∧ meetsB s globalA 8 .r (.load 0) false ∧ lineB s globalA 8 ∧ globalA.toNat % 128 + 8 ≤ 128) ∧
    (let s : State := { loading leafRwx none with dies := [] }; arrivesB s globalA 8 ∧ forbidden s globalA 8 .r = false ∧ meetsB s globalA 8 .r (.load 0) false = false ∧
      isPeerNode (nodeOf globalA) = false ∧ (0, nodeOf globalA, offOf globalA / 65536) ∉ (s.getDie (s.nodeDie 0 (nodeOf globalA) (offOf globalA))).absent) ∧
    (let s : State := { loading leafRwx none with dies := [(4, { absent := [(0, 0, 0)] })] };
      (0, nodeOf globalA, offOf globalA / 65536) ∈ (s.getDie (s.nodeDie 0 (nodeOf globalA) (offOf globalA))).absent) ∧
    (let s : State := { loading leafRwx none with stks := [(0, { pch := [(0, { burst := some (7, 5) })] })] }; meetsB s globalA 8 .r (.load 0) false = false ∧ arrivesB s globalA 8) ∧
    arrivesB (walkingPage (loading leafRwx none)) globalA 8 = false ∧
    ((0x8000000000000000#64 : Word) - ({ loading leafX none with now := 1 } : State).atimeOf 0).toInt > 0 := by decide +kernel
theorem witness_JournalEntriesMoveAsTheirTableSays_walk :
    (let s := journalled leafRwx entry63 []; s.addrHeld false 0 globalA = false ∧ meetsB s globalA 8 .w (.store 0 63) true) ∧
    (let s := walkingPage (journalled leafRwx entry63 []); s.addrHeld false 0 globalA = true) ∧
    (let s : State := { journalled leafRwx entry63 [] with stks := [(0, { pch := [(0, { burst := some (7, 5) })] })] }; meetsB s globalA 8 .w (.store 0 63) true = false) := by decide +kernel
/-- A store to stack node 0 stands in its home's visibility queue at a time. -/
def visStack (t : Word) : Vis :=
  { port := 4100, src := 0, j := 1, part := 0, lid := 1, addr := globalA, data := 0x1122334455667788, size := 8, time := t, arrived := 0,
    site := some { home := .stack 0, node := 0, off := 0, leaf := leafRwx, z := 16 } }
theorem witness_TimedStoresEnterTheVisibilityQueue_stack :
    (let s : State := { user with now := 1000, dies := [(4, { clk := 1 })], vis := [visStack 1000] }; s.vis[0]? = some (visStack 1000) ∧
      (visStack 1000).time.toNat ≤ (s.atimeOf (4100 - 4096)).toNat ∧ (s.getStack 0).regs = [] ∧ (s.getStack 0).waiters = []) ∧
    (∀ i, i < 8 → ∀ i', i' < 8 → user.siteKey 0 { home := .stack 0, node := 0, off := 0, leaf := leafRwx, z := 16 } i =
      user.siteKey 0 { home := .stack 0, node := 0, off := 0, leaf := leafRwx, z := 16 } i' → i = i') ∧
    (let s := walkingPage (journalled leafRwx { entry63 with timed := true } []); s.timedBehind 0 (s.entry 0 63) = false ∧ s.addrHeld false 0 globalA = true) ∧
    (let s : State := { timedStore 1000 1 [] with blocked := [{ part := 0, key := user.entryKey 0 ((timedStore 1000 1 []).entry 0 0), src := 0, ord := 0 }] }
     s.blocked.any (fun b => b.key == s.entryKey 0 (s.entry 0 0) && decide (b.ord ≤ (s.entry 0 0).sent)) = true) := by decide +kernel
theorem witness_AcquiresAreGrantedInOrder_homes :
    (let s := acquiring .w (objWord false 0 5); let f := s.fill 0 0 0; arrivesB s globalA 8 ∧ f.walkHeld 0 0 0 = false ∧ translates f globalA 8 .rw ∧
      meetsB s globalA 8 .rw (.atomic 0) false) ∧
    ¬ (xheld (objWord true 0 5) = false ∧ nshare (objWord true 0 5) = 0) ∧ ((acquiring .x (objWord true 0 5)).getStack 0).waiters.length < 1024 := by decide +kernel
theorem witness_AtomicEnginesApplyARequest_homes :
    (let s := atEngine leafRwx globalA; s.walkHeld 0 0 0 = false ∧ meetsB s globalA 8 .rw (.atomic 0) false ∧ ((s.getStack 0).aeReqs.map (·.posted)) = [none]) ∧
    (let s := atEngine leafX globalA; s.walkHeld 0 0 0 = false) ∧
    (let s := atEngine leafRwx 0x7FFF8; s.dueOver (scratchKey 0 0x7FFF8) 8 = false) ∧
    (∀ i, i < 8 → ∀ i', i' < 8 → stackKey 0 i = stackKey 0 i' → i = i') := by decide +kernel
theorem witness_LocalLoadsReturnTheirBytes_due :
    ({ user with now := 5, vis := [{ vis0 5 with size := 8 }] } : State).dueOver (scratchKey 0 0x100) 8 = true ∧ user.dueOver (scratchKey 0 0x100) 8 = false := by decide +kernel
theorem witness_GlobalAtomicsGoToTheirHome_walk :
    (walkingPage (xs [(10, globalA), (11, 1)] userUnit |> core0)).walkHeld 0 0 0 = true ∧ (paged leafRwx userUnit).walkHeld 0 0 0 = false ∧ user.walkHeld 0 0 0 = false := by decide +kernel
/-- Core 5 kills the launch of core 0, whose queue's tag finds its law unit's posts full; core 0 left to end after its partition's resume. -/
theorem witness_KillAnswersAtKillDone_waits :
    (let s := (abandoning 8 (List.replicate 16 { post0 with msg := { msg0 with lid := 9 } })).setUnit 5 { userUnit with priv := .s, wait := .killing true }
     (s.getUnit 5).wait = .killing true ∧ s.bankBusy (s.killCtx 5 true) = false ∧ (s.killAll (s.killCtx 5 true)).isNone = true) ∧
    (let s := (abandoning 8 (List.replicate 16 { post0 with msg := { msg0 with lid := 9 } })).setUnit 0 { owing with run := .frozen 0x21 }
     (s.getUnit 0).wait = .none ∧ (s.getUnit 0).run = .frozen 0x21) ∧
    (let s := user.setUnit 0 { userUnit with run := .frozen 0x21 }; (s.getUnit 0).wait = .none ∧ (s.endOther 0).isSome = true) := by decide +kernel
/-- Host 0 owns the device and stores to a granted aperture; no host owns it. -/
theorem witness_AperturesStartTemplates_owned :
    (let s : State := { templated 4 with dev := { own := some 0 } }; s.ownerLink (s.decided 0 s.ringLink) = true ∧ s.grantedRange 0 0 (0x1004000 + 8 * 7) 8 false true = true ∧
      (s.formTempl 0 0 none 1 63 0 0 0).isSome = true) ∧ (templated 4).ownerLink ((templated 4).decided 0 (templated 4).ringLink) = false := by decide +kernel
theorem witness_TransfersMoveTheirBytes_due :
    (engineState (op0 (.csrwalk (walk0 2 (some (1, 3))))) [(0, 0x0000000300000001)]).dueOver (scratchKey 1 0x200) 8 = false ∧
    allDone { op0 (.copy (copy0 1 1)) with done := [(0, 5)], cmpl := 2 } = true ∧
    allDone { op0 (.copy { copy0 1 1 with count := 200 }) with done := [(0, 128)], cmpl := 3 } = false ∧
    chunkDone { op0 (.copy { copy0 1 1 with count := 200 }) with done := [(0, 128)], cmpl := 3 } 0 = true := by decide +kernel
/-- A registration with an armed word whose threshold is met, and a law unit whose posts are full. -/
def registering (posts : List Post) : State :=
  { stackState leafRwx [swreg0 true] [] [{ part := 0, base := globalA, nwords := 4 }] with
    parts := [(0, { laws := [(4, 0x8000000000000002), (5, 1), (6, 0x8000000000000000), (7, 0x7FFFFFFFFFFFFFFF)] })]
    laws := [(4096, { thr := [(4, 0x8000000000000000), (7, 0x8000000000000002)], posts := posts })]
    mem := writeNat [] (stackKey 0 8) 0x0101010000000000 8 }
def evaluates (s : State) : Bool := match s.translate 0 0 0 16 .rw with
  | .ok w => ((s.dropTickets (.swreg 0) 0 [(globalA, 16)]).evalRaw 1 { l := 4096, part := 0, addr := globalA, key := s.siteBase 0 w }).isSome
  | .error _ => true
theorem witness_StackEnginesRun_words :
    evaluates (registering []) = true ∧ (registering []).rangesServe (.swreg 0) 0 [(globalA, 16)] = true ∧ nextElem (swreg0 true) = some 0 ∧
    evaluates (registering (List.replicate 16 post0)) = false ∧
    (let s := stackState leafRwx [] [red0] []
     (match s.translate 0 0 4 4 .w with | .ok w => !s.dueOver (s.siteBase 0 w) 4 && (List.range 4).all (fun j => (List.range 4).all (fun k => j == k || s.siteKey 0 w j != s.siteKey 0 w k)) | .error _ => false) = true) := by decide +kernel
theorem witness_BanksAndBursts_calm :
    (∀ w ∈ ((bankState 0 1 (heldPch [bmvCmd])).getStack 0).waiters, w.loc / 256 % 128 ≠ 0) ∧
    (let s := bankState 0 1 [(0, { allbank := true, holder := some (0, 0), cmds := [bexprCmd], burst := some (0, 5) })]
     s.dueOver (s.siteKey 0 { home := .stack 0, node := 0, off := 0, leaf := 0x5800000000000C00, z := 16 } 0) 8 = false) ∧
    (let t : Ticket := { num := 3, turn := 3, pch := 16, src := 5, req := .load 5, sent := 0 }
     let s : State := { user with now := 4095, clusters := [(0, { tickets := [t] })], parts := [(1, { suspended := true })] }
     ¬ awake s (16 / 16) ∧ awake { s with parts := [] } 1 ∧ s.now < (s.getPart 1).resumed + 4096 ∧ ¬ (4096 < (({ s with parts := [] } : State).getPart 1).resumed + 4096)) := by
  unfold awake; decide +kernel
/-- A retired device; ids given out before. -/
theorem witness_TheDispatcherAnswersRecords_retired :
    ({ handed 256 with dev := { lcs := 3 } } : State).dev.lcs = LCS_RETIRED ∧ (handed 256).dev.lcs ≠ LCS_RETIRED ∧
    nextFree (handed 256) 0 1 ∧ nextFree { handed 256 with parts := [(0, { lastLid := 255, launches := [launch1] })] } 0 2 ∧
    nextFree { handed 256 with parts := [(0, { lastLid := 254, launches := [launch1] })] } 0 255 :=
  ⟨rfl, by decide +kernel, ⟨0, by decide, by decide +kernel, rfl, by omega⟩,
   ⟨1, by decide, by decide +kernel, rfl, fun j h => by
      obtain rfl : j = 0 := by omega
      decide +kernel⟩, ⟨0, by decide, by decide +kernel, rfl, by omega⟩⟩
theorem witness_ResidencyIsChecked_walks :
    (let s := ranged leafRwx true { launch1 with st := .residency } []; ∀ x ∈ s.launchPages 0 { rec1 with ranges := [{ addr := globalA, w := true, len := 8 }] }, s.walkHeld 0 x.1 x.2.1 = false) ∧
    (let s := walkingPage (ranged leafRwx true launch1 []); ∃ x ∈ s.launchPages 0 { rec1 with ranges := [{ addr := globalA, w := true, len := 8 }] }, s.walkHeld 0 x.1 x.2.1 = true) ∧
    (let s := ranged leafX true { launch1 with started := true, asked := [globalA] } []
     (s.launchPages 0 { rec1 with ranges := [{ addr := globalA, w := true, len := 8 }] }).any (fun x => globalAddr x.1 x.2.1 == globalA && (s.translate 0 x.1 x.2.1 x.2.2.1 x.2.2.2).toOption.isSome) = false) := by decide +kernel
theorem witness_LaunchesAdvanceAndComplete_meets :
    (let s := ending (.completing 4) globalA []; s.walkHeld 0 0 0 = false ∧ meetsB s globalA 8 .rw (.atomic (cmplSrc 0 1)) false) := by decide +kernel
theorem witness_OrderLogRecordsAreWritten_held :
    (let s := logging 0x0100000000000004 0 0 [] []; s.rangeHeld 0 (BitVec.ofNat 64 ((0x0100000000000004#64).toNat / 4096 * 4096)) 4096 = false) ∧
    (let s := walkingPage (logging 0x0100000000000004 0 0 [] []); s.rangeHeld 0 (BitVec.ofNat 64 ((0x0100000000000004#64).toNat / 4096 * 4096)) 4096 = true) := by decide +kernel
theorem witness_ClustersChangePointAndCoresPowerDown_closing :
    (let s := (powered { goal := some 2 } 8000).setUnit 2047 { wait := .load globalA 8 none }; dueSwitch (s.getCluster 127).pwr = some 2 ∧
      s.clusters = [(127, s.getCluster 127)] ∧ s.inFlight 127 = true) ∧
    (let s := (powered { goal := some 2 } 8000).setUnit 2047 { journal := [(1, { st := .issued, timed := true, addr := globalA })] }; s.inFlight 127 = true) ∧
    (let s := powered { goal := some 2 } 8000; s.quiesce 127 = true ∧ s.clusters = [(127, s.getCluster 127)] ∧ s.inFlight 127 = false ∧ s.vis = [] ∧ s.units.all (fun kv => kv.2.journal.isEmpty)) ∧
    (let s := powered { goal := some 2 } 8000; let r := { s with vis := [{ vis0 8003 with port := 2047 }] }; r.quiesce 127 = false ∧ r.inFlight 127 = false) ∧
    (let s := freeCore (launchB 1 0 1 5) [{ part := 0, lid := 1, wid := 4 }] []
     let r := fun (now : Nat) (x : Option Nat) => ({ s with cur := { s.cur with powered := false, closing := x }, now := now } : State)
     ((r 0 none).getUnit 0).closing = none ∧ ((r 807 (some 7)).getUnit 0).closing = some 7 ∧ 7 + 800 ≤ (r 807 (some 7)).now ∧ (r 806 (some 7)).now < 7 + 800 ∧ (r 0 none).coreFree 0 = true) := by decide +kernel
theorem witness_PowerRegistersAndBudget_root :
    (let d : List (Nat × Nat) := [(4096, 300000), (0, 250)]; ((List.range 4).map (dieDemand d)).sum + 300000 ≤ 2800000) ∧
    (let d : List (Nat × Nat) := [(4096, 2800001)]; 2800000 < ((List.range 4).map (dieDemand d)).sum + 2800001) := by decide +kernel
/-- The engine operation at the head of channel 7 of cluster 0 copies from behind the lost peer link 11; a bridge on which only that engine's access waits. -/
def linkedEngine (choice : List Nat) (link : Nat) : State :=
  { linked (some 9) (10 + 2 ^ 20) with clusters := [(0, { chans := [(7, [op0 (.copy { copy0 1 1 with src := 0x01A0000000000100 })])] })], choice := choice
                                       dev := { links := [(link, some 9)] } }
theorem witness_LinksGoDownAndAreLost_engines :
    (let s := linkedEngine [] 13; EngineQueue.chan 0 7 ∈ s.engineQueues ∧ (match s.engineHead (.chan 0 7) with
      | some o => o.fail.isNone && ((headRanges o).find? (fun r => s.crosses 13 (engineSrc (.chan 0 7)) o.part r.1)).isSome | none => false) = true) ∧
    (let s := linkedEngine [16384] 29; look link0 s.dev.links 29 = some 9 ∧ (match s.engineHead (.chan 0 7) with
      | some o => ((headRanges o).find? (fun r => s.crosses 29 (engineSrc (.chan 0 7)) o.part r.1)).isSome | none => false) = true) ∧
    (let s : State := { linked (some 9) 0 with choice := [0] }; waitAddr (s.getUnit 0) = some 0x01A0000000000008 ∧ s.crosses 14 0 0 0x01A0000000000008 = true ∧ s.crosses 14 5 0 0x01A0000000000008 = false) ∧
    waitAddr { userUnit with wait := .retry globalA } = some globalA ∧ waitAddr { userUnit with pc := globalA } = some globalA := by decide +kernel
theorem witness_GangsStopAreEvictedAndResume_refusal :
    plainWait (.atomic { op := .add, returning := true, wide := true, addr := globalA, b := 1, src := 0, part := 0, lid := 1, fid := 3 }) ∧
    (let sw := sw0 50 (some 60) []
     let s : State := { switching [sw] { userUnit with run := .stopped true, firing := {}, journal := [(63, { st := .issued, stage := .refusal 3, part := 0 })] } [{ part := 0, since := 50 }] 100 with flights := [] }
     let e := look jentry0 s.cur.journal 63
     s.switches = [sw] ∧ sw.stopped = some 60 ∧ sw.evict = [] ∧ sw.noin = false ∧ sw.tin ≤ (s.atimeOf 0).toNat ∧ sw.ctxIn = 0 ∧
       s.saved.find? (fun v => v.part == sw.inP) = some { part := 0, since := 50 } ∧ s.pens = {} ∧ s.flights = [] ∧ s.replies = [] ∧ s.laws = [] ∧
       (∀ kv ∈ s.units, kv.2.part = sw.inP ∨ kv.2.part = 16 → kv.2.firing.lid = 0) ∧ s.cur.part = sw.inP ∧ s.cur.run = .stopped true ∧
       e.st = .issued ∧ e.stage = .refusal 3 ∧ e.part = sw.inP) ∧
    (∀ kv ∈ (switching [sw0 50 (some 60) []] userUnit [{ part := 0, since := 50 }] 100).units, kv.2.journal = []) :=
  ⟨.inr (.inr (.inr (.inr ⟨_, rfl⟩))), by decide +kernel, by decide +kernel⟩
/-- The claim of link l's master stands in its mailbox since the given tick. -/
def claiming (l a : Nat) (d : Device) : State :=
  let m : Mailbox := { dw := [(0, 7)] ++ (if l = 0 then [] else [(1, 1)]), asked := true, arrived := a }
  { user with dev := d, now := 9, parts := [(0, if l = 0 then { mail0 := m } else { mail1 := m })] }
theorem witness_OwnershipIsClaimedAndHandedOver_order :
    (let s := claiming 0 8 {}; s.dev.own = none ∧ (let x := mailbox (s.getPart 0) 0; x.asked = true ∧ look word0 x.dw 0 = 7 ∧ look word0 x.dw 1 = BitVec.ofNat 64 0 ∧
        (∀ i, i < 5 → look word0 x.dw (i + 2) = 0) ∧ x.arrived = 8 ∧ x.arrived < s.now) ∧ s.claimEarly (.mailbox 0 0) = false ∧ (s.askedArgs (.mailbox 0 0) 7).isSome) ∧
    (let s := claiming 1 9 {}; let x := mailbox (s.getPart 0) 1; x.asked = true ∧ look word0 x.dw 0 = 7 ∧ look word0 x.dw 1 = BitVec.ofNat 64 1 ∧ (∀ i, i < 5 → look word0 x.dw (i + 2) = 0) ∧ s.now ≤ x.arrived ∧ s.claimEarly (.mailbox 0 1) = true) ∧
    (let s := claiming 0 8 { own := some 1, claimed := some 9 }; s.dev.own = some 1 ∧ s.dev.claimed = some 9) := by decide +kernel
theorem witness_ServicesAnswerAndWriteTables_waits :
    (claiming 0 8 {}).claimEarly (.mailbox 0 0) = false ∧ (claiming 0 9 {}).claimEarly (.mailbox 0 0) = true ∧
    (asking 8 [0x40, 0x80] {} {}).ptrHeld 0 (ptrOf (.mailbox 0 0) 0x40) Config.attestNonce = false := ⟨by decide +kernel, by decide +kernel, rfl⟩
theorem witness_ShootDownsAndAttestation_units :
    (let s := core0 (xs [(17, 2), (10, globalAddr 0x10 0)] { userUnit with wait := .service }); (s.askedArgs (.unit 0) 2).isSome ∧ nodeOf (globalAddr 0x10 0) = 0x10 ∧
      s.rangeHeld 0 (globalAddr 0x10 0) 32 = false ∧ (8 ≤ 0x10 ∧ 0x10 ≠ 0x90 ∧ 0x10 ≠ 0x91) ∧ (0 : Nat) < 2048) ∧
    (nodeOf globalA < 8 ∧ n0 [0x1000] 0 / 2 ^ 56 ≠ 1) ∧
    (let s : State := { mgmt with cur := xs [(17, 2), (10, globalA)] { mgmt.cur with wait := .service } }; (s.askedArgs (.unit 2304) 2).isSome ∧ s.rangeHeld (s.getUnit 2304).part globalA 32 = false) := by decide +kernel
theorem witness_HostRingsAndRegisters_turn :
    postsNext (ringing [rec0] [rec0] 4 8) 0 ∧ postsNext (ringing [] [rec0] 1 0xFFFF00000000) 0 ∧ postsNext (ringing [] [rec0] 4 8) 0 ∧
    ((ringing [] [] 4 8).postOne 0).isNone = true ∧
    (let r : FaultRec := { rec0 with held := true, place := some 127 }; r ∈ ((ringing [r] [] 4 8).getPart 0).terminal.waiting ++ ((ringing [r] [] 4 8).getPart 0).retry.waiting ∧ r.held = true ∧ 0xC000 ≤ r.unit ∧ r.place = some 127) ∧
    (let r : FaultRec := { rec0 with held := true, unit := 0x80FF }; 0x8000 ≤ r.unit ∧ r.unit < 0xC000 ∧ 135 = 128 + (r.unit - 0x8000) / 32 % 8) ∧ (127 = 0x7FF / 16 % 128) :=
  have turn : ∀ s : State, s.dev.served = 15 → s.postOne 0 ≠ none → postsNext s 0 := fun s h1 h => ⟨0, by decide, by simp [h1], h, by omega⟩
  ⟨turn _ (by decide +kernel) (by decide +kernel), turn _ (by decide +kernel) (by decide +kernel), turn _ (by decide +kernel) (by decide +kernel), by decide +kernel, by decide +kernel, by decide, by decide⟩
theorem witness_AStepRunsTheDecodedInstruction_elapse :
    (∀ kv ∈ user.clusters, dueSwitch kv.2.pwr = none) ∧
    (let s : State := { user with agenda := [.element 0 0x100 true, .pass 3] }; (State.flushDue (s.elapse s.pace)).agenda = .element 0 0x100 true :: [.pass 3] ∧
      ((State.flushDue (s.elapse s.pace)).refocus 0).standsStill = false) := by decide +kernel

end Sys2Proof.Tests
end

section
/-! PROOF. The clocks of the dies (R29-R34): how far an atime can slew, what an exchange leaves of a die, and O19. -/

namespace Sys2Proof.Clocks
open Sys2Proof.Machine Sys2Proof.Claim

-- the slewing clock (R29)

/-- In m ticks the correction that has been applied grows by the 1,024th part of m, rounded up, at most. -/
theorem slewSteps_bound (f n m : Nat) :
    (n - f) / 1024 ≤ (n + m - f) / 1024 ∧ (n + m - f) / 1024 ≤ (n - f) / 1024 + (m + 1023) / 1024 := by omega
theorem skewAt_slewBound (x : Die) (n m : Nat) : (skewAt x (n + m) - skewAt x n).natAbs ≤ (m + 1023) / 1024 := by
  obtain ⟨hlo, hhi⟩ := slewSteps_bound x.slewFrom n m
  simp only [skewAt]
  split <;> omega
theorem atime_monotone (x : Die) (n m : Nat) : (n : Int) + skewAt x n ≤ ((n + m : Nat) : Int) + skewAt x (n + m) := by
  have h := skewAt_slewBound x n m
  omega

-- steps that write one die

theorem onlyDies_refl (s : State) : onlyDies s s := rfl
theorem onlyDies_setDie {s t : State} (d : Nat) (x : Die) (h : onlyDies s t) : onlyDies s (t.setDie d x) := by
  unfold onlyDies at h ⊢
  rw [h]
  rfl
theorem dieIs_setDie (s : State) (d : Nat) (x : Die) : dieIs s (s.setDie d x) d x :=
  ⟨by simp [getDie_setDie], fun e he => by simp [getDie_setDie, he]⟩

-- PEER_LOCK of every die (R32)

/-- PEER_LOCK of the dies of a list. -/
def lockPeers (b : Bool) (l : List Nat) (s : State) : State := l.foldl (fun t d => t.setDie d { t.getDie d with peerLock := b }) s
theorem setPeerLock_eq (s : State) (b : Bool) : s.setPeerLock b = lockPeers b (List.range 12) s := rfl
theorem onlyDies_lockPeers {s : State} (b : Bool) (l : List Nat) : ∀ {t : State}, onlyDies s t → onlyDies s (lockPeers b l t) := by
  induction l with
  | nil => exact fun h => h
  | cons d l ih => exact fun h => ih (onlyDies_setDie d _ h)
theorem getDie_lockPeers (b : Bool) (e : Nat) (l : List Nat) (s : State) :
    (lockPeers b l s).getDie e = if e ∈ l then { s.getDie e with peerLock := b } else s.getDie e := by
  induction l generalizing s with
  | nil => rfl
  | cons d l ih =>
    show (lockPeers b l (s.setDie d _)).getDie e = _
    rw [ih, getDie_setDie]
    by_cases hd : e = d
    · subst hd; simp
    · simp [hd]
theorem onlyDies_setPeerLock {s t : State} (b : Bool) (h : onlyDies s t) : onlyDies s (t.setPeerLock b) := onlyDies_lockPeers b _ h
theorem getDie_setPeerLock (s : State) (b : Bool) {e : Nat} (he : e < 12) :
    (s.setPeerLock b).getDie e = { s.getDie e with peerLock := b } := by
  rw [setPeerLock_eq, getDie_lockPeers, if_pos (List.mem_range.mpr he)]

-- the Bellwether is a compute die (R30)

theorem firstBelow_lt (f : Nat → Bool) (n k i : Nat) (h : firstBelow f n k = some i) : i < k + n := by
  induction n generalizing k with
  | zero => cases h
  | succ n ih =>
    unfold firstBelow at h
    split at h
    · cases h; omega
    · have := ih _ h; omega
theorem bellDie_lt (s : State) : s.bellDie < 12 := by
  unfold State.bellDie
  cases h : firstBelow (fun d => (s.getDie d).bell) 4 0 with
  | none => simp
  | some i => have := firstBelow_lt _ _ _ _ h; simp; omega

-- an exchange with the master (R31, R32)

/-- Where a good exchange makes die d slew: a die with a master to it, carried off by the drift; the Bellwether stays (log 72). -/
def exchangeGoal (s : State) (d : Nat) (drift : Int) : Int :=
  if (s.getDie d).bell then (s.getDie d).goal else s.clampSkew d (skewAt (s.getDie (s.masterDie d)) s.now + drift)
/-- What every good exchange leaves of die d, whatever state its clock takes. -/
def exchanged (s : State) (d : Nat) (drift : Int) : Die :=
  { slewTo (s.getDie d) s.now (exchangeGoal s d drift) with missed := 0, offset := s.measured d, lastGood := s.now, lastTry := s.now }
/-- Die d aligned with its master at its first lock, never backwards. -/
def aligned (s : State) (d : Nat) (drift : Int) : Die :=
  { exchanged s d drift with skew := max (skewAt (s.getDie d) s.now) (skewAt (s.getDie (s.masterDie d)) s.now) }

/-- What decides whether a clock keeps the bound of R30: where it stands now and where it slews to. -/
theorem inBand_congr (s : State) (d : Nat) {x y : Die} (hnow : skewAt x s.now = skewAt y s.now) (hgoal : x.goal = y.goal) :
    s.inBand d x = s.inBand d y := by
  simp only [State.inBand, skewEnds, hnow, hgoal]

section
variable (s : State) (d : Nat) (drift : Int)

/-- R31: an offset above 6 unsettles. -/
theorem goodExchange_far (ho : 6 < (s.measured d).natAbs) :
    s.goodExchange d drift = { exchanged s d drift with clk := 0, goodRun := 0 } := if_pos ho
/-- R31: a good exchange within 6 ticks settles a die that is not UNSETTLED. -/
theorem goodExchange_settled (ho : (s.measured d).natAbs ≤ 6) (hc : s.clkState d ≠ 0) :
    s.goodExchange d drift = { exchanged s d drift with clk := 1, goodRun := 0 } :=
  (if_neg (by omega)).trans (if_neg hc)
/-- R31: the first good exchange of an UNSETTLED die is counted. -/
theorem goodExchange_first (ho : (s.measured d).natAbs ≤ 6) (hc : s.clkState d = 0) (hg : (s.getDie d).goodRun = 0) :
    s.goodExchange d drift = { exchanged s d drift with clk := 0, goodRun := 1 } := by
  have one : ¬ 2 ≤ (s.getDie d).goodRun + 1 := by omega
  refine (if_neg (by omega)).trans ((if_pos hc).trans ((if_neg fun h => one h.1).trans ?_))
  simp only [hg]
  rfl
/-- R31: the second good exchange in a row settles an UNSETTLED die that has been SETTLED before, once it keeps the bound of R30. -/
theorem goodExchange_again (ho : (s.measured d).natAbs ≤ 6) (hc : s.clkState d = 0) (hg : 1 ≤ (s.getDie d).goodRun)
    (hl : (s.getDie d).locked = true ∨ (s.getDie d).bell = true) :
    s.goodExchange d drift = if s.inBand d (exchanged s d drift) then { exchanged s d drift with clk := 1, goodRun := 0, locked := true }
      else { exchanged s d drift with clk := 0, goodRun := (s.getDie d).goodRun + 1 } := by
  have two : 2 ≤ (s.getDie d).goodRun + 1 := by omega
  refine (if_neg (by omega)).trans ((if_pos hc).trans ?_)
  simp only [if_pos hl, two, true_and]
  rfl
/-- R31: the second good exchange in a row aligns a die that has never been SETTLED and settles it, once it keeps the bound of R30. -/
theorem goodExchange_firstLock (ho : (s.measured d).natAbs ≤ 6) (hc : s.clkState d = 0) (hg : 1 ≤ (s.getDie d).goodRun)
    (hl : (s.getDie d).locked = false) (hb : (s.getDie d).bell = false) :
    s.goodExchange d drift = if s.inBand d (aligned s d drift) then { aligned s d drift with clk := 1, goodRun := 0, locked := true }
      else { exchanged s d drift with clk := 0, goodRun := (s.getDie d).goodRun + 1 } := by
  have two : 2 ≤ (s.getDie d).goodRun + 1 := by omega
  have never : ¬ ((s.getDie d).locked = true ∨ (s.getDie d).bell = true) := by simp [hl, hb]
  refine (if_neg (by omega)).trans ((if_pos hc).trans ?_)
  simp only [if_neg never, two, true_and]
  rfl

/-- Whatever the case, only the clock's state and its alignment go beyond what every good exchange leaves; a die that has been SETTLED is
not aligned again. -/
theorem goodExchange_form : ∃ skew clk goodRun locked,
    s.goodExchange d drift = { exchanged s d drift with skew := skew, clk := clk, goodRun := goodRun, locked := locked } ∧
    ((s.getDie d).locked = true → locked = true ∧ skew = skewAt (s.getDie d) s.now) := by
  by_cases ho : (s.measured d).natAbs ≤ 6
  · by_cases hc : s.clkState d = 0
    · by_cases hg : (s.getDie d).goodRun = 0
      · exact ⟨_, _, _, _, goodExchange_first s d drift ho hc hg, fun h => ⟨h, rfl⟩⟩
      · have hg : 1 ≤ (s.getDie d).goodRun := by omega
        by_cases hl : (s.getDie d).locked = true ∨ (s.getDie d).bell = true
        · rw [goodExchange_again s d drift ho hc hg hl]
          split
          · exact ⟨_, _, _, _, rfl, fun _ => ⟨rfl, rfl⟩⟩
          · exact ⟨_, _, _, _, rfl, fun h => ⟨h, rfl⟩⟩
        · simp only [not_or, Bool.not_eq_true] at hl
          obtain ⟨hl, hb⟩ := hl
          rw [goodExchange_firstLock s d drift ho hc hg hl hb]
          split
          · exact ⟨_, _, _, _, rfl, fun h => by simp [hl] at h⟩
          · exact ⟨_, _, _, _, rfl, fun h => by simp [hl] at h⟩
    · exact ⟨_, _, _, _, goodExchange_settled s d drift ho hc, fun h => ⟨h, rfl⟩⟩
  · exact ⟨_, _, _, _, goodExchange_far s d drift (by omega), fun h => ⟨h, rfl⟩⟩
/-- R31, R32: what a good exchange leaves of a die in every case. -/
theorem goodExchange_fields :
    let x := s.getDie d
    let y := s.goodExchange d drift
    y.missed = 0 ∧ y.offset = s.measured d ∧ y.lastGood = s.now ∧ y.lastTry = s.now ∧ y.tc = x.tc ∧ y.bell = x.bell ∧
      y.peerLock = x.peerLock ∧ y.goal = exchangeGoal s d drift ∧ y.slewFrom = s.now ∧
      (x.locked = true → y.locked = true ∧ y.skew = skewAt x s.now) := by
  obtain ⟨skew, clk, goodRun, locked, form, aligns⟩ := goodExchange_form s d drift
  dsimp only
  rw [form]
  exact ⟨rfl, rfl, rfl, rfl, rfl, rfl, rfl, rfl, rfl, aligns⟩
/-- R31: the second good exchange of a die that has been SETTLED before, said of the die that it leaves. -/
theorem goodExchange_again_clk (ho : (s.measured d).natAbs ≤ 6) (hc : s.clkState d = 0) (hg : 1 ≤ (s.getDie d).goodRun)
    (hl : (s.getDie d).locked = true ∨ (s.getDie d).bell = true) :
    let y := s.goodExchange d drift
    y.skew = skewAt (s.getDie d) s.now ∧ y.clk = if s.inBand d y then 1 else 0 := by
  have band : ∀ clk goodRun locked, s.inBand d { exchanged s d drift with clk := clk, goodRun := goodRun, locked := locked } =
      s.inBand d (exchanged s d drift) := fun _ _ _ => inBand_congr s d rfl rfl
  dsimp only
  rw [goodExchange_again s d drift ho hc hg hl]
  by_cases h : s.inBand d (exchanged s d drift) = true
  · simp only [if_pos h, band, and_true]; rfl
  · simp only [if_neg h, band, and_true]; rfl
/-- R31: the second good exchange of a die that has never been SETTLED, said of the die that it leaves. -/
theorem goodExchange_firstLock_clk (ho : (s.measured d).natAbs ≤ 6) (hc : s.clkState d = 0) (hg : 1 ≤ (s.getDie d).goodRun)
    (hl : (s.getDie d).locked = false) (hb : (s.getDie d).bell = false) :
    let y := s.goodExchange d drift
    (s.inBand d (aligned s d drift) = true → y.clk = 1 ∧ y.locked = true ∧ y.skew = (aligned s d drift).skew) ∧
      (s.inBand d (aligned s d drift) = false → y.clk = 0 ∧ y.skew = skewAt (s.getDie d) s.now) := by
  dsimp only
  rw [goodExchange_firstLock s d drift ho hc hg hl hb]
  refine ⟨fun h => ?_, fun h => ?_⟩ <;> rw [h]
  · exact ⟨rfl, rfl, rfl⟩
  · exact ⟨rfl, rfl⟩
end

/-- R31: two exchanges missed in a row take a SETTLED die to HOLDOVER, and no other. -/
theorem missedExchange_clk (x : Die) (now : Nat) :
    (x.clk = 1 → 1 ≤ x.missed → (missedExchange x now).clk = 2) ∧
    (x.clk ≠ 1 ∨ x.missed = 0 → (missedExchange x now).clk = x.clk) := by
  refine ⟨fun hc hm => if_pos ⟨hc, by omega⟩, fun h => if_neg fun ⟨hc, hm⟩ => ?_⟩
  omega

section
variable {s : State} {d : Nat} (good : Bool) (drift : Int)

theorem exec_clockExchange_nowhere (hd : 12 ≤ d) : nowhere (.clockExchange d good drift) d s := if_pos hd
theorem exec_clockExchange_early (hd : d < 12) (h : s.now < (s.getDie d).lastTry + 65536) : exec (.clockExchange d good drift) s = .next s :=
  (if_neg (by omega)).trans (if_pos h)
theorem exec_clockExchange_due (hd : d < 12) (h : (s.getDie d).lastTry + 65536 ≤ s.now) :
    exec (.clockExchange d good drift) s =
      .next (s.setDie d (if good then s.goodExchange d drift else missedExchange (s.getDie d) s.now)) :=
  (if_neg (by omega)).trans (if_neg (by simp only [exchangeTicks]; omega))

theorem exec_holdoverExpiry_nowhere (hd : 12 ≤ d) : nowhere (.holdoverExpiry d) d s := if_pos hd
theorem exec_holdoverExpiry_expired (hd : d < 12) (h : (s.getDie d).clk = 2 ∧ (s.getDie d).lastGood + 2 ^ 22 ≤ s.now) :
    exec (.holdoverExpiry d) s = .next (s.setDie d { s.getDie d with clk := 0, goodRun := 0 }) :=
  (if_neg (by omega)).trans (if_pos h)
theorem exec_holdoverExpiry_lasting (hd : d < 12) (h : ¬ ((s.getDie d).clk = 2 ∧ (s.getDie d).lastGood + 2 ^ 22 ≤ s.now)) :
    exec (.holdoverExpiry d) s = .next s :=
  (if_neg (by omega)).trans (if_neg h)
theorem clkState_expired (h : (s.getDie d).clk = 2 ∧ (s.getDie d).lastGood + 2 ^ 22 ≤ s.now) : s.clkState d = 0 := if_pos h
theorem clkState_lasting (h : ¬ ((s.getDie d).clk = 2 ∧ (s.getDie d).lastGood + 2 ^ 22 ≤ s.now)) : s.clkState d = (s.getDie d).clk := if_neg h
end

-- an exchange with the grandmaster (R34)

/-- The Bellwether after a good exchange with the grandmaster. -/
def disciplined (s : State) (offset : Int) : Die :=
  { slewTo (s.getDie s.bellDie) s.now (s.clampSkew s.bellDie (skewAt (s.getDie s.bellDie) s.now - offset)) with peerTry := s.now, peerMissed := 0 }
/-- The Bellwether after a missed one. -/
def undisciplined (s : State) : Die :=
  { s.getDie s.bellDie with peerTry := s.now, peerMissed := (s.getDie s.bellDie).peerMissed + 1 }
/-- The device after a missed exchange: the second in a row clears PEER_LOCK (log 84). -/
def afterMissedPeer (s : State) : State :=
  if 1 ≤ (s.getDie s.bellDie).peerMissed then (s.setDie s.bellDie (undisciplined s)).setPeerLock false else s.setDie s.bellDie (undisciplined s)

theorem onlyDies_afterMissedPeer (s : State) : onlyDies s (afterMissedPeer s) := by
  have h : onlyDies s (s.setDie s.bellDie (undisciplined s)) := onlyDies_setDie _ _ (onlyDies_refl s)
  unfold afterMissedPeer
  split
  · exact onlyDies_setPeerLock _ h
  · exact h
/-- A die's PEER_LOCK after a missed exchange; what else it holds is as the exchange left it. -/
theorem getDie_afterMissedPeer (s : State) {e : Nat} (he : e < 12) :
    (afterMissedPeer s).getDie e = { (if e = s.bellDie then undisciplined s else s.getDie e) with
      peerLock := if 1 ≤ (s.getDie s.bellDie).peerMissed then false else (s.getDie e).peerLock } := by
  unfold afterMissedPeer
  split
  · rw [getDie_setPeerLock _ _ he, getDie_setDie]
  · rw [getDie_setDie]
    by_cases hb : e = s.bellDie
    · subst hb; simp only [if_true]; rfl
    · simp only [if_neg hb]

section
variable {s : State} (good : Bool) (offset : Int)

theorem exec_peerClockExchange_idle
    (h : s.dev.grandmaster = true ∨ s.dev.discipline = none ∨ s.now < (s.getDie s.bellDie).peerTry + 65536) :
    exec (.peerClockExchange good offset) s = .next s :=
  if_pos (h.imp_right (Or.imp_left fun h => by rw [h]; rfl))

variable {l : Nat} (hgm : s.dev.grandmaster = false) (hdis : s.dev.discipline = some l) (hdue : (s.getDie s.bellDie).peerTry + 65536 ≤ s.now)
include hgm hdis hdue

theorem peerClockExchange_runs :
    ¬ (s.dev.grandmaster = true ∨ s.dev.discipline.isNone = true ∨ s.now < (s.getDie s.bellDie).peerTry + exchangeTicks) := by
  simp only [hgm, hdis, exchangeTicks, Option.isNone_some, Bool.false_eq_true, false_or]
  omega
theorem exec_peerClockExchange_good : exec (.peerClockExchange true offset) s =
    .next ((s.setDie s.bellDie (disciplined s offset)).setPeerLock (decide (offset.natAbs ≤ 92))) :=
  (if_neg (peerClockExchange_runs hgm hdis hdue)).trans (if_pos rfl)
theorem exec_peerClockExchange_missed : exec (.peerClockExchange false offset) s = .next (afterMissedPeer s) :=
  (if_neg (peerClockExchange_runs hgm hdis hdue)).trans (if_neg Bool.false_ne_true)
end

/-- Settles O19: atime slews within its rate, and each exchange answers what the case of its offset, state and run says. -/
theorem clocksSettleHoldAndExpire : Obligations.ClocksSettleHoldAndExpire := by
  intro s d off good
  refine ⟨fun x n m => ⟨skewAt_slewBound x n m, atime_monotone x n m⟩,
    fun hd => ⟨exec_clockExchange_nowhere good off hd, exec_holdoverExpiry_nowhere hd⟩, fun hd => ?_, ?_⟩
  · refine ⟨exec_clockExchange_early good off hd, fun hdue => ⟨?_, ?_⟩, ?_, ?_⟩
    · obtain ⟨missed, offset, lastGood, lastTry, tc, bell, peerLock, goal, slewFrom, aligns⟩ := goodExchange_fields s d off
      refine ⟨_, s.goodExchange d off, exec_clockExchange_due true off hd hdue, dieIs_setDie s d _, onlyDies_setDie d _ (onlyDies_refl s),
        missed, offset, lastGood, lastTry, tc, bell, peerLock, goal, slewFrom, aligns, fun ho => ?far, fun ho hc hg => ?first,
        goodExchange_again_clk s d off, fun ho hc hg hl hb => ?firstLock, fun ho hc => ?settled⟩
      case far => rw [goodExchange_far s d off ho]
      case first => rw [goodExchange_first s d off ho hc hg]; exact ⟨rfl, rfl, rfl⟩
      case firstLock =>
        have band : s.inBand d { slewTo (s.getDie d) s.now (exchangeGoal s d off) with
            skew := max (skewAt (s.getDie d) s.now) (skewAt (s.getDie (s.masterDie d)) s.now) } = s.inBand d (aligned s d off) :=
          inBand_congr s d rfl rfl
        obtain ⟨locks, waits⟩ := goodExchange_firstLock_clk s d off ho hc hg hl hb
        exact ⟨fun h => locks (band.symm.trans h), fun h => waits (band.symm.trans h)⟩
      case settled => rw [goodExchange_settled s d off ho hc]
    · obtain ⟨holds, keeps⟩ := missedExchange_clk (s.getDie d) s.now
      exact ⟨_, missedExchange (s.getDie d) s.now, exec_clockExchange_due false off hd hdue, dieIs_setDie s d _,
        onlyDies_setDie d _ (onlyDies_refl s), rfl, rfl, rfl, rfl, rfl, rfl, rfl, rfl, holds, keeps⟩
    · exact fun hc hx => ⟨clkState_expired ⟨hc, hx⟩, _, exec_holdoverExpiry_expired hd ⟨hc, hx⟩, dieIs_setDie s d _,
        onlyDies_setDie d _ (onlyDies_refl s)⟩
    · intro h
      have lasts : ¬ ((s.getDie d).clk = 2 ∧ (s.getDie d).lastGood + 2 ^ 22 ≤ s.now) := by omega
      exact ⟨clkState_lasting lasts, exec_holdoverExpiry_lasting hd lasts⟩
  · refine ⟨exec_peerClockExchange_idle good off, fun l hgm hdis hdue => ⟨?_, ?_⟩⟩
    · refine ⟨_, exec_peerClockExchange_good off hgm hdis hdue, onlyDies_setPeerLock _ (onlyDies_setDie _ _ (onlyDies_refl s)), ?_,
        fun e he hne => ?_⟩
      · rw [getDie_setPeerLock _ _ (bellDie_lt s), getDie_setDie, if_pos rfl]; rfl
      · rw [getDie_setPeerLock _ _ he, getDie_setDie, if_neg hne]
    · refine ⟨_, exec_peerClockExchange_missed off hgm hdis hdue, onlyDies_afterMissedPeer s, ?_⟩
      rw [getDie_afterMissedPeer s (bellDie_lt s), if_pos rfl]
      exact ⟨rfl, rfl, rfl, rfl, fun e he => by rw [getDie_afterMissedPeer s he]⟩

end Sys2Proof.Clocks
end

section
/-! PROOF. The decoder on the words that the spec writes out: O24. -/

namespace Sys2Proof.WrittenWords

/-- Settles O24: each word is a closed input of the decoder, and the kernel runs it. -/
theorem writtenWordsDecode : Obligations.WrittenWordsDecode := by
  refine ⟨?_, ?_, ?_, ?_, ?_, ?_, ?_, ?_, ?_, ?_, ?_, ?_, ?_, ?_, ?_⟩ <;> decide

end Sys2Proof.WrittenWords
end

section
/-! PROOF. The CSR instructions (R28, R48, R88, R95-R97, R101, R108): what reading and writing each CSR answers, and O35. -/

namespace Sys2Proof.Csrs
open Sys2Proof.Machine Sys2Proof.Claim

-- bits and numbers

/-- The field of w bits at bit i, as a number. -/
theorem field_toNat (v : Word) (i w : Nat) : (v.extractLsb' i w).toNat = v.toNat / 2 ^ i % 2 ^ w := by
  rw [BitVec.extractLsb'_toNat, Nat.shiftRight_eq_div_pow]
/-- The bits from i on are 0 where the number is below 2^i. -/
theorem highField_eq_zero_iff (v : Word) (i w : Nat) (h : i + w = 64) : v.extractLsb' i w = 0#w ↔ v.toNat < 2 ^ i := by
  have bound : v.toNat / 2 ^ i < 2 ^ w := Nat.div_lt_of_lt_mul (by rw [← Nat.pow_add, h]; exact v.isLt)
  rw [← BitVec.toNat_inj, field_toNat, Nat.mod_eq_of_lt bound, BitVec.toNat_ofNat, Nat.zero_mod, Nat.div_eq_zero_iff_lt (Nat.two_pow_pos i)]
/-- A value without a bit of a mask is 0 in every field that the mask covers. -/
theorem field_eq_zero_of_mask {v m : Word} (i w : Nat) (hm : m.extractLsb' i w = BitVec.allOnes w) (h : v &&& m = 0) : v.extractLsb' i w = 0#w := by
  have e : (v &&& m).extractLsb' i w = 0#w := by rw [h]; simp
  rwa [BitVec.extractLsb'_and, hm, BitVec.and_allOnes] at e
/-- Bit i of a word, as a number. -/
theorem getLsbD_eq_decide (v : Word) (i : Nat) : v.getLsbD i = decide (v.toNat / 2 ^ i % 2 = 1) := Nat.testBit_eq_decide_div_mod_eq
/-- ACT of tstatus (R108) is 3. -/
theorem and_act_eq (v : Word) (h : v.toNat / 2 ^ 8 % 4 = 3) : v &&& 0x300#64 = 0x300 := by
  have act : ∀ i, i < 64 → (0x300#64).getLsbD i = (decide (i = 8) || decide (i = 9)) := by decide
  have b8 : v.getLsbD 8 = true := by rw [getLsbD_eq_decide]; simp; omega
  have b9 : v.getLsbD 9 = true := by rw [getLsbD_eq_decide]; simp; omega
  apply BitVec.eq_of_getLsbD_eq
  intro i hi
  show (v &&& 0x300#64).getLsbD i = (0x300#64).getLsbD i
  rw [BitVec.getLsbD_and, act i hi]
  by_cases h8 : i = 8
  · subst h8; simp [b8]
  · by_cases h9 : i = 9
    · subst h9; simp [b9]
    · simp [h8, h9]

-- a CSR instruction

section
variable {s : State} {f : CsrOp} {rd src : Reg} {csr : BitVec 12}

theorem csrInstr_eq (f : CsrOp) (rd src : Reg) (csr : BitVec 12) : csrInstr f rd src csr = csrOf f rd src csr := by cases f <;> rfl
theorem csrWrites_iff (f : CsrOp) (src : Reg) : csrWrites f src = true ↔ csrStores f src := by
  cases f <;> simp [csrWrites, csrStores]
theorem csrNew_eq (s : State) (f : CsrOp) (src : Reg) (old : Word) : csrNew f old (s.csrOperand f src) = csrValue f old (csrArg s f src) := by
  cases f <;> rfl
/-- The immediate of a register field is the register's number. -/
theorem immediate_toFin (src : Reg) : (BitVec.ofNat 5 src.val).toFin = src := Fin.ext (Nat.mod_eq_of_lt src.isLt)
/-- All six CSR instructions run as one. -/
theorem exec_csrOf (s : State) (f : CsrOp) (rd src : Reg) (csr : BitVec 12) : exec (csrOf f rd src csr) s = csrExec f rd src csr s := by
  cases f
  case rw | rs | rc => rfl
  case rwi => exact congrArg (fun r => csrExec .rwi rd r csr s) (immediate_toFin src)
  case rsi => exact congrArg (fun r => csrExec .rsi rd r csr s) (immediate_toFin src)
  case rci => exact congrArg (fun r => csrExec .rci rd r csr s) (immediate_toFin src)

/-- The trap of a CSR instruction: tval 5, the word in tinst. -/
def csrTrap (s : State) (f : CsrOp) (rd src : Reg) (csr : BitVec 12) : Out :=
  raise s 0 5 (((encode (csrOf f rd src csr)).headD 0).setWidth 64)
theorem illegal_csr (s : State) (f : CsrOp) (rd src : Reg) (csr : BitVec 12) :
    illegal s 5 (firstWord (csrInstr f rd src csr)) = csrTrap s f rd src csr := by rw [csrInstr_eq]; rfl

variable {n : Nat} {old : Word} (hn : csr.toNat = n)
include hn

theorem exec_csr_absent (hr : s.csrRead n = none) : exec (csrOf f rd src csr) s = csrTrap s f rd src csr := by
  subst hn
  rw [exec_csrOf, csrExec]
  simp only [hr, illegal_csr]

variable (hr : s.csrRead n = some old)
include hr

theorem exec_csr_reads (hf : ¬ csrStores f src) : exec (csrOf f rd src csr) s = .next (s.done 1 rd old) := by
  subst hn
  rw [exec_csrOf, csrExec]
  simp only [hr, if_neg (mt (csrWrites_iff f src).mp hf)]

variable (hf : csrStores f src)
include hf

theorem exec_csr_readOnly (hro : 0xCC0 ≤ n) : exec (csrOf f rd src csr) s = csrTrap s f rd src csr := by
  subst hn
  rw [exec_csrOf, csrExec]
  simp only [hr, if_pos ((csrWrites_iff f src).mpr hf), if_pos hro, illegal_csr]

variable (hrw : n < 0xCC0)
include hrw

theorem exec_csr_refused (hw : csrWrite s.cur n (csrValue f old (csrArg s f src)) = .refused) :
    exec (csrOf f rd src csr) s = csrTrap s f rd src csr := by
  subst hn
  rw [exec_csrOf, csrExec]
  simp only [hr, if_pos ((csrWrites_iff f src).mpr hf), if_neg (Nat.not_le.mpr hrw), illegal_csr, csrNew_eq, hw]
theorem exec_csr_loopFault (hw : csrWrite s.cur n (csrValue f old (csrArg s f src)) = .loopFault) :
    exec (csrOf f rd src csr) s = raise s 0x17 3 := by
  subst hn
  rw [exec_csrOf, csrExec]
  simp only [hr, if_pos ((csrWrites_iff f src).mpr hf), if_neg (Nat.not_le.mpr hrw), csrNew_eq, hw]
theorem exec_csr_written {u : Machine.Unit} (hw : csrWrite s.cur n (csrValue f old (csrArg s f src)) = .ok u) :
    exec (csrOf f rd src csr) s = .next (State.done (s.afterCsr n { s with cur := u }) 1 rd old) := by
  subst hn
  rw [exec_csrOf, csrExec]
  simp only [hr, if_pos ((csrWrites_iff f src).mpr hf), if_neg (Nat.not_le.mpr hrw), csrNew_eq, hw]
omit hrw in
/-- Below the bank formats a write changes the unit's registers only. -/
theorem exec_csr_replaces (hlow : n < 0x880) {u : Machine.Unit} (hw : csrWrite s.cur n (csrValue f old (csrArg s f src)) = .ok u) :
    exec (csrOf f rd src csr) s = .next (State.done { s with cur := u } 1 rd old) := by
  rw [exec_csr_written hn hr hf (by omega) hw, State.afterCsr, if_neg (by omega)]
end

-- a write of bfmt drops swap-out records of the law unit only (R230)

section
variable (s t : State) (n : Nat)

theorem dropSwaps_cur (l p a k : Nat) : (t.dropSwaps l p a k).cur = t.cur := by unfold State.dropSwaps; split <;> simp
theorem dropSwaps_mem (l p a k : Nat) : (t.dropSwaps l p a k).mem = t.mem := by unfold State.dropSwaps; split <;> simp
theorem afterCsr_cur : (s.afterCsr n t).cur = t.cur := by unfold State.afterCsr; split <;> simp [dropSwaps_cur]
theorem afterCsr_mem : (s.afterCsr n t).mem = t.mem := by unfold State.afterCsr; split <;> simp [dropSwaps_mem]
end

-- what each CSR reads as

section
variable {s : State}

theorem isSc_of_isCore {u : Nat} (h : isCore u = true) : isSc u = false := by
  simp only [isCore, isSc, decide_eq_true_eq, Bool.and_eq_false_iff, decide_eq_false_iff_not] at h ⊢
  omega

theorem csrRead_absent {n : Nat} (hu : ¬ (0xCC0 ≤ n ∧ n ≤ 0xCC6)) (hl : ¬ (0x800 ≤ n ∧ n ≤ 0x807)) (hb : ¬ (0x880 ≤ n ∧ n ≤ 0x8FF))
    (ht : ¬ (0x5C0 ≤ n ∧ n ≤ 0x5C7)) : s.csrRead n = none := by
  unfold State.csrRead
  split
  -- the match's last branch, for the numbers it does not list
  case h_24 => exact if_neg fun h => hb ⟨h.1, h.2.1⟩
  all_goals omega
theorem csrRead_supervisor_user {n : Nat} (hlo : 0x5C0 ≤ n) (hhi : n ≤ 0x5C7) (hp : s.cur.priv = .u) : s.csrRead n = none := by
  have h : n = 0x5C0 ∨ n = 0x5C1 ∨ n = 0x5C2 ∨ n = 0x5C3 ∨ n = 0x5C4 ∨ n = 0x5C5 ∨ n = 0x5C6 ∨ n = 0x5C7 := by omega
  rcases h with rfl | rfl | rfl | rfl | rfl | rfl | rfl | rfl <;> simp [State.csrRead, hp]

variable (hcore : isCore s.focus = true)
include hcore

theorem csrRead_bfmt {b : Nat} (hb : b < 128) : s.csrRead (0x880 + b) = some (look word0 s.cur.bfmt b) := by
  unfold State.csrRead
  split
  -- the match's last branch, for the numbers it does not list
  case h_24 =>
    rw [if_pos ⟨by omega, by omega, by simp [isSc_of_isCore hcore]⟩, Nat.add_sub_cancel_left]
  all_goals omega
theorem csrRead_user {n : Nat} {v : Word} (h : (n, v) ∈ userCsr s) : s.csrRead n = some v := by
  simp only [userCsr, List.mem_cons, Prod.mk.injEq, List.not_mem_nil, or_false] at h
  rcases h with ⟨rfl, rfl⟩ | ⟨rfl, rfl⟩ | ⟨rfl, rfl⟩ | ⟨rfl, rfl⟩ | ⟨rfl, rfl⟩ | ⟨rfl, rfl⟩ | ⟨rfl, rfl⟩ | ⟨rfl, rfl⟩ | ⟨rfl, rfl⟩ |
    ⟨rfl, rfl⟩ | ⟨rfl, rfl⟩ | ⟨rfl, rfl⟩ | ⟨rfl, rfl⟩ | ⟨rfl, rfl⟩ | ⟨rfl, rfl⟩ <;> simp [State.csrRead, isSc_of_isCore hcore]
/-- Every number of the read-only CSRs is one. -/
theorem csrRead_readOnly {n : Nat} (hlo : 0xCC0 ≤ n) (hhi : n ≤ 0xCC6) : ∃ v, s.csrRead n = some v := by
  have h : n = 0xCC0 ∨ n = 0xCC1 ∨ n = 0xCC2 ∨ n = 0xCC3 ∨ n = 0xCC4 ∨ n = 0xCC5 ∨ n = 0xCC6 := by omega
  obtain ⟨v, listed⟩ : ∃ v, (n, v) ∈ userCsr s := by
    rcases h with rfl | rfl | rfl | rfl | rfl | rfl | rfl <;> simp [userCsr]
  exact ⟨v, csrRead_user hcore listed⟩

variable (hp : s.cur.priv ≠ .u)
include hp

omit hcore in
/-- PEND as it reads above U mode (R108). -/
theorem tstatusNow_eq : s.cur.t.tstatus ||| s.pendBit = tstatusNow s.cur := by
  by_cases h : s.cur.asyncs = [] <;> simp [State.pendBit, tstatusNow, hp, h]
theorem csrRead_supervisor {n : Nat} {v : Word} (h : (n, v) ∈ supervisorCsr s.cur) : s.csrRead n = some v := by
  simp only [supervisorCsr, List.mem_cons, Prod.mk.injEq, List.not_mem_nil, or_false] at h
  rcases h with ⟨rfl, rfl⟩ | ⟨rfl, rfl⟩ | ⟨rfl, rfl⟩ | ⟨rfl, rfl⟩ | ⟨rfl, rfl⟩ | ⟨rfl, rfl⟩ | ⟨rfl, rfl⟩ | ⟨rfl, rfl⟩ <;>
    simp [State.csrRead, isSc_of_isCore hcore, hp, tstatusNow_eq hp]
end

-- what writing each CSR does

section
variable (u : Machine.Unit) {v : Word}

/-- A valid format: FMT 0 to 8 and no RSVD bit (R88). -/
theorem bfmtValid_iff (v : Word) :
    ((v.extractLsb' 0 4).toNat ≤ 8 ∧ v.extractLsb' 5 59 = 0#59) ↔ (v.toNat % 16 ≤ 8 ∧ v.toNat < 32) := by
  rw [highField_eq_zero_iff v 5 59 rfl, field_toNat]
  simp
theorem csrWrite_bfmt {b : Nat} (hb : b < 128) : csrWrite u (0x880 + b) v =
    if v.toNat % 16 ≤ 8 ∧ v.toNat < 32 then .ok { u with bfmt := put word0 u.bfmt b v } else .refused := by
  unfold csrWrite
  split
  -- the match's last branch, for the numbers it does not list
  case h_17 =>
    simp only [bfmtValid_iff, Nat.add_sub_cancel_left, show 0x880 ≤ 0x880 + b by omega, show 0x880 + b ≤ 0x8FF by omega, true_and]
  all_goals omega
/-- Making lp1 active needs lp0 active around it (R101). -/
theorem nestOk1_iff : nestOk1 u u.lp1.start u.lp1.last = true ↔
    u.lp0.count ≠ 0 ∧ u.lp0.start.toNat ≤ u.lp1.start.toNat ∧ u.lp1.last.toNat ≤ u.lp0.last.toNat := by
  simp [nestOk1, and_assoc]
theorem csrWrite_rcto : csrWrite u 0x806 v = if v.toNat < 2 ^ 40 then .ok { u with rcto := v } else .refused := by
  simp only [csrWrite, highField_eq_zero_iff v 40 24 rfl]
theorem csrWrite_rctl : csrWrite u 0x807 v = if v.toNat < 2 then .ok { u with rctl := v } else .refused := by
  simp only [csrWrite, highField_eq_zero_iff v 1 63 rfl, Nat.pow_one]

/-- R108: RSVD bits, ACT 3 and PRV 2 or 3 are refused. -/
theorem csrWrite_tstatus_refused
    (h : v.toNat / 2 ^ 10 ≠ 0 ∨ v.toNat / 8 % 32 ≠ 0 ∨ v.toNat / 2 ^ 8 % 4 = 3 ∨ 2 ≤ v.toNat % 4) : csrWrite u 0x5C0 v = .refused := by
  refine if_pos (Decidable.byContradiction fun hno => ?_)
  simp only [not_or, Decidable.not_not, Bool.not_eq_true, ne_eq] at hno
  obtain ⟨rsvd, act, prv⟩ := hno
  have high : v.extractLsb' 10 54 = 0#54 := field_eq_zero_of_mask 10 54 (by decide) rsvd
  have mid : v.extractLsb' 3 5 = 0#5 := field_eq_zero_of_mask 3 5 (by decide) rsvd
  rw [highField_eq_zero_iff v 10 54 rfl] at high
  rw [← BitVec.toNat_inj, field_toNat] at mid
  rw [getLsbD_eq_decide, decide_eq_false_iff_not] at prv
  rcases h with h | h | h | h
  · omega
  · exact h mid
  · exact act (and_act_eq v h)
  · omega
/-- R108: PRV 0 or 1 and ACT 0 to 2 are written; PEND is ignored. -/
theorem csrWrite_tstatus_ok (hr : v &&& 0xFFFFFFFFFFFFFCFA#64 = 0) (hact : v &&& 0x300#64 ≠ 0x300) :
    csrWrite u 0x5C0 v = .ok { u with t := { u.t with tstatus := v &&& 0x301#64 } } := by
  have rsvd : v &&& 0xFFFFFFFFFFFFFCF8#64 = 0 := by
    rw [show 0xFFFFFFFFFFFFFCF8#64 = 0xFFFFFFFFFFFFFCFA#64 &&& 0xFFFFFFFFFFFFFCF8#64 by decide, ← BitVec.and_assoc, hr]
    exact BitVec.zero_and
  have prv : v.getLsbD 1 = false := by simpa using congrArg (fun x : Word => x.getLsbD 1) hr
  refine if_neg ?_
  rintro (h | h | h)
  · exact h rsvd
  · exact hact h
  · exact Bool.false_ne_true (prv.symm.trans h)
end

-- the rows that name one CSR

theorem bfmt_toNat (b : Fin 128) : (BitVec.ofNat 12 (0x880 + b.val)).toNat = 0x880 + b.val := Nat.mod_eq_of_lt (by omega)

theorem exec_bfmtWrite (f : CsrOp) (b : Fin 128) (rd src : Reg) (s : State) :
    exec (.bfmtWrite f b rd src) s = exec (csrOf f rd src (BitVec.ofNat 12 (0x880 + b.val))) s := (exec_csrOf ..).symm
theorem exec_tstatusWrite (f : CsrOp) (rd src : Reg) (s : State) :
    exec (.tstatusWrite f rd src) s = exec (csrOf f rd src 0x5C0#12) s := (exec_csrOf ..).symm
theorem exec_loopCsrWrite (f : CsrOp) (k : Fin 6) (rd src : Reg) (s : State) :
    exec (.loopCsrWrite f k rd src) s = exec (csrOf f rd src (BitVec.ofNat 12 (0x800 + k.val))) s := (exec_csrOf ..).symm
theorem exec_replyCsrWrite (f : CsrOp) (k : Fin 2) (rd src : Reg) (s : State) :
    exec (.replyCsrWrite f k rd src) s = exec (csrOf f rd src (BitVec.ofNat 12 (0x806 + k.val))) s := (exec_csrOf ..).symm

-- the three parts

theorem csrReadsReturnTheRegister : CsrReadsReturnTheRegister := by
  intro s f rd src csr hcore hf
  exact ⟨fun v h => exec_csr_reads rfl (csrRead_user hcore h) hf, fun v h hp => exec_csr_reads rfl (csrRead_supervisor hcore hp h) hf,
    fun b hb hn => exec_csr_reads hn (csrRead_bfmt hcore hb) hf⟩

theorem refusedCsrAccessesTrap : RefusedCsrAccessesTrap := by
  intro s f rd src csr hcore
  refine ⟨fun ⟨hu, hl, hb, ht⟩ => exec_csr_absent rfl (csrRead_absent hu hl hb ht),
    fun hlo hhi hp => exec_csr_absent rfl (csrRead_supervisor_user hlo hhi hp), fun hlo hhi hf => ?readOnly, fun hf => ⟨fun b => ?bfmt, fun h => ?rcto,
    fun h => ?rctl, fun hp => ?supervisor, fun hp h => ?tstatus⟩⟩
  case readOnly =>
    obtain ⟨v, hr⟩ := csrRead_readOnly hcore hlo hhi
    exact exec_csr_readOnly rfl hr hf hlo
  case bfmt =>
    intro v h
    rw [exec_bfmtWrite]
    exact exec_csr_refused (bfmt_toNat b) (csrRead_bfmt hcore b.isLt) hf (by omega)
      ((csrWrite_bfmt _ b.isLt).trans (if_neg fun ok => h.elim (Nat.not_lt.mpr ok.1) (Nat.not_le.mpr ok.2)))
  case rcto =>
    rw [exec_replyCsrWrite]
    exact exec_csr_refused rfl rfl hf (by decide) ((csrWrite_rcto _).trans (if_neg (Nat.not_lt.mpr h)))
  case rctl =>
    rw [exec_replyCsrWrite]
    exact exec_csr_refused rfl rfl hf (by decide) ((csrWrite_rctl _).trans (if_neg (Nat.not_lt.mpr h)))
  case supervisor =>
    rw [exec_tstatusWrite]
    exact exec_csr_absent rfl (csrRead_supervisor_user (by decide) (by decide) hp)
  case tstatus =>
    rw [exec_tstatusWrite]
    exact exec_csr_refused rfl (csrRead_supervisor hcore hp List.mem_cons_self) hf (by decide) (csrWrite_tstatus_refused _ h)

theorem csrWritesReplaceTheRegister : CsrWritesReplaceTheRegister := by
  intro s f rd src hcore hf
  refine ⟨fun b h => ?bfmt, fun h => ?rcto, fun h => ?rctl, ?start0, ?last0, fun h1 hv => ?fault0, fun h => ?count0, ?start1, ?last1,
    ⟨fun h hv => ?fault1, fun h => ?count1⟩, fun hp hr hact => ?tstatus, fun hp => ?trap⟩
  case bfmt =>
    rw [exec_bfmtWrite]
    exact ⟨_, exec_csr_written (bfmt_toNat b) (csrRead_bfmt hcore b.isLt) hf (by omega) ((csrWrite_bfmt _ b.isLt).trans (if_pos h)),
      by simp [afterCsr_cur], by simp [afterCsr_mem]⟩
  case rcto => rw [exec_replyCsrWrite]; exact exec_csr_replaces rfl rfl hf (by decide) ((csrWrite_rcto _).trans (if_pos h))
  case rctl => rw [exec_replyCsrWrite]; exact exec_csr_replaces rfl rfl hf (by decide) ((csrWrite_rctl _).trans (if_pos h))
  case start0 | last0 | start1 | last1 => rw [exec_loopCsrWrite]; exact exec_csr_replaces rfl rfl hf (by decide) rfl
  case fault0 =>
    rw [exec_loopCsrWrite]
    exact exec_csr_loopFault rfl rfl hf (by decide) (if_neg (not_or.mpr ⟨hv, by simpa [nestOk0] using h1⟩))
  case count0 =>
    rw [exec_loopCsrWrite]
    exact exec_csr_replaces rfl rfl hf (by decide) (if_pos (h.symm.imp_right fun h => by simp [nestOk0, h]))
  case fault1 =>
    rw [exec_loopCsrWrite]
    exact exec_csr_loopFault rfl rfl hf (by decide) (if_neg (not_or.mpr ⟨hv, mt (nestOk1_iff _).mp h⟩))
  case count1 =>
    rw [exec_loopCsrWrite]
    exact exec_csr_replaces rfl rfl hf (by decide) (if_pos (h.symm.imp_right (nestOk1_iff _).mpr))
  case tstatus =>
    rw [exec_tstatusWrite]
    exact exec_csr_replaces rfl (csrRead_supervisor hcore hp List.mem_cons_self) hf (by decide) (csrWrite_tstatus_ok _ hr hact)
  case trap =>
    have reads : ∀ {n v}, (n, v) ∈ supervisorCsr s.cur → s.csrRead n = some v := csrRead_supervisor hcore hp
    refine ⟨?_, ?_, ?_, ?_, ?_, ?_, ?_⟩ <;> exact exec_csr_replaces rfl (reads (by simp [supervisorCsr])) hf (by decide) rfl

/-- Settles O35: a CSR instruction reads, is refused or writes, one lemma for each, from what each CSR reads as and what writing it does. -/
theorem csrAccesses : Obligations.CsrAccesses :=
  ⟨csrReadsReturnTheRegister, refusedCsrAccessesTrap, csrWritesReplaceTheRegister⟩

end Sys2Proof.Csrs
end
